-- ==== Sys2Proof/Word.lean ====
section
/-! DEFINITION. The word types of the machine (R5: byte, half 16, word 32, double 64; R175 tile; R229 scale register). -/

namespace Sys2Proof

/-- R5: a byte. -/
abbrev Byte := BitVec 8
/-- R5: a half, 16 bits. -/
abbrev Half := BitVec 16
/-- R5: a word, 32 bits. -/
abbrev Word32 := BitVec 32
/-- R5: a double, 64 bits. -/
abbrev Double := BitVec 64
/-- R175: the 2,048 data bytes of a tile register, read as one little-endian bit string. -/
abbrev TileBits := BitVec 16384
/-- R175: the 512 bytes of a scale side. -/
abbrev SideBits := BitVec 4096
/-- R229: a scale register, 256 bits; also one 32-byte codebook slot (R223) and one 32-byte beat. -/
abbrev Bits256 := BitVec 256
/-- R200: an accumulator, 32 × 32 elements of 32 bits; element (m, n) is bits 32·(32m+n)+31 to 32·(32m+n). -/
abbrev AccBits := BitVec 32768

end Sys2Proof
end

