-- ==== Sys2Proof/Machine/Bits.lean ====
section
/-! DEFINITION. Bit fields, sign extension and byte order (R5): every other file extracts and places fields through these. -/

namespace Sys2Proof

/-- The `n`-bit field of `x` whose lowest bit is `lo`: x[lo+n−1:lo]. -/
def fld (x lo n : Nat) : Nat := (x >>> lo) % 2 ^ n

/-- The same field as a bit vector. -/
def bfld (x lo n : Nat) : BitVec n := BitVec.ofNat n (x >>> lo)

/-- Bit `i` of `x`. -/
def bit (x i : Nat) : Bool := x.testBit i

/-- A Bool as a bit. -/
def b2n (b : Bool) : Nat := if b then 1 else 0

/-- Two's complement value of the low `n` bits of `x`. -/
def sx (x n : Nat) : Int := (BitVec.ofNat n x).toInt

/-- An integer reduced to `n` bits (R10 point 4: truncation on assignment). -/
def tr (n : Nat) (v : Int) : BitVec n := BitVec.ofInt n v

/-- R5: the number whose little-endian bytes are `bs`. -/
def leNat : List Byte → Nat
  | [] => 0
  | b :: bs => b.toNat + 256 * leNat bs

/-- R5: the `n` little-endian bytes of `x`. -/
def leBytes : Nat → Nat → List Byte
  | 0, _ => []
  | n + 1, x => BitVec.ofNat 8 x :: leBytes n (x / 256)

/-- Replaces the `n`-bit field of `x` at `lo` by the low bits of `v`. -/
def putFld {w : Nat} (x : BitVec w) (lo n : Nat) (v : Nat) : BitVec w :=
  BitVec.ofNat w (x.toNat - (fld x.toNat lo n) * 2 ^ lo + (v % 2 ^ n) * 2 ^ lo)

/-- Number of one bits among the low `n` bits. -/
def popc : Nat → Nat → Nat
  | 0, _ => 0
  | n + 1, x => x % 2 + popc n (x / 2)

/-- Least `i < n` with bit `i` set, else `n`. -/
def ctzFrom : Nat → Nat → Nat
  | 0, _ => 0
  | n + 1, x => if x % 2 = 1 then 0 else 1 + ctzFrom n (x / 2)

/-- Ceiling division. -/
def cdiv (a b : Nat) : Nat := (a + b - 1) / b

/-- Smaller of two integers, larger of two integers. -/
def imin (a b : Int) : Int := if a ≤ b then a else b
def imax (a b : Int) : Int := if a ≤ b then b else a

/-- Division of integers toward zero and its remainder (R76, R88). -/
def quoZ (a b : Int) : Int := a.tdiv b
def remZ (a b : Int) : Int := a - b * a.tdiv b

end Sys2Proof
end

