-- ==== Sys2Proof/Syntax.lean ====
section
/-! DEFINITION. The instructions and the machine's steps: one constructor per row of spec/opcode_table.json.
The table lists both the operations a slot of a bundle can hold and the events of the machine (a result landing, a card
fetch, a management command). Table entries (VADD, MSTEP, ...) are not rows of it: XEX runs them, and they have a type of
their own, `Entry`, laid out by R69 and R70. -/

namespace Sys2Proof

/-- The two scalar slots (R50). -/
inductive SSlot where | s0 | s1
  deriving DecidableEq, Repr

/-- The fields every slot carries beside its opcode and body (R54): squashable, guard register, guard bit, inverted guard. -/
structure Head where
  sq : Bool
  greg : BitVec 5
  gpos : BitVec 6
  gneg : Bool
  deriving DecidableEq, Repr

/-- R57: the register form. -/
structure RegOps where
  dst : BitVec 5
  wbs : Bool
  srcA : BitVec 6
  srcB : BitVec 6
  hldA : Bool
  hldB : Bool
  deriving DecidableEq, Repr

/-- R91: the register form of a one-source operation (SRCB and HLDB are zero). -/
structure RegOps1 where
  dst : BitVec 5
  wbs : Bool
  srcA : BitVec 6
  hldA : Bool
  deriving DecidableEq, Repr

/-- R57: the immediate form. -/
structure ImmOps where
  dst : BitVec 5
  wbs : Bool
  srcA : BitVec 6
  imm : BitVec 15
  deriving DecidableEq, Repr

/-- R53: the fused LIMM. -/
structure LimmOps where
  dst : BitVec 5
  wbs : Bool
  imm : BitVec 64
  deriving DecidableEq, Repr

/-- R96: BFX, BFXU and BFI. -/
structure BfOps where
  dst : BitVec 5
  wbs : Bool
  srcA : BitVec 6
  pos : BitVec 6
  wid : BitVec 6
  deriving DecidableEq, Repr

/-- R96: BSET, BCLR and BTST (WID is zero). -/
structure BitOps where
  dst : BitVec 5
  wbs : Bool
  srcA : BitVec 6
  pos : BitVec 6
  deriving DecidableEq, Repr

/-- R96: ADDP. -/
structure AddpOps where
  dst : BitVec 5
  wbs : Bool
  srcA : BitVec 6
  srcB : BitVec 6
  sh : BitVec 3
  deriving DecidableEq, Repr

/-- R123: the load body. -/
structure LoadOps where
  dst : BitVec 5
  wbs : Bool
  srcA : BitVec 6
  pi : Bool
  ofs : BitVec 14
  deriving DecidableEq, Repr

/-- R123: the store body. -/
structure StoreOps where
  srcA : BitVec 6
  srcB : BitVec 6
  pi : Bool
  ofs : BitVec 14
  deriving DecidableEq, Repr

/-- R128: the atomic body. `sz`: a double; `ord` 0 rlx 1 acq 2 rel 3 ar; `scp` 0 core 1 die 2 pkg 3 sys. -/
structure AtomOps where
  dst : BitVec 5
  wbs : Bool
  srcA : BitVec 6
  srcB : BitVec 6
  sz : Bool
  ord : BitVec 2
  scp : BitVec 2
  deriving DecidableEq, Repr

/-- R225: XPND. `w`: CB4. -/
structure XpndOps where
  a : BitVec 6
  gmask : BitVec 8
  td : BitVec 5
  blk : BitVec 3
  bank : BitVec 1
  slot : BitVec 2
  w : Bool
  deriving DecidableEq, Repr

/-- R226: XPNDI. -/
structure XpndiOps where
  a : BitVec 6
  gd : BitVec 3
  td : BitVec 5
  seg : BitVec 6
  w : Bool
  bank : BitVec 1
  slot : BitVec 2
  deriving DecidableEq, Repr

/-- R228: XCVTW. -/
structure XcvtwOps where
  gs : BitVec 3
  ts : BitVec 5
  gd : BitVec 3
  td : BitVec 5
  fmt : BitVec 5
  hi : Bool
  deriving DecidableEq, Repr

/-- R23: the levels of the work hierarchy that have a counter and a cancel (R317). -/
inductive Level where | launch | graph | phase | job
  deriving DecidableEq, Repr

/-- R369: what a peer package asks of this one's memory. -/
inductive PeerKind where
  | read (len : Nat)
  | write (bytes : List Byte)
  | atomic (op : BitVec 4) (dbl : Bool) (b e : Double)
  | tag (v : BitVec 16)
  | cells (st : BitVec 2)
  deriving DecidableEq, Repr

/-- One constructor per row of the opcode table, in the table's order. Slot operations carry the slot where two are
legal, the common slot fields, then the operands of their body; events carry what names the thing that happens. -/
inductive Instr where
  /-- BUNDLE_ISSUE (R52). A fetched 256-bit bundle issues in one clk with its valid slots, including a bundle whose VALID field is zero. -/
  | bundleIssue
  /-- RESULT_LAND (R71). A result lands at its issue clk plus its latency: it writes its register or array bytes and is offered to its latch chain. -/
  | resultLand
  /-- ASSAY_REPLAY (R218). The array finishes recomputing and reassaying a mismatched step, applies the update and re-injects the captured results. -/
  | assayReplay
  /-- TLB_WALK (R119). A page-table walk for a micro-TLB miss ends, so the waiting bundle may issue or the walk raises its fault. -/
  | tlbWalk
  /-- QUEUE_DISPATCH (R139). An access, token or marker leaves the head of the core's load queue or store queue toward its target. -/
  | queueDispatch (store : Bool)
  /-- ACCESS_PERFORMED (R138). A dispatched load, store or atomic is performed at its point of coherence, and a load's value is returned. -/
  | accessPerformed (id : Nat)
  /-- WRITE_ACKNOWLEDGEMENT (R140). The acknowledgement of a far store or far atomic arrives and lowers ACKCNT by 1. -/
  | writeAcknowledgement
  /-- CELL_OPERATION (R319). A cell load, CELLMK, RESOLVE, FREG or SPECEV reaches the cell's line and makes its state transition indivisibly. -/
  | cellOperation (id : Nat)
  /-- RESOLVE_ON_FIRE (R324). An armed RESOLVE.on resolves its cell when the named timeline reaches its value. -/
  | resolveOnFire (i : Nat)
  /-- TRAP_TAKE (R337). At a bundle boundary a cause is taken and the action from the action table, or the default action, is applied. -/
  | trapTake
  /-- PREEMPTION_DUE (R314). A unit has run 2^22 clk while a record of higher priority waits, so the dispatcher decides to pre-empt it. -/
  | preemptionDue
  /-- PREEMPTION (R314). The unit reaches a permitted pre-emption point, its context is saved and it is queued at its priority. -/
  | preemption
  /-- CONTEXT_SAVE (R348). The context-save engine has written all sections of a context to its area and sets VALID last. -/
  | contextSave
  /-- CONTEXT_RESTORE (R350). A saved context is restored on its logical core: the carve-out is moved, the area is read back and the landing records are re-injected. -/
  | contextRestore
  /-- DEPTH (R347). An accumulator has stayed open for more than MAXDEPTH + 4,096 clk, and DEPTH is raised as a deferred cause. -/
  | depth
  /-- UNIT_PICKUP (R313). An idle core takes the next record from its run list or a die queue and starts the unit. -/
  | unitPickup
  /-- QUEUE_PROMOTION (R313). A record that has waited 2^24 clk in a priority queue moves to the next higher queue. -/
  | queuePromotion (die prio : Nat)
  /-- CHUNK_GRANT (R312). A launch's leader grants the next chunk of the argument array by fetch-and-add on NEXT and queues the units. -/
  | chunkGrant (slot : Nat)
  /-- LEVEL_COMPLETION (R316). A launch, graph, phase or job counter reaches zero with nothing left to deal; signals are sent and FUT is resolved. -/
  | levelCompletion (lvl : Level) (id : Nat)
  /-- DISPATCH_DECISION (R297). The dispatcher reads a dispatch request and the operand tags, looks up methods and creates tasks, or fails. -/
  | dispatchDecision (id : Nat)
  /-- COPY_BEAT_TRANSFER (R238). The copy engine reads source bytes and performs a destination beat of a running command. -/
  | copyBeatTransfer (ctx : Nat)
  /-- PROGRESS_ENTRY_PUSH (R256). A command with QEN pushes the offset of a completed group of runs, or an end-of-stream token, into an input queue. -/
  | progressEntryPush (ctx : Nat)
  /-- COMMAND_END (R234). An engine command ends, done or failed, and its timeline counter advances. -/
  | commandEnd (tl : Nat)
  /-- FEWAIT (R249). A full/empty wait on one line exceeds 2^24 clk and the command fails. -/
  | feWait (ctx : Nat)
  /-- QFULL (R255). A queue push waits more than 2^24 clk and the command fails with the entry dropped. -/
  | qFull (ctx : Nat)
  /-- QPUSH_DELIVERY (R255). Once earlier commands have ended and earlier writes are acknowledged, QPUSH delivers its entry into the target queue. -/
  | qpushDelivery (ctx : Nat)
  /-- SYNCW_WRITE (R253). Once earlier commands of its context have ended, SYNCW sets TARGET, COUNT and optionally GEN indivisibly. -/
  | syncwWrite (ctx : Nat)
  /-- PREFETCH_FILL (R257). The prefetcher reads a line of a bound stream into the core cache or the home L2 slice. -/
  | prefetchFill (sid : Nat) (line : Nat)
  /-- HOIST_TILE_IN (R259). The hoist reads run k into an empty ring slot and sets its lines full. -/
  | hoistTileIn (sid : Nat)
  /-- HOIST_TILE_OUT (R259). The hoist takes a full ring slot, sets its lines empty and writes it to run k in memory. -/
  | hoistTileOut (sid : Nat)
  /-- TFILL_INDEX_WRITE (R162). The fill engine checks and writes one index of the selected groups into the shadow side. -/
  | tfillIndexWrite
  /-- CBFILL_SLOT_WRITE (R261). A codebook fill writes a selected slot of its bank once its image has arrived and its hold has ended. -/
  | cbfillSlotWrite
  /-- SET_COMPLETE (R165). The leader has N arrivals for a switch set and all members report VALID, so the set completes. -/
  | setComplete (set : Nat)
  /-- SHIFT_CHANGE_RELEASE (R166). A member receives the release, flips ACT, clears its latches and issues the TSWAP bundle. -/
  | shiftChangeRelease
  /-- SWITCH_WITHDRAWAL (R168). After 2^24 clk of shift-change wait the core withdraws; the leader answers with a swap or SWITCHTO. -/
  | switchWithdrawal
  /-- COLL_RENDEZVOUS (R267). The members of a collective transfer meet and their descriptors are matched. -/
  | collRendezvous (ctx : Nat)
  /-- NOPEER (R267). A member has waited 2^32 clk for its partners and fails the transfer. -/
  | noPeer (ctx : Nat)
  /-- COLL_TRANSFER (R266). A collective engine sends, relays, reduces or writes chunk data for a transfer. -/
  | collTransfer (ctx : Nat)
  /-- PRECISION_COUNTER_UPDATE (R273). A chunk's counter advances by one plane once all its words are performed. -/
  | precisionCounterUpdate (ctx : Nat) (chunk : Nat)
  /-- CANCEL_ARRIVAL (R280). A cancellation reaches a member, which freezes its counters, stops sending and ends with STATUS 2. -/
  | cancelArrival (ctx : Nat)
  /-- CARVE_MOVE_END (R136). A carve-out move ends and the banks in transit take their new roles. -/
  | carveMoveEnd
  /-- ADAPTIVE_INTERVAL_END (R135). An adaptive sampling interval of 65,536 clk ends and the carve-out may grow or shrink by one step. -/
  | adaptiveIntervalEnd
  /-- HOST_WRITE (R148). A host write TLP arrives: it is performed in HBM or enters the target core's ingress buffer. -/
  | hostWrite (bar : Nat) (off : Nat) (bytes : List Byte)
  /-- HOST_READ (R356). A host read request through a BAR returns the device bytes. -/
  | hostRead (bar : Nat) (off : Nat) (len : Nat)
  /-- INGRESS_FLUSH (R148). The ingress buffer has held 64 entries for 2^20 clk, so the core applies them at its next bundle boundary. -/
  | ingressFlush
  /-- HOST_PORT_DOWN (R355). A host port goes down and its requests in flight are lost. -/
  | hostPortDown (port : Nat)
  /-- SQTAIL_WRITE (R360). A doorbell write sets TAIL, or sets STOP and raises SUBMIT when it exceeds the ring. -/
  | sqtailWrite (q : Nat) (v : Double)
  /-- SQCFG_WRITE (R359). A write to SQCFG configures the ring; setting EN resets its head, tail, completion counters and events. -/
  | sqcfgWrite (q : Nat) (v : Double)
  /-- SQHEAD_WRITE (R360). Writing 1 to STOP clears it and restarts the fetcher at card HEAD. -/
  | sqheadWrite (q : Nat) (v : Double)
  /-- CQHEAD_WRITE (R361). The host advances CQHEAD, making room for waiting completion events. -/
  | cqheadWrite (q : Nat) (v : Double)
  /-- REGISTER_WRITE (R9). A write to a device register that has no row of its own sets its fields by their access codes. -/
  | registerWrite (off : Nat) (v : Double)
  /-- CARD_FETCH (R360). The fetcher reads card HEAD and accepts or rejects it once SEQ and CRC match. -/
  | cardFetch (q : Nat)
  /-- SUBMIT (R360). A card fails its check for 2^16 clk, so SUBMIT is raised and the ring stops. -/
  | submit (q : Nat)
  /-- COMPLETION_EVENT (R361). A ring event writes its completion entry once the completion ring has room, and signals MSI-X vector q. -/
  | completionEvent (q : Nat)
  /-- PEER_ACCESS (R369). An access arriving over the device links is performed at the home slice and acknowledged. -/
  | peerAccess (pa : Nat) (kind : PeerKind)
  /-- PEER_UNREACHABLE (R369). A peer is not reached within 2^26 clk; the store's count is returned, or the load raises MEMUE. -/
  | peerUnreachable (id : Nat)
  /-- GTS_SYNC (R370). A package steers its GTS toward the master's over the links and sets LOCKED when within one count. -/
  | gtsSync (master : Nat)
  /-- LINK_PORT_CHANGE (R368). A device-link port trains or goes down, and routing changes around it. -/
  | linkPortChange (port : Nat) (up : Bool)
  /-- POWER_ON_RESET (R372). Power-on reset starts bring-up of the package. -/
  | powerOnReset
  /-- CLOCK_CHANGE (R371). The device lowers or raises the arithmetic clock by 25 MHz steps to keep power and temperature limits. -/
  | clockChange (up : Bool)
  /-- THERMAL_TRIP (R371). A die reaches 115 °C; every core and engine stops and the package enters HALTED. -/
  | thermalTrip
  /-- HEARTBEAT_MISS (R379). A die misses three heartbeats and is declared lost. -/
  | heartbeatMiss (die : Nat)
  /-- DIE_LOSS (R379). The survivors fence off the lost die, rebuild interleave and dispatch, fail its transfers and requeue its units. -/
  | dieLoss (die : Nat)
  /-- STACK_ROW_SPARE (R377). After 16 corrected errors in one row, a spare stack row is applied. -/
  | stackRowSpare (stack row : Nat)
  /-- PSEUDO_CHANNEL_SPARE (R377). After 256 corrected errors a spare pseudo-channel takes over with a background copy. -/
  | pseudoChannelSpare (stack channel : Nat)
  /-- LANE_RETRAIN (R377). A die-to-die link retrains onto spare lanes, holding traffic for at most 20,000 GTS counts. -/
  | laneRetrain (link : Nat)
  /-- INFO (R376). Returns ROM and patch versions, stepping, serial number and live-die mask. -/
  | info
  /-- JOBNEW (R376). Creates a job with its root table, action table, method table and context pool. -/
  | jobnew
  /-- JOBEND (R376). Cancels a job, waits for it, unloads its objects and frees its pages and areas. -/
  | jobend
  /-- MAP (R403). Writes page-table leaves for a range of a job's address space. -/
  | map
  /-- UNMAP (R403). Removes mappings for a range and completes after every cached copy is gone. -/
  | unmap
  /-- LOAD (R364). Runs the loader on an object image and returns its status, handle and bases. -/
  | load
  /-- UNLOAD (R376). Waits until the object is unused, then unmaps it and frees its handle. -/
  | unload
  /-- RESUME (R376). Resumes the parked context of a core. -/
  | resume
  /-- KILL (R376). Kills a parked context or a frozen core. -/
  | kill
  /-- DEBUG (R376). Writes DBGCTL of a core. -/
  | debug
  /-- CAP (R376). Sets the package power cap. -/
  | cap
  /-- CKPT (R380). Quiesces a job and streams its memory ranges with tags and cell states to a peer. -/
  | ckpt
  /-- RESTORE (R380). Reads a job's ranges back from a peer, with tags and cell states. -/
  | restore
  /-- ATTEST (R382). Writes a signed attestation report over a nonce. -/
  | attest
  /-- PATCH (R381). Verifies a firmware patch and stores it for the next bring-up. -/
  | patch
  /-- LOGRD (R376). Copies and removes the oldest error-log entries. -/
  | logrd
  /-- DIEOFF (R376). Declares a die lost. -/
  | dieoff
  /-- LINKCFG (R376). Writes PEERTAB and GTSCTL, and optionally stores the system package number. -/
  | linkcfg
  /-- RESET (R372). Reruns bring-up; every job ends and every context is lost. -/
  | reset
  /-- BADCMD (R375). A mailbox command with an unassigned OP ends with status BADCMD. -/
  | badcmd
  /-- NOP (R101). Issues and does nothing. -/
  | nop (sl : SSlot) (h : Head)
  /-- ADD.W (R88). 32-bit add, sign-extended. -/
  | addW (sl : SSlot) (h : Head) (o : RegOps)
  /-- ADD.D (R88). 64-bit add. -/
  | addD (sl : SSlot) (h : Head) (o : RegOps)
  /-- SUB.W (R88). 32-bit subtract. -/
  | subW (sl : SSlot) (h : Head) (o : RegOps)
  /-- SUB.D (R88). 64-bit subtract. -/
  | subD (sl : SSlot) (h : Head) (o : RegOps)
  /-- MUL.W (R88). 32-bit multiply, low bits. -/
  | mulW (sl : SSlot) (h : Head) (o : RegOps)
  /-- MUL.D (R88). 64-bit multiply, low bits. -/
  | mulD (sl : SSlot) (h : Head) (o : RegOps)
  /-- MULH.W (R88). 32-bit signed multiply, high bits. -/
  | mulhW (sl : SSlot) (h : Head) (o : RegOps)
  /-- MULH.D (R88). 64-bit signed multiply, high bits. -/
  | mulhD (sl : SSlot) (h : Head) (o : RegOps)
  /-- MULHU.W (R88). 32-bit unsigned multiply, high bits. -/
  | mulhuW (sl : SSlot) (h : Head) (o : RegOps)
  /-- MULHU.D (R88). 64-bit unsigned multiply, high bits. -/
  | mulhuD (sl : SSlot) (h : Head) (o : RegOps)
  /-- DIV.W (R88). 32-bit signed divide; a zero divisor raises INTDIV0. -/
  | divW (sl : SSlot) (h : Head) (o : RegOps)
  /-- DIV.D (R88). 64-bit signed divide; a zero divisor raises INTDIV0. -/
  | divD (sl : SSlot) (h : Head) (o : RegOps)
  /-- DIVU.W (R88). 32-bit unsigned divide. -/
  | divuW (sl : SSlot) (h : Head) (o : RegOps)
  /-- DIVU.D (R88). 64-bit unsigned divide. -/
  | divuD (sl : SSlot) (h : Head) (o : RegOps)
  /-- REM.W (R88). 32-bit signed remainder. -/
  | remW (sl : SSlot) (h : Head) (o : RegOps)
  /-- REM.D (R88). 64-bit signed remainder. -/
  | remD (sl : SSlot) (h : Head) (o : RegOps)
  /-- REMU.W (R88). 32-bit unsigned remainder. -/
  | remuW (sl : SSlot) (h : Head) (o : RegOps)
  /-- REMU.D (R88). 64-bit unsigned remainder. -/
  | remuD (sl : SSlot) (h : Head) (o : RegOps)
  /-- ADDI.W (R90). 32-bit add of a sign-extended immediate. -/
  | addiW (sl : SSlot) (h : Head) (o : ImmOps)
  /-- ADDI.D (R90). 64-bit add of a sign-extended immediate. -/
  | addiD (sl : SSlot) (h : Head) (o : ImmOps)
  /-- AND (R91). Bitwise AND. -/
  | and (sl : SSlot) (h : Head) (o : RegOps)
  /-- OR (R91). Bitwise OR. -/
  | or (sl : SSlot) (h : Head) (o : RegOps)
  /-- XOR (R91). Bitwise XOR. -/
  | xor (sl : SSlot) (h : Head) (o : RegOps)
  /-- ANDN (R91). a AND NOT b. -/
  | andn (sl : SSlot) (h : Head) (o : RegOps)
  /-- SHL (R91). Shift left by b[5:0]. -/
  | shl (sl : SSlot) (h : Head) (o : RegOps)
  /-- SHR (R91). Logical shift right by b[5:0]. -/
  | shr (sl : SSlot) (h : Head) (o : RegOps)
  /-- SAR (R91). Arithmetic shift right by b[5:0]. -/
  | sar (sl : SSlot) (h : Head) (o : RegOps)
  /-- ROTL (R91). Rotate left by b[5:0]. -/
  | rotl (sl : SSlot) (h : Head) (o : RegOps)
  /-- CLZ (R91). Count leading zero bits. -/
  | clz (sl : SSlot) (h : Head) (o : RegOps1)
  /-- CTZ (R91). Count trailing zero bits. -/
  | ctz (sl : SSlot) (h : Head) (o : RegOps1)
  /-- POPC (R91). Count one bits. -/
  | popc (sl : SSlot) (h : Head) (o : RegOps1)
  /-- MIN (R91). Signed minimum. -/
  | min (sl : SSlot) (h : Head) (o : RegOps)
  /-- MAX (R91). Signed maximum. -/
  | max (sl : SSlot) (h : Head) (o : RegOps)
  /-- MINU (R91). Unsigned minimum. -/
  | minu (sl : SSlot) (h : Head) (o : RegOps)
  /-- MAXU (R91). Unsigned maximum. -/
  | maxu (sl : SSlot) (h : Head) (o : RegOps)
  /-- SEQ (R91). 1 if a = b. -/
  | seq (sl : SSlot) (h : Head) (o : RegOps)
  /-- SNE (R91). 1 if a differs from b. -/
  | sne (sl : SSlot) (h : Head) (o : RegOps)
  /-- SLT (R91). 1 if a < b, signed. -/
  | slt (sl : SSlot) (h : Head) (o : RegOps)
  /-- SLTU (R91). 1 if a < b, unsigned. -/
  | sltu (sl : SSlot) (h : Head) (o : RegOps)
  /-- SLE (R91). 1 if a ≤ b, signed. -/
  | sle (sl : SSlot) (h : Head) (o : RegOps)
  /-- SLEU (R91). 1 if a ≤ b, unsigned. -/
  | sleu (sl : SSlot) (h : Head) (o : RegOps)
  /-- SEL (R92). Selects a or b by its destination register's value. -/
  | sel (sl : SSlot) (h : Head) (o : RegOps)
  /-- ANDI (R93). AND with an immediate. -/
  | andi (sl : SSlot) (h : Head) (o : ImmOps)
  /-- ORI (R93). OR with an immediate. -/
  | ori (sl : SSlot) (h : Head) (o : ImmOps)
  /-- XORI (R93). XOR with an immediate. -/
  | xori (sl : SSlot) (h : Head) (o : ImmOps)
  /-- SHLI (R93). Shift left by an immediate. -/
  | shli (sl : SSlot) (h : Head) (o : ImmOps)
  /-- SHRI (R93). Logical shift right by an immediate. -/
  | shri (sl : SSlot) (h : Head) (o : ImmOps)
  /-- SARI (R93). Arithmetic shift right by an immediate. -/
  | sari (sl : SSlot) (h : Head) (o : ImmOps)
  /-- MOVW (R94). Shifts source A left by 15 and inserts a 15-bit immediate. -/
  | movw (sl : SSlot) (h : Head) (o : ImmOps)
  /-- LIMM (R95). Writes a 64-bit immediate carried in a LONG bundle. -/
  | limm (h : Head) (o : LimmOps)
  /-- BFX (R97). Extracts a bit field, sign-extended. -/
  | bfx (sl : SSlot) (h : Head) (o : BfOps)
  /-- BFXU (R97). Extracts a bit field, zero-extended. -/
  | bfxu (sl : SSlot) (h : Head) (o : BfOps)
  /-- BFI (R97). Inserts a bit field into the destination's value. -/
  | bfi (sl : SSlot) (h : Head) (o : BfOps)
  /-- BSET (R97). Sets bit p. -/
  | bset (sl : SSlot) (h : Head) (o : BitOps)
  /-- BCLR (R97). Clears bit p. -/
  | bclr (sl : SSlot) (h : Head) (o : BitOps)
  /-- BTST (R97). Returns bit p. -/
  | btst (sl : SSlot) (h : Head) (o : BitOps)
  /-- ADDP (R97). Adds a shifted offset within the 56-bit address. -/
  | addp (sl : SSlot) (h : Head) (o : AddpOps)
  /-- BR (R103). Relative branch with two delay bundles. -/
  | br (h : Head) (off : BitVec 24)
  /-- BRL (R103). Relative branch that writes the link value pc + 96. -/
  | brl (h : Head) (dst : BitVec 5) (wbs : Bool) (off : BitVec 21)
  /-- BRI (R103). Indirect branch to a register plus an immediate. -/
  | bri (h : Head) (a : BitVec 6) (imm : BitVec 15)
  /-- RET (R103). Indirect branch to a register; ends a call. -/
  | ret (h : Head) (a : BitVec 6)
  /-- LOOP (R108). Counts a loop counter down and branches while the count exceeds 1, else reloads it. -/
  | loop (h : Head) (lc : BitVec 2) (off : BitVec 24)
  /-- LOOP.SET (R108). Sets COUNT and RELOAD of a loop counter. -/
  | loopSet (h : Head) (lc : BitVec 2) (a : BitVec 6)
  /-- SLOOP (R113). Waits on an input queue, and branches or pops an end-of-stream token and sets the exit bit. -/
  | sloop (h : Head) (iq : BitVec 2) (xg : BitVec 5) (xb : BitVec 6) (off : BitVec 14)
  /-- SPSET (R110). Sets the stage predicates and the feed count. -/
  | spset (h : Head) (mask : BitVec 8) (a : BitVec 6)
  /-- LDB (R124). Loads a signed byte. -/
  | ldb (h : Head) (o : LoadOps)
  /-- LDBU (R124). Loads an unsigned byte. -/
  | ldbu (h : Head) (o : LoadOps)
  /-- LDH (R124). Loads a signed half. -/
  | ldh (h : Head) (o : LoadOps)
  /-- LDHU (R124). Loads an unsigned half. -/
  | ldhu (h : Head) (o : LoadOps)
  /-- LDW (R124). Loads a signed word. -/
  | ldw (h : Head) (o : LoadOps)
  /-- LDWU (R124). Loads an unsigned word. -/
  | ldwu (h : Head) (o : LoadOps)
  /-- LDD (R124). Loads a double. -/
  | ldd (h : Head) (o : LoadOps)
  /-- STB (R124). Stores a byte. -/
  | stb (h : Head) (o : StoreOps)
  /-- STH (R124). Stores a half. -/
  | sth (h : Head) (o : StoreOps)
  /-- STW (R124). Stores a word. -/
  | stw (h : Head) (o : StoreOps)
  /-- STD (R124). Stores a double. -/
  | std (h : Head) (o : StoreOps)
  /-- RINV (R132). Invalidates core-cache lines that overlap a range. -/
  | rinv (h : Head) (a b : BitVec 6)
  /-- AADD (R129). Atomic add. -/
  | aadd (h : Head) (o : AtomOps)
  /-- AMIN (R129). Atomic signed minimum. -/
  | amin (h : Head) (o : AtomOps)
  /-- AMINU (R129). Atomic unsigned minimum. -/
  | aminu (h : Head) (o : AtomOps)
  /-- AMAX (R129). Atomic signed maximum. -/
  | amax (h : Head) (o : AtomOps)
  /-- AMAXU (R129). Atomic unsigned maximum. -/
  | amaxu (h : Head) (o : AtomOps)
  /-- AAND (R129). Atomic AND. -/
  | aand (h : Head) (o : AtomOps)
  /-- AOR (R129). Atomic OR. -/
  | aor (h : Head) (o : AtomOps)
  /-- AXOR (R129). Atomic XOR. -/
  | axor (h : Head) (o : AtomOps)
  /-- ASWAP (R129). Atomic swap. -/
  | aswap (h : Head) (o : AtomOps)
  /-- ACAS (R129). Atomic compare and swap. -/
  | acas (h : Head) (o : AtomOps)
  /-- PHASE (R134). Sets the phase number and moves the carve-out to a fixed size. -/
  | phase (h : Head) (a : BitVec 6)
  /-- CARVE (R134). Sets the adaptive carve-out limits and thresholds. -/
  | carve (h : Head) (a : BitVec 6)
  /-- FENCE (R143). Places acquire, release or acquire-release tokens in the queues. -/
  | fence (h : Head) (ord : BitVec 2) (scp : BitVec 2)
  /-- QALIGN (R142). Places a token in both queues so earlier accesses dispatch first. -/
  | qalign (h : Head)
  /-- TLWAIT (R147). Stalls until a timeline counter reaches a value. -/
  | tlwait (h : Head) (tl : BitVec 3) (a : BitVec 6)
  /-- TLREAD (R147). Reads a timeline counter through the load queue. -/
  | tlread (h : Head) (dst : BitVec 5) (wbs : Bool) (tl : BitVec 3)
  /-- TSWAP (R165). Arrives at a switch set and waits for the shift change. -/
  | tswap (h : Head) (a : BitVec 6)
  /-- TSTATR (R170). Reads TABST, SWSTALL or SWCOUNT. -/
  | tstatr (sl : SSlot) (h : Head) (dst : BitVec 5) (wbs : Bool) (sel : BitVec 3)
  /-- TDSET (R171). Writes a tile descriptor in the selected groups. -/
  | tdset (sl : SSlot) (h : Head) (treg : BitVec 5) (a : BitVec 6) (gmask : BitVec 8)
  /-- PCNT (R277). Reads a precision counter word with an implied acquire. -/
  | pcnt (sl : SSlot) (h : Head) (dst : BitVec 5) (wbs : Bool) (a : BitVec 6)
  /-- PWAIT (R278). Stalls until a precision counter reaches a threshold or freezes. -/
  | pwait (h : Head) (a b : BitVec 6)
  /-- TAGGET (R288). Reads a tile slot's tag. -/
  | tagget (h : Head) (dst : BitVec 5) (wbs : Bool) (a : BitVec 6)
  /-- TAGSET (R288). Writes a tile slot's tag. -/
  | tagset (h : Head) (a b : BitVec 6)
  /-- DISPATCH (R296). Hands a dispatch request to the dispatcher after a release. -/
  | dispatch (h : Head) (dst : BitVec 5) (wbs : Bool) (a : BitVec 6)
  /-- MLOOK (R294). Looks up a method table record by key. -/
  | mlook (h : Head) (dst : BitVec 5) (wbs : Bool) (a : BitVec 6)
  /-- CELLMK (R322). Writes a record into a cell and sets it SUSPENDED. -/
  | cellmk (h : Head) (a b : BitVec 6)
  /-- CELLMK.fut (R322). Makes a cell a PENDING future. -/
  | cellmkFut (h : Head) (a : BitVec 6)
  /-- RESOLVE (R324). Resolves a cell with a 64-byte value. -/
  | resolve (h : Head) (a b : BitVec 6)
  /-- RESOLVE.on (R324). Arms a resolution of a cell that fires when a timeline reaches a value. -/
  | resolveOn (h : Head) (a b : BitVec 6) (tl : BitVec 3)
  /-- FREG (R325). Registers a continuation on a cell, or returns its value. -/
  | freg (h : Head) (dst : BitVec 5) (wbs : Bool) (a b : BitVec 6)
  /-- SPAWN (R311). Queues a record in the issuer's launch. -/
  | spawn (h : Head) (a b : BitVec 6)
  /-- SUSPEND (R305). Ends the unit's stretch, writes its record back and requeues it. -/
  | suspend (h : Head) (a : BitVec 6) (off : BitVec 21)
  /-- FINISH (R305). Ends the unit and counts it complete. -/
  | finish (h : Head) (a : BitVec 6)
  /-- LAUNCH (R311). Reads a job card and creates a launch in the issuer's graph. -/
  | launch (h : Head) (dst : BitVec 5) (wbs : Bool) (a : BitVec 6)
  /-- CHUNK (R312). Claims a range of argument indices. -/
  | chunk (h : Head) (dst : BitVec 5) (wbs : Bool)
  /-- CNTRD (R317). Reads a level's completion counter and state. -/
  | cntrd (h : Head) (dst : BitVec 5) (wbs : Bool) (a : BitVec 6) (lvl : BitVec 3)
  /-- CANCEL (R318). Cancels a level of the work hierarchy. -/
  | cancel (h : Head) (a : BitVec 6) (lvl : BitVec 3)
  /-- SPECEV (R326). Starts a speculative evaluation of a SUSPENDED cell. -/
  | specev (h : Head) (a b : BitVec 6)
  /-- TRAP (R341). Raises SWTRAP with a code. -/
  | trap (h : Head) (code : BitVec 16)
  /-- DBGBRK (R341). Raises DBGBRK with a code. -/
  | dbgbrk (h : Head) (code : BitVec 16)
  /-- TRET (R342). Returns from a trap level, restoring held operands and redirect and re-injecting records. -/
  | tret (h : Head)
  /-- MFS (R343). Reads a special register; an IQPOP read pops a value. -/
  | mfs (sl : SSlot) (h : Head) (dst : BitVec 5) (wbs : Bool) (spr : BitVec 12)
  /-- MTS (R343). Writes a special register. -/
  | mts (sl : SSlot) (h : Head) (spr : BitVec 12) (a : BitVec 6)
  /-- TIME (R345). Reads GTS or the clk count. -/
  | time (sl : SSlot) (h : Head) (dst : BitVec 5) (wbs : Bool) (sel : BitVec 2)
  /-- PERFRD (R346). Reads a performance counter. -/
  | perfrd (sl : SSlot) (h : Head) (dst : BitVec 5) (wbs : Bool) (cnt : BitVec 8)
  /-- XEX (R158). Sends a table index to all groups, each executing its own entry in lockstep. -/
  | xex (h : Head) (idx : BitVec 10) (psel : BitVec 4)
  /-- XPND (R225). Expands a CB3 or CB4 block from the core array into BF16 values. -/
  | xpnd (h : Head) (o : XpndOps)
  /-- XPNDI (R226). Expands 16 codebook indices held in a register. -/
  | xpndi (h : Head) (o : XpndiOps)
  /-- XPOS (R227). Transposes a tile register. -/
  | xpos (h : Head) (gs : BitVec 3) (ts : BitVec 5) (gd : BitVec 3) (td : BitVec 5)
  /-- XCVTW (R228). Widens half of a tile exactly. -/
  | xcvtw (h : Head) (o : XcvtwOps)
  /-- KLD (R230). Loads a scale register from the core array. -/
  | kld (h : Head) (kn : BitVec 3) (a : BitVec 6) (sz : Bool) (ofs : BitVec 13)
  /-- KSET (R231). Writes a scale register from a g register. -/
  | kset (h : Head) (kn : BitVec 3) (a : BitVec 6) (mode : BitVec 2) (j : BitVec 3)
  /-- KMOV (R232). Copies one scale register to another. -/
  | kmov (h : Head) (kd ks : BitVec 3)
  /-- CPY (R238). Copies a stream of bytes unchanged. -/
  | cpy (h : Head) (a b : BitVec 6) (ctx : BitVec 2)
  /-- CPYG (R240). Copies with an indexed source. -/
  | cpyg (h : Head) (a b : BitVec 6) (ctx : BitVec 2)
  /-- CPYS (R240). Copies with an indexed destination. -/
  | cpys (h : Head) (a b : BitVec 6) (ctx : BitVec 2)
  /-- CPYT (R241). Copies whole tile slots with their tags. -/
  | cpyt (h : Head) (a b : BitVec 6) (ctx : BitVec 2)
  /-- CPYX (R244). Expands compressed records. -/
  | cpyx (h : Head) (a b : BitVec 6) (ctx : BitVec 2)
  /-- CPYZ (R244). Compresses bytes into records. -/
  | cpyz (h : Head) (a b : BitVec 6) (ctx : BitVec 2)
  /-- CPYW (R243). Widens elements exactly while copying. -/
  | cpyw (h : Head) (a b : BitVec 6) (ctx : BitVec 2) (sfmt dfmt : BitVec 5)
  /-- CFILL (R238). Fills a stream with an 8-byte pattern. -/
  | cfill (h : Head) (a b : BitVec 6) (ctx : BitVec 2)
  /-- STRM (R257). Binds a prefetch stream. -/
  | strm (h : Head) (a : BitVec 6) (sid : BitVec 3) (tgt : Bool) (depthm1 : BitVec 8)
  /-- STRMX (R257). Advances or unbinds a prefetch stream. -/
  | strmx (h : Head) (a : BitVec 6) (sid : BitVec 3)
  /-- SYNCW (R253). Resets a sync word in order within its context. -/
  | syncw (h : Head) (a b : BitVec 6) (ctx : BitVec 2) (g : Bool)
  /-- HSUB (R258). Subscribes a ring to a memory stream through the hoist. -/
  | hsub (h : Head) (a b : BitVec 6) (sid : BitVec 3) (dir : Bool)
  /-- HREL (R260). Releases a hoist subscription. -/
  | hrel (h : Head) (sid : BitVec 3)
  /-- CBFILL (R261). Fills codebook slots from memory. -/
  | cbfill (h : Head) (a : BitVec 6) (bank : BitVec 1) (smask : BitVec 4)
  /-- QPUSH (R255). Pushes a value or token into a core's input queue. -/
  | qpush (h : Head) (a b : BitVec 6) (ctx : BitVec 2) (iq : BitVec 2) (tok : Bool)
  /-- TFILL (R162). Writes a table image into the shadow side. -/
  | tfill (h : Head) (a b : BitVec 6) (gmask : BitVec 8)
  /-- COLL (R266). Starts a collective transfer. -/
  | coll (h : Head) (a : BitVec 6) (kind : BitVec 3) (ctx : BitVec 1)
  /-- PCANCEL (R279). Cancels a collective transfer. -/
  | pcancel (h : Head) (a : BitVec 6)
  deriving DecidableEq, Repr

end Sys2Proof
end

