-- ==== Sys2Proof/WellFormed.lean ====
section
/-! DEFINITION. Which instructions the code-page scanner accepts (R72): every condition on a field that the bit layout alone
does not enforce, with the condition of R72 it belongs to and the lowest bit of the field in its 48-bit slot. -/

namespace Sys2Proof

/-- The conditions of R72 that concern one slot or one bundle, by name. -/
inductive ScanCond where
  /-- R72 condition 1: a reserved header bit is set, or R53 is broken. -/
  | header
  /-- R72 condition 2: a slot that is not valid holds a nonzero bit. -/
  | emptySlot
  /-- R72 condition 3: MAJ is unassigned, or assigned and placed in a slot not listed for it. -/
  | major
  /-- R72 condition 4: a minor opcode or sub-operation field is unassigned. -/
  | subOp
  /-- R72 condition 5: a source, hold, WBS or DST field breaks R57, R58 or R62. -/
  | source
  /-- R72 condition 6: GREG is 0 and GPOS or GNEG is not. -/
  | guard
  /-- R72 condition 7: a reserved body field is not zero. -/
  | reservedField
  /-- R72 condition 8: an operand lies outside an encoding limit. -/
  | limit
  deriving DecidableEq, Repr

/-- R58: the values a 6-bit source field may hold. -/
def srcOk (v : BitVec 6) : Bool := decide (v.toNat < 40) || v == 62

/-- E-slot bodies have no held operand (R221): value 62 is an encoding limit. -/
def srcOkE (v : BitVec 6) : Bool := decide (v.toNat < 40)

/-- One check: the condition it belongs to, the lowest bit of its field in the slot, and whether it holds. -/
abbrev Check := ScanCond × Nat × Bool

/-- R54: an unguarded slot has no guard position. -/
def Head.checks (h : Head) : List Check :=
  [(.guard, 28, h.greg != 0 || h.gpos == 0), (.guard, 27, h.greg != 0 || !h.gneg)]

/-- R62: a result that is not written back names g0. -/
def dstCheck (dst : BitVec 5) (wbs : Bool) : Check := (.source, 21, !wbs || dst == 0)

/-- A source field at bit `lo`. -/
def srcCheck (lo : Nat) (v : BitVec 6) : Check := (.source, lo, srcOk v)

/-- An E-slot source field at bit `lo`. -/
def srcCheckE (lo : Nat) (v : BitVec 6) : Check :=
  (if v == 62 then .limit else .source, lo, srcOkE v)

def RegOps.checks (o : RegOps) : List Check := [dstCheck o.dst o.wbs, srcCheck 15 o.srcA, srcCheck 9 o.srcB]
def RegOps1.checks (o : RegOps1) : List Check := [dstCheck o.dst o.wbs, srcCheck 15 o.srcA]
def ImmOps.checks (o : ImmOps) : List Check := [dstCheck o.dst o.wbs, srcCheck 15 o.srcA]
def LimmOps.checks (o : LimmOps) : List Check := [dstCheck o.dst o.wbs]
/-- R98: p + w is at most 64, with w = WID + 1. -/
def BfOps.checks (o : BfOps) : List Check :=
  [dstCheck o.dst o.wbs, srcCheck 15 o.srcA, (.limit, 0, decide (o.pos.toNat + o.wid.toNat + 1 ≤ 64))]
def BitOps.checks (o : BitOps) : List Check := [dstCheck o.dst o.wbs, srcCheck 15 o.srcA]
def AddpOps.checks (o : AddpOps) : List Check := [dstCheck o.dst o.wbs, srcCheck 15 o.srcA, srcCheck 6 o.srcB]
/-- R123: a post-increment names g1 to g31 as its base. -/
def piCheck (pi : Bool) (a : BitVec 6) : Check := (.limit, 14, !pi || (decide (1 ≤ a.toNat) && decide (a.toNat < 32)))
def LoadOps.checks (o : LoadOps) : List Check := [dstCheck o.dst o.wbs, srcCheck 15 o.srcA, piCheck o.pi o.srcA]
def StoreOps.checks (o : StoreOps) : List Check := [srcCheck 21 o.srcB, srcCheck 15 o.srcA, piCheck o.pi o.srcA]
def AtomOps.checks (o : AtomOps) : List Check := [dstCheck o.dst o.wbs, srcCheck 15 o.srcA, srcCheck 9 o.srcB]
/-- R225: at least one group. -/
def XpndOps.checks (o : XpndOps) : List Check := [srcCheckE 21 o.a, (.subOp, 13, o.gmask != 0)]
def XpndiOps.checks (o : XpndiOps) : List Check := [srcCheckE 21 o.a]
/-- R228: the targets XCVTW accepts. -/
def XcvtwOps.checks (o : XcvtwOps) : List Check :=
  [(.limit, 6, o.fmt == 0x0A || o.fmt == 0x09 || o.fmt == 0x08 || o.fmt == 0x02 || o.fmt == 0x03 || o.fmt == 0x01)]

/-- R243: the pairs of formats CPYW accepts. -/
def cpywPair (sfmt dfmt : BitVec 5) : Bool :=
  if sfmt == 0x04 || sfmt == 0x05 then dfmt == 0x02 || dfmt == 0x03 || dfmt == 0x01
  else if sfmt == 0x02 || sfmt == 0x03 then dfmt == 0x01
  else if sfmt == 0x0B then dfmt == 0x0A || dfmt == 0x09 || dfmt == 0x08
  else if sfmt == 0x0A || sfmt == 0x11 then dfmt == 0x09 || dfmt == 0x08
  else if sfmt == 0x09 then dfmt == 0x08
  else false

/-- R344: the special registers that have a number. -/
def sprKnown (n : BitVec 12) : Bool :=
  let k := n.toNat
  decide (k ≤ 0x02) || (decide (0x04 ≤ k) && decide (k ≤ 0x06)) || (decide (0x08 ≤ k) && decide (k ≤ 0x25)) ||
    (decide (0x29 ≤ k) && decide (k ≤ 0x2D)) || (decide (0x30 ≤ k) && decide (k ≤ 0x33))

/-- The conditions of R72 on an instruction's body. Events are no encodings and have none. -/
def Instr.bodyChecks : Instr → List Check
  | .nop _ _ => []
  | .addW _ _ o => o.checks
  | .addD _ _ o => o.checks
  | .subW _ _ o => o.checks
  | .subD _ _ o => o.checks
  | .mulW _ _ o => o.checks
  | .mulD _ _ o => o.checks
  | .mulhW _ _ o => o.checks
  | .mulhD _ _ o => o.checks
  | .mulhuW _ _ o => o.checks
  | .mulhuD _ _ o => o.checks
  | .divW _ _ o => o.checks
  | .divD _ _ o => o.checks
  | .divuW _ _ o => o.checks
  | .divuD _ _ o => o.checks
  | .remW _ _ o => o.checks
  | .remD _ _ o => o.checks
  | .remuW _ _ o => o.checks
  | .remuD _ _ o => o.checks
  | .addiW _ _ o => o.checks
  | .addiD _ _ o => o.checks
  | .and _ _ o => o.checks
  | .or _ _ o => o.checks
  | .xor _ _ o => o.checks
  | .andn _ _ o => o.checks
  | .shl _ _ o => o.checks
  | .shr _ _ o => o.checks
  | .sar _ _ o => o.checks
  | .rotl _ _ o => o.checks
  | .clz _ _ o => o.checks
  | .ctz _ _ o => o.checks
  | .popc _ _ o => o.checks
  | .min _ _ o => o.checks
  | .max _ _ o => o.checks
  | .minu _ _ o => o.checks
  | .maxu _ _ o => o.checks
  | .seq _ _ o => o.checks
  | .sne _ _ o => o.checks
  | .slt _ _ o => o.checks
  | .sltu _ _ o => o.checks
  | .sle _ _ o => o.checks
  | .sleu _ _ o => o.checks
  | .sel _ _ o => o.checks
  | .andi _ _ o => o.checks
  | .ori _ _ o => o.checks
  | .xori _ _ o => o.checks
  | .shli _ _ o => o.checks ++ [(.limit, 0, decide (o.imm.toNat < 64))]
  | .shri _ _ o => o.checks ++ [(.limit, 0, decide (o.imm.toNat < 64))]
  | .sari _ _ o => o.checks ++ [(.limit, 0, decide (o.imm.toNat < 64))]
  | .movw _ _ o => o.checks
  | .limm _ o => o.checks
  | .bfx _ _ o => o.checks
  | .bfxu _ _ o => o.checks
  | .bfi _ _ o => o.checks
  | .bset _ _ o => o.checks
  | .bclr _ _ o => o.checks
  | .btst _ _ o => o.checks
  | .addp _ _ o => o.checks
  | .br _ _ => []
  | .brl _ dst wbs _ => [dstCheck dst wbs]
  | .bri _ a _ => [srcCheck 15 a]
  | .ret _ a => [srcCheck 15 a]
  | .loop _ lc _ => [(.subOp, 25, lc != 3)]
  | .loopSet _ lc a => [(.subOp, 25, lc != 3), srcCheck 15 a]
  | .sloop _ _ xg _ _ => [(.subOp, 20, xg != 0)]
  | .spset _ _ a => [srcCheck 13 a]
  | .ldb _ o => o.checks
  | .ldbu _ o => o.checks
  | .ldh _ o => o.checks
  | .ldhu _ o => o.checks
  | .ldw _ o => o.checks
  | .ldwu _ o => o.checks
  | .ldd _ o => o.checks
  | .stb _ o => o.checks
  | .sth _ o => o.checks
  | .stw _ o => o.checks
  | .std _ o => o.checks
  | .rinv _ a b => [srcCheck 15 a, srcCheck 9 b]
  | .aadd _ o => o.checks
  | .amin _ o => o.checks
  | .aminu _ o => o.checks
  | .amax _ o => o.checks
  | .amaxu _ o => o.checks
  | .aand _ o => o.checks
  | .aor _ o => o.checks
  | .axor _ o => o.checks
  | .aswap _ o => o.checks
  | .acas _ o => o.checks
  | .phase _ a => [srcCheck 15 a]
  | .carve _ a => [srcCheck 15 a]
  | .fence _ ord _ => [(.subOp, 6, ord != 0)]
  | .qalign _ => []
  | .tlwait _ _ a => [srcCheck 15 a]
  | .tlread _ dst wbs _ => [dstCheck dst wbs]
  | .tswap _ a => [srcCheck 15 a]
  | .tstatr _ _ dst wbs selv => [dstCheck dst wbs, (.subOp, 18, decide (selv.toNat < 3))]
  | .tdset _ _ _ a gmask => [srcCheck 15 a, (.subOp, 7, gmask != 0)]
  | .pcnt _ _ dst wbs a => [dstCheck dst wbs, srcCheck 15 a]
  | .pwait _ a b => [srcCheck 15 a, srcCheck 9 b]
  | .tagget _ dst wbs a => [dstCheck dst wbs, srcCheck 15 a]
  | .tagset _ a b => [srcCheck 15 a, srcCheck 9 b]
  | .dispatch _ dst wbs a => [dstCheck dst wbs, srcCheck 15 a]
  | .mlook _ dst wbs a => [dstCheck dst wbs, srcCheck 15 a]
  | .cellmk _ a b => [srcCheck 15 a, srcCheck 9 b]
  | .cellmkFut _ a => [srcCheck 15 a]
  | .resolve _ a b => [srcCheck 15 a, srcCheck 9 b]
  | .resolveOn _ a b _ => [srcCheck 15 a, srcCheck 9 b]
  | .freg _ dst wbs a b => [dstCheck dst wbs, srcCheck 15 a, srcCheck 9 b]
  | .spawn _ a b => [srcCheck 15 a, srcCheck 9 b]
  | .suspend _ a _ => [srcCheck 21 a]
  | .finish _ a => [srcCheck 15 a]
  | .launch _ dst wbs a => [dstCheck dst wbs, srcCheck 15 a]
  | .chunk _ dst wbs => [dstCheck dst wbs]
  | .cntrd _ dst wbs a lvl => [dstCheck dst wbs, srcCheck 15 a, (.subOp, 12, decide (lvl.toNat < 4))]
  | .cancel _ a lvl => [srcCheck 15 a, (.subOp, 12, decide (lvl.toNat < 4))]
  | .specev _ a b => [srcCheck 15 a, srcCheck 9 b]
  | .trap _ _ => []
  | .dbgbrk _ _ => []
  | .tret _ => []
  | .mfs _ _ dst wbs spr => [dstCheck dst wbs, (.limit, 3, sprKnown spr)]
  | .mts _ _ spr a => [srcCheck 15 a, (.limit, 3, sprKnown spr)]
  | .time _ _ dst wbs selv => [dstCheck dst wbs, (.subOp, 19, decide (selv.toNat < 2))]
  | .perfrd _ _ dst wbs cnt => [dstCheck dst wbs, (.limit, 7, decide (cnt.toNat < 16))]
  | .xex _ _ psel => [(.reservedField, 13, psel == 0 || decide (8 ≤ psel.toNat))]
  | .xpnd _ o => o.checks
  | .xpndi _ o => o.checks
  | .xpos _ _ _ _ _ => []
  | .xcvtw _ o => o.checks
  | .kld _ _ a _ _ => [srcCheckE 18 a]
  | .kset _ _ a mode j => [srcCheckE 18 a, (.subOp, 16, mode != 3), (.subOp, 13, mode == 0 || j == 0)]
  | .kmov _ _ _ => []
  | .cpy _ a b _ => [srcCheck 21 a, srcCheck 15 b]
  | .cpyg _ a b _ => [srcCheck 21 a, srcCheck 15 b]
  | .cpys _ a b _ => [srcCheck 21 a, srcCheck 15 b]
  | .cpyt _ a b _ => [srcCheck 21 a, srcCheck 15 b]
  | .cpyx _ a b _ => [srcCheck 21 a, srcCheck 15 b]
  | .cpyz _ a b _ => [srcCheck 21 a, srcCheck 15 b]
  | .cpyw _ a b _ sfmt dfmt => [srcCheck 21 a, srcCheck 15 b, (.limit, 3, cpywPair sfmt dfmt)]
  | .cfill _ a b _ => [srcCheck 21 a, srcCheck 15 b]
  | .strm _ a _ _ _ => [srcCheck 21 a]
  | .strmx _ a _ => [srcCheck 21 a]
  | .syncw _ a b _ _ => [srcCheck 21 a, srcCheck 15 b]
  | .hsub _ a b _ _ => [srcCheck 21 a, srcCheck 15 b]
  | .hrel _ _ => []
  | .cbfill _ a _ smask => [srcCheck 21 a, (.subOp, 16, smask != 0)]
  | .qpush _ a b _ _ _ => [srcCheck 21 a, srcCheck 15 b]
  | .tfill _ a b gmask => [srcCheck 21 a, srcCheck 15 b, (.subOp, 7, gmask != 0)]
  | .coll _ a kind _ => [srcCheck 21 a, (.subOp, 18, kind != 7)]
  | .pcancel _ a => [srcCheck 21 a]
  | .bundleIssue => []
  | .resultLand => []
  | .assayReplay => []
  | .tlbWalk => []
  | .queueDispatch _ => []
  | .accessPerformed _ => []
  | .writeAcknowledgement => []
  | .cellOperation _ => []
  | .resolveOnFire _ => []
  | .trapTake => []
  | .preemptionDue => []
  | .preemption => []
  | .contextSave => []
  | .contextRestore => []
  | .depth => []
  | .unitPickup => []
  | .queuePromotion _ _ => []
  | .chunkGrant _ => []
  | .levelCompletion _ _ => []
  | .dispatchDecision _ => []
  | .copyBeatTransfer _ => []
  | .progressEntryPush _ => []
  | .commandEnd _ => []
  | .feWait _ => []
  | .qFull _ => []
  | .qpushDelivery _ => []
  | .syncwWrite _ => []
  | .prefetchFill _ _ => []
  | .hoistTileIn _ => []
  | .hoistTileOut _ => []
  | .tfillIndexWrite => []
  | .cbfillSlotWrite => []
  | .setComplete _ => []
  | .shiftChangeRelease => []
  | .switchWithdrawal => []
  | .collRendezvous _ => []
  | .noPeer _ => []
  | .collTransfer _ => []
  | .precisionCounterUpdate _ _ => []
  | .cancelArrival _ => []
  | .carveMoveEnd => []
  | .adaptiveIntervalEnd => []
  | .hostWrite _ _ _ => []
  | .hostRead _ _ _ => []
  | .ingressFlush => []
  | .hostPortDown _ => []
  | .sqtailWrite _ _ => []
  | .sqcfgWrite _ _ => []
  | .sqheadWrite _ _ => []
  | .cqheadWrite _ _ => []
  | .registerWrite _ _ => []
  | .cardFetch _ => []
  | .submit _ => []
  | .completionEvent _ => []
  | .peerAccess _ _ => []
  | .peerUnreachable _ => []
  | .gtsSync _ => []
  | .linkPortChange _ _ => []
  | .powerOnReset => []
  | .clockChange _ => []
  | .thermalTrip => []
  | .heartbeatMiss _ => []
  | .dieLoss _ => []
  | .stackRowSpare _ _ => []
  | .pseudoChannelSpare _ _ => []
  | .laneRetrain _ => []
  | .info => []
  | .jobnew => []
  | .jobend => []
  | .map => []
  | .unmap => []
  | .load => []
  | .unload => []
  | .resume => []
  | .kill => []
  | .debug => []
  | .cap => []
  | .ckpt => []
  | .restore => []
  | .attest => []
  | .patch => []
  | .logrd => []
  | .dieoff => []
  | .linkcfg => []
  | .reset => []
  | .badcmd => []

/-- The common slot fields of a slot operation; events have none. -/
def Instr.head? : Instr → Option Head
  | .nop _ h => some h
  | .addW _ h _ => some h
  | .addD _ h _ => some h
  | .subW _ h _ => some h
  | .subD _ h _ => some h
  | .mulW _ h _ => some h
  | .mulD _ h _ => some h
  | .mulhW _ h _ => some h
  | .mulhD _ h _ => some h
  | .mulhuW _ h _ => some h
  | .mulhuD _ h _ => some h
  | .divW _ h _ => some h
  | .divD _ h _ => some h
  | .divuW _ h _ => some h
  | .divuD _ h _ => some h
  | .remW _ h _ => some h
  | .remD _ h _ => some h
  | .remuW _ h _ => some h
  | .remuD _ h _ => some h
  | .addiW _ h _ => some h
  | .addiD _ h _ => some h
  | .and _ h _ => some h
  | .or _ h _ => some h
  | .xor _ h _ => some h
  | .andn _ h _ => some h
  | .shl _ h _ => some h
  | .shr _ h _ => some h
  | .sar _ h _ => some h
  | .rotl _ h _ => some h
  | .clz _ h _ => some h
  | .ctz _ h _ => some h
  | .popc _ h _ => some h
  | .min _ h _ => some h
  | .max _ h _ => some h
  | .minu _ h _ => some h
  | .maxu _ h _ => some h
  | .seq _ h _ => some h
  | .sne _ h _ => some h
  | .slt _ h _ => some h
  | .sltu _ h _ => some h
  | .sle _ h _ => some h
  | .sleu _ h _ => some h
  | .sel _ h _ => some h
  | .andi _ h _ => some h
  | .ori _ h _ => some h
  | .xori _ h _ => some h
  | .shli _ h _ => some h
  | .shri _ h _ => some h
  | .sari _ h _ => some h
  | .movw _ h _ => some h
  | .limm h _ => some h
  | .bfx _ h _ => some h
  | .bfxu _ h _ => some h
  | .bfi _ h _ => some h
  | .bset _ h _ => some h
  | .bclr _ h _ => some h
  | .btst _ h _ => some h
  | .addp _ h _ => some h
  | .br h _ => some h
  | .brl h _ _ _ => some h
  | .bri h _ _ => some h
  | .ret h _ => some h
  | .loop h _ _ => some h
  | .loopSet h _ _ => some h
  | .sloop h _ _ _ _ => some h
  | .spset h _ _ => some h
  | .ldb h _ => some h
  | .ldbu h _ => some h
  | .ldh h _ => some h
  | .ldhu h _ => some h
  | .ldw h _ => some h
  | .ldwu h _ => some h
  | .ldd h _ => some h
  | .stb h _ => some h
  | .sth h _ => some h
  | .stw h _ => some h
  | .std h _ => some h
  | .rinv h _ _ => some h
  | .aadd h _ => some h
  | .amin h _ => some h
  | .aminu h _ => some h
  | .amax h _ => some h
  | .amaxu h _ => some h
  | .aand h _ => some h
  | .aor h _ => some h
  | .axor h _ => some h
  | .aswap h _ => some h
  | .acas h _ => some h
  | .phase h _ => some h
  | .carve h _ => some h
  | .fence h _ _ => some h
  | .qalign h => some h
  | .tlwait h _ _ => some h
  | .tlread h _ _ _ => some h
  | .tswap h _ => some h
  | .tstatr _ h _ _ _ => some h
  | .tdset _ h _ _ _ => some h
  | .pcnt _ h _ _ _ => some h
  | .pwait h _ _ => some h
  | .tagget h _ _ _ => some h
  | .tagset h _ _ => some h
  | .dispatch h _ _ _ => some h
  | .mlook h _ _ _ => some h
  | .cellmk h _ _ => some h
  | .cellmkFut h _ => some h
  | .resolve h _ _ => some h
  | .resolveOn h _ _ _ => some h
  | .freg h _ _ _ _ => some h
  | .spawn h _ _ => some h
  | .suspend h _ _ => some h
  | .finish h _ => some h
  | .launch h _ _ _ => some h
  | .chunk h _ _ => some h
  | .cntrd h _ _ _ _ => some h
  | .cancel h _ _ => some h
  | .specev h _ _ => some h
  | .trap h _ => some h
  | .dbgbrk h _ => some h
  | .tret h => some h
  | .mfs _ h _ _ _ => some h
  | .mts _ h _ _ => some h
  | .time _ h _ _ _ => some h
  | .perfrd _ h _ _ _ => some h
  | .xex h _ _ => some h
  | .xpnd h _ => some h
  | .xpndi h _ => some h
  | .xpos h _ _ _ _ => some h
  | .xcvtw h _ => some h
  | .kld h _ _ _ _ => some h
  | .kset h _ _ _ _ => some h
  | .kmov h _ _ => some h
  | .cpy h _ _ _ => some h
  | .cpyg h _ _ _ => some h
  | .cpys h _ _ _ => some h
  | .cpyt h _ _ _ => some h
  | .cpyx h _ _ _ => some h
  | .cpyz h _ _ _ => some h
  | .cpyw h _ _ _ _ _ => some h
  | .cfill h _ _ _ => some h
  | .strm h _ _ _ _ => some h
  | .strmx h _ _ => some h
  | .syncw h _ _ _ _ => some h
  | .hsub h _ _ _ _ => some h
  | .hrel h _ => some h
  | .cbfill h _ _ _ => some h
  | .qpush h _ _ _ _ _ => some h
  | .tfill h _ _ _ => some h
  | .coll h _ _ _ => some h
  | .pcancel h _ => some h
  | .bundleIssue => none
  | .resultLand => none
  | .assayReplay => none
  | .tlbWalk => none
  | .queueDispatch _ => none
  | .accessPerformed _ => none
  | .writeAcknowledgement => none
  | .cellOperation _ => none
  | .resolveOnFire _ => none
  | .trapTake => none
  | .preemptionDue => none
  | .preemption => none
  | .contextSave => none
  | .contextRestore => none
  | .depth => none
  | .unitPickup => none
  | .queuePromotion _ _ => none
  | .chunkGrant _ => none
  | .levelCompletion _ _ => none
  | .dispatchDecision _ => none
  | .copyBeatTransfer _ => none
  | .progressEntryPush _ => none
  | .commandEnd _ => none
  | .feWait _ => none
  | .qFull _ => none
  | .qpushDelivery _ => none
  | .syncwWrite _ => none
  | .prefetchFill _ _ => none
  | .hoistTileIn _ => none
  | .hoistTileOut _ => none
  | .tfillIndexWrite => none
  | .cbfillSlotWrite => none
  | .setComplete _ => none
  | .shiftChangeRelease => none
  | .switchWithdrawal => none
  | .collRendezvous _ => none
  | .noPeer _ => none
  | .collTransfer _ => none
  | .precisionCounterUpdate _ _ => none
  | .cancelArrival _ => none
  | .carveMoveEnd => none
  | .adaptiveIntervalEnd => none
  | .hostWrite _ _ _ => none
  | .hostRead _ _ _ => none
  | .ingressFlush => none
  | .hostPortDown _ => none
  | .sqtailWrite _ _ => none
  | .sqcfgWrite _ _ => none
  | .sqheadWrite _ _ => none
  | .cqheadWrite _ _ => none
  | .registerWrite _ _ => none
  | .cardFetch _ => none
  | .submit _ => none
  | .completionEvent _ => none
  | .peerAccess _ _ => none
  | .peerUnreachable _ => none
  | .gtsSync _ => none
  | .linkPortChange _ _ => none
  | .powerOnReset => none
  | .clockChange _ => none
  | .thermalTrip => none
  | .heartbeatMiss _ => none
  | .dieLoss _ => none
  | .stackRowSpare _ _ => none
  | .pseudoChannelSpare _ _ => none
  | .laneRetrain _ => none
  | .info => none
  | .jobnew => none
  | .jobend => none
  | .map => none
  | .unmap => none
  | .load => none
  | .unload => none
  | .resume => none
  | .kill => none
  | .debug => none
  | .cap => none
  | .ckpt => none
  | .restore => none
  | .attest => none
  | .patch => none
  | .logrd => none
  | .dieoff => none
  | .linkcfg => none
  | .reset => none
  | .badcmd => none

/-- Every check of R72 on one slot operation. -/
def Instr.checks (i : Instr) : List Check :=
  (match i.head? with | some h => h.checks | none => []) ++ i.bodyChecks

/-- An instruction the scanner accepts (R72). -/
def Instr.wf (i : Instr) : Bool := i.checks.all fun c => c.2.2

end Sys2Proof
end

