-- ==== Sys2Proof/Decode.lean ====
section
/-! DEFINITION. Decoding and encoding of slots and bundles (R50 to R68, R72), from the body layouts of the owning chapters.
The decoder extracts every field, checks the conditions of R72, and refuses a slot whose bits outside the fields are not zero.
A refusal names the condition and the lowest bit of the field that failed (R73). -/

namespace Sys2Proof

/-- The five slots of a bundle, in the order of R64. -/
inductive SlotPos where | s0 | s1 | x | c | e
  deriving DecidableEq, Repr

/-- R50: the lowest bundle bit of a slot. -/
def SlotPos.base : SlotPos → Nat
  | .s0 => 16 | .s1 => 64 | .x => 112 | .c => 160 | .e => 208

/-- R51: the bit of VALID; also the SLOT number of R334. -/
def SlotPos.idx : SlotPos → Nat
  | .s0 => 0 | .s1 => 1 | .x => 2 | .c => 3 | .e => 4

def SSlot.pos : SSlot → SlotPos
  | .s0 => .s0
  | .s1 => .s1

/-- A field of a body: lowest bit, width, value. -/
abbrev Field := Nat × Nat × Nat

/-- The fields packed into one number. -/
def packFields : List Field → Nat
  | [] => 0
  | (lo, _, v) :: fs => v * 2 ^ lo + packFields fs

/-- The bits the fields cover. -/
def fieldMask : List Field → Nat
  | [] => 0
  | (lo, n, _) :: fs => (2 ^ n - 1) * 2 ^ lo + fieldMask fs

/-- R57. -/
def RegOps.fields (o : RegOps) : List Field :=
  [(22, 5, o.dst.toNat), (21, 1, b2n o.wbs), (15, 6, o.srcA.toNat), (9, 6, o.srcB.toNat), (8, 1, b2n o.hldA), (7, 1, b2n o.hldB)]

/-- The operands read from a body. -/
def RegOps.ofBody (b : Nat) : RegOps :=
  { dst := bfld b 22 5, wbs := bit b 21, srcA := bfld b 15 6, srcB := bfld b 9 6, hldA := bit b 8, hldB := bit b 7 }

/-- R91. -/
def RegOps1.fields (o : RegOps1) : List Field :=
  [(22, 5, o.dst.toNat), (21, 1, b2n o.wbs), (15, 6, o.srcA.toNat), (8, 1, b2n o.hldA)]

/-- The operands read from a body. -/
def RegOps1.ofBody (b : Nat) : RegOps1 :=
  { dst := bfld b 22 5, wbs := bit b 21, srcA := bfld b 15 6, hldA := bit b 8 }

/-- R57. -/
def ImmOps.fields (o : ImmOps) : List Field :=
  [(22, 5, o.dst.toNat), (21, 1, b2n o.wbs), (15, 6, o.srcA.toNat), (0, 15, o.imm.toNat)]

/-- The operands read from a body. -/
def ImmOps.ofBody (b : Nat) : ImmOps :=
  { dst := bfld b 22 5, wbs := bit b 21, srcA := bfld b 15 6, imm := bfld b 0 15 }

/-- R53 (the immediate apart). -/
def LimmOps.fields (o : LimmOps) : List Field :=
  [(22, 5, o.dst.toNat), (21, 1, b2n o.wbs)]

/-- The operands read from a body and the 48 bits of slot S1 (R53). -/
def LimmOps.ofBody (b hi : Nat) : LimmOps :=
  { dst := bfld b 22 5, wbs := bit b 21, imm := BitVec.ofNat 64 (fld b 0 16 + hi * 2 ^ 16) }

/-- R96, with sub-operation `sub`. -/
def BfOps.fields (o : BfOps) (sub : Nat) : List Field :=
  [(22, 5, o.dst.toNat), (21, 1, b2n o.wbs), (15, 6, o.srcA.toNat), (12, 3, sub), (6, 6, o.pos.toNat), (0, 6, o.wid.toNat)]

/-- The operands read from a body. -/
def BfOps.ofBody (b : Nat) : BfOps :=
  { dst := bfld b 22 5, wbs := bit b 21, srcA := bfld b 15 6, pos := bfld b 6 6, wid := bfld b 0 6 }

/-- R96, with sub-operation `sub`. -/
def BitOps.fields (o : BitOps) (sub : Nat) : List Field :=
  [(22, 5, o.dst.toNat), (21, 1, b2n o.wbs), (15, 6, o.srcA.toNat), (12, 3, sub), (6, 6, o.pos.toNat)]

/-- The operands read from a body. -/
def BitOps.ofBody (b : Nat) : BitOps :=
  { dst := bfld b 22 5, wbs := bit b 21, srcA := bfld b 15 6, pos := bfld b 6 6 }

/-- R96, with sub-operation `sub`. -/
def AddpOps.fields (o : AddpOps) (sub : Nat) : List Field :=
  [(22, 5, o.dst.toNat), (21, 1, b2n o.wbs), (15, 6, o.srcA.toNat), (12, 3, sub), (6, 6, o.srcB.toNat), (3, 3, o.sh.toNat)]

/-- The operands read from a body. -/
def AddpOps.ofBody (b : Nat) : AddpOps :=
  { dst := bfld b 22 5, wbs := bit b 21, srcA := bfld b 15 6, srcB := bfld b 6 6, sh := bfld b 3 3 }

/-- R123. -/
def LoadOps.fields (o : LoadOps) : List Field :=
  [(22, 5, o.dst.toNat), (21, 1, b2n o.wbs), (15, 6, o.srcA.toNat), (14, 1, b2n o.pi), (0, 14, o.ofs.toNat)]

/-- The operands read from a body. -/
def LoadOps.ofBody (b : Nat) : LoadOps :=
  { dst := bfld b 22 5, wbs := bit b 21, srcA := bfld b 15 6, pi := bit b 14, ofs := bfld b 0 14 }

/-- R123. -/
def StoreOps.fields (o : StoreOps) : List Field :=
  [(21, 6, o.srcB.toNat), (15, 6, o.srcA.toNat), (14, 1, b2n o.pi), (0, 14, o.ofs.toNat)]

/-- The operands read from a body. -/
def StoreOps.ofBody (b : Nat) : StoreOps :=
  { srcB := bfld b 21 6, srcA := bfld b 15 6, pi := bit b 14, ofs := bfld b 0 14 }

/-- R128. -/
def AtomOps.fields (o : AtomOps) : List Field :=
  [(22, 5, o.dst.toNat), (21, 1, b2n o.wbs), (15, 6, o.srcA.toNat), (9, 6, o.srcB.toNat), (8, 1, b2n o.sz), (6, 2, o.ord.toNat), (4, 2, o.scp.toNat)]

/-- The operands read from a body. -/
def AtomOps.ofBody (b : Nat) : AtomOps :=
  { dst := bfld b 22 5, wbs := bit b 21, srcA := bfld b 15 6, srcB := bfld b 9 6, sz := bit b 8, ord := bfld b 6 2, scp := bfld b 4 2 }

/-- R225. -/
def XpndOps.fields (o : XpndOps) : List Field :=
  [(21, 6, o.a.toNat), (13, 8, o.gmask.toNat), (8, 5, o.td.toNat), (5, 3, o.blk.toNat), (4, 1, o.bank.toNat), (2, 2, o.slot.toNat), (1, 1, b2n o.w)]

/-- The operands read from a body. -/
def XpndOps.ofBody (b : Nat) : XpndOps :=
  { a := bfld b 21 6, gmask := bfld b 13 8, td := bfld b 8 5, blk := bfld b 5 3, bank := bfld b 4 1, slot := bfld b 2 2, w := bit b 1 }

/-- R226. -/
def XpndiOps.fields (o : XpndiOps) : List Field :=
  [(21, 6, o.a.toNat), (18, 3, o.gd.toNat), (13, 5, o.td.toNat), (7, 6, o.seg.toNat), (6, 1, b2n o.w), (5, 1, o.bank.toNat), (3, 2, o.slot.toNat)]

/-- The operands read from a body. -/
def XpndiOps.ofBody (b : Nat) : XpndiOps :=
  { a := bfld b 21 6, gd := bfld b 18 3, td := bfld b 13 5, seg := bfld b 7 6, w := bit b 6, bank := bfld b 5 1, slot := bfld b 3 2 }

/-- R228. -/
def XcvtwOps.fields (o : XcvtwOps) : List Field :=
  [(24, 3, o.gs.toNat), (19, 5, o.ts.toNat), (16, 3, o.gd.toNat), (11, 5, o.td.toNat), (6, 5, o.fmt.toNat), (5, 1, b2n o.hi)]

/-- The operands read from a body. -/
def XcvtwOps.ofBody (b : Nat) : XcvtwOps :=
  { gs := bfld b 24 3, ts := bfld b 19 5, gd := bfld b 16 3, td := bfld b 11 5, fmt := bfld b 6 5, hi := bit b 5 }

/-- R67: the major opcode. Events have none. -/
def Instr.major? : Instr → Option Nat
  | .nop _ _ => some 0x00
  | .addW _ _ _ => some 0x01
  | .addD _ _ _ => some 0x02
  | .subW _ _ _ => some 0x01
  | .subD _ _ _ => some 0x02
  | .mulW _ _ _ => some 0x01
  | .mulD _ _ _ => some 0x02
  | .mulhW _ _ _ => some 0x01
  | .mulhD _ _ _ => some 0x02
  | .mulhuW _ _ _ => some 0x01
  | .mulhuD _ _ _ => some 0x02
  | .divW _ _ _ => some 0x01
  | .divD _ _ _ => some 0x02
  | .divuW _ _ _ => some 0x01
  | .divuD _ _ _ => some 0x02
  | .remW _ _ _ => some 0x01
  | .remD _ _ _ => some 0x02
  | .remuW _ _ _ => some 0x01
  | .remuD _ _ _ => some 0x02
  | .addiW _ _ _ => some 0x03
  | .addiD _ _ _ => some 0x04
  | .and _ _ _ => some 0x05
  | .or _ _ _ => some 0x05
  | .xor _ _ _ => some 0x05
  | .andn _ _ _ => some 0x05
  | .shl _ _ _ => some 0x05
  | .shr _ _ _ => some 0x05
  | .sar _ _ _ => some 0x05
  | .rotl _ _ _ => some 0x05
  | .clz _ _ _ => some 0x05
  | .ctz _ _ _ => some 0x05
  | .popc _ _ _ => some 0x05
  | .min _ _ _ => some 0x05
  | .max _ _ _ => some 0x05
  | .minu _ _ _ => some 0x05
  | .maxu _ _ _ => some 0x05
  | .seq _ _ _ => some 0x05
  | .sne _ _ _ => some 0x05
  | .slt _ _ _ => some 0x05
  | .sltu _ _ _ => some 0x05
  | .sle _ _ _ => some 0x05
  | .sleu _ _ _ => some 0x05
  | .sel _ _ _ => some 0x05
  | .andi _ _ _ => some 0x06
  | .ori _ _ _ => some 0x07
  | .xori _ _ _ => some 0x08
  | .shli _ _ _ => some 0x09
  | .shri _ _ _ => some 0x0A
  | .sari _ _ _ => some 0x0B
  | .movw _ _ _ => some 0x0C
  | .limm _ _ => some 0x0D
  | .bfx _ _ _ => some 0x0E
  | .bfxu _ _ _ => some 0x0E
  | .bfi _ _ _ => some 0x0E
  | .bset _ _ _ => some 0x0E
  | .bclr _ _ _ => some 0x0E
  | .btst _ _ _ => some 0x0E
  | .addp _ _ _ => some 0x0E
  | .br _ _ => some 0x10
  | .brl _ _ _ _ => some 0x11
  | .bri _ _ _ => some 0x12
  | .ret _ _ => some 0x13
  | .loop _ _ _ => some 0x14
  | .loopSet _ _ _ => some 0x14
  | .sloop _ _ _ _ _ => some 0x15
  | .spset _ _ _ => some 0x16
  | .ldb _ _ => some 0x20
  | .ldbu _ _ => some 0x21
  | .ldh _ _ => some 0x22
  | .ldhu _ _ => some 0x23
  | .ldw _ _ => some 0x24
  | .ldwu _ _ => some 0x25
  | .ldd _ _ => some 0x26
  | .stb _ _ => some 0x28
  | .sth _ _ => some 0x29
  | .stw _ _ => some 0x2A
  | .std _ _ => some 0x2B
  | .rinv _ _ _ => some 0x2C
  | .aadd _ _ => some 0x30
  | .amin _ _ => some 0x31
  | .aminu _ _ => some 0x32
  | .amax _ _ => some 0x33
  | .amaxu _ _ => some 0x34
  | .aand _ _ => some 0x35
  | .aor _ _ => some 0x36
  | .axor _ _ => some 0x37
  | .aswap _ _ => some 0x38
  | .acas _ _ => some 0x39
  | .phase _ _ => some 0x3A
  | .carve _ _ => some 0x3B
  | .fence _ _ _ => some 0x3C
  | .qalign _ => some 0x3D
  | .tlwait _ _ _ => some 0x3E
  | .tlread _ _ _ _ => some 0x3F
  | .tswap _ _ => some 0x40
  | .tstatr _ _ _ _ _ => some 0x41
  | .tdset _ _ _ _ _ => some 0x42
  | .pcnt _ _ _ _ _ => some 0x44
  | .pwait _ _ _ => some 0x45
  | .tagget _ _ _ _ => some 0x48
  | .tagset _ _ _ => some 0x49
  | .dispatch _ _ _ _ => some 0x4A
  | .mlook _ _ _ _ => some 0x4B
  | .cellmk _ _ _ => some 0x50
  | .cellmkFut _ _ => some 0x50
  | .resolve _ _ _ => some 0x51
  | .resolveOn _ _ _ _ => some 0x51
  | .freg _ _ _ _ _ => some 0x52
  | .spawn _ _ _ => some 0x53
  | .suspend _ _ _ => some 0x54
  | .finish _ _ => some 0x55
  | .launch _ _ _ _ => some 0x56
  | .chunk _ _ _ => some 0x57
  | .cntrd _ _ _ _ _ => some 0x58
  | .cancel _ _ _ => some 0x59
  | .specev _ _ _ => some 0x5A
  | .trap _ _ => some 0x60
  | .dbgbrk _ _ => some 0x65
  | .tret _ => some 0x61
  | .mfs _ _ _ _ _ => some 0x62
  | .mts _ _ _ _ => some 0x63
  | .time _ _ _ _ _ => some 0x64
  | .perfrd _ _ _ _ _ => some 0x66
  | .xex _ _ _ => some 0x70
  | .xpnd _ _ => some 0x78
  | .xpndi _ _ => some 0x79
  | .xpos _ _ _ _ _ => some 0x7A
  | .xcvtw _ _ => some 0x7B
  | .kld _ _ _ _ _ => some 0xF8
  | .kset _ _ _ _ _ => some 0xF9
  | .kmov _ _ _ => some 0xFA
  | .cpy _ _ _ _ => some 0x80
  | .cpyg _ _ _ _ => some 0x81
  | .cpys _ _ _ _ => some 0x82
  | .cpyt _ _ _ _ => some 0x83
  | .cpyx _ _ _ _ => some 0x84
  | .cpyz _ _ _ _ => some 0x85
  | .cpyw _ _ _ _ _ _ => some 0x86
  | .cfill _ _ _ _ => some 0x87
  | .strm _ _ _ _ _ => some 0x88
  | .strmx _ _ _ => some 0x89
  | .syncw _ _ _ _ _ => some 0x8A
  | .hsub _ _ _ _ _ => some 0x8B
  | .hrel _ _ => some 0x8C
  | .cbfill _ _ _ _ => some 0x8D
  | .qpush _ _ _ _ _ _ => some 0x8E
  | .tfill _ _ _ _ => some 0x90
  | .coll _ _ _ _ => some 0x94
  | .pcancel _ _ => some 0x95
  | .bundleIssue => none
  | .resultLand => none
  | .assayReplay => none
  | .tlbWalk => none
  | .queueDispatch _ => none
  | .accessPerformed _ => none
  | .writeAcknowledgement => none
  | .cellOperation _ => none
  | .resolveOnFire _ => none
  | .trapTake => none
  | .preemptionDue => none
  | .preemption => none
  | .contextSave => none
  | .contextRestore => none
  | .depth => none
  | .unitPickup => none
  | .queuePromotion _ _ => none
  | .chunkGrant _ => none
  | .levelCompletion _ _ => none
  | .dispatchDecision _ => none
  | .copyBeatTransfer _ => none
  | .progressEntryPush _ => none
  | .commandEnd _ => none
  | .feWait _ => none
  | .qFull _ => none
  | .qpushDelivery _ => none
  | .syncwWrite _ => none
  | .prefetchFill _ _ => none
  | .hoistTileIn _ => none
  | .hoistTileOut _ => none
  | .tfillIndexWrite => none
  | .cbfillSlotWrite => none
  | .setComplete _ => none
  | .shiftChangeRelease => none
  | .switchWithdrawal => none
  | .collRendezvous _ => none
  | .noPeer _ => none
  | .collTransfer _ => none
  | .precisionCounterUpdate _ _ => none
  | .cancelArrival _ => none
  | .carveMoveEnd => none
  | .adaptiveIntervalEnd => none
  | .hostWrite _ _ _ => none
  | .hostRead _ _ _ => none
  | .ingressFlush => none
  | .hostPortDown _ => none
  | .sqtailWrite _ _ => none
  | .sqcfgWrite _ _ => none
  | .sqheadWrite _ _ => none
  | .cqheadWrite _ _ => none
  | .registerWrite _ _ => none
  | .cardFetch _ => none
  | .submit _ => none
  | .completionEvent _ => none
  | .peerAccess _ _ => none
  | .peerUnreachable _ => none
  | .gtsSync _ => none
  | .linkPortChange _ _ => none
  | .powerOnReset => none
  | .clockChange _ => none
  | .thermalTrip => none
  | .heartbeatMiss _ => none
  | .dieLoss _ => none
  | .stackRowSpare _ _ => none
  | .pseudoChannelSpare _ _ => none
  | .laneRetrain _ => none
  | .info => none
  | .jobnew => none
  | .jobend => none
  | .map => none
  | .unmap => none
  | .load => none
  | .unload => none
  | .resume => none
  | .kill => none
  | .debug => none
  | .cap => none
  | .ckpt => none
  | .restore => none
  | .attest => none
  | .patch => none
  | .logrd => none
  | .dieoff => none
  | .linkcfg => none
  | .reset => none
  | .badcmd => none

/-- The slot an operation stands in (R67). Events stand in none. -/
def Instr.slot? : Instr → Option SlotPos
  | .nop sl _ => some sl.pos
  | .addW sl _ _ => some sl.pos
  | .addD sl _ _ => some sl.pos
  | .subW sl _ _ => some sl.pos
  | .subD sl _ _ => some sl.pos
  | .mulW sl _ _ => some sl.pos
  | .mulD sl _ _ => some sl.pos
  | .mulhW sl _ _ => some sl.pos
  | .mulhD sl _ _ => some sl.pos
  | .mulhuW sl _ _ => some sl.pos
  | .mulhuD sl _ _ => some sl.pos
  | .divW sl _ _ => some sl.pos
  | .divD sl _ _ => some sl.pos
  | .divuW sl _ _ => some sl.pos
  | .divuD sl _ _ => some sl.pos
  | .remW sl _ _ => some sl.pos
  | .remD sl _ _ => some sl.pos
  | .remuW sl _ _ => some sl.pos
  | .remuD sl _ _ => some sl.pos
  | .addiW sl _ _ => some sl.pos
  | .addiD sl _ _ => some sl.pos
  | .and sl _ _ => some sl.pos
  | .or sl _ _ => some sl.pos
  | .xor sl _ _ => some sl.pos
  | .andn sl _ _ => some sl.pos
  | .shl sl _ _ => some sl.pos
  | .shr sl _ _ => some sl.pos
  | .sar sl _ _ => some sl.pos
  | .rotl sl _ _ => some sl.pos
  | .clz sl _ _ => some sl.pos
  | .ctz sl _ _ => some sl.pos
  | .popc sl _ _ => some sl.pos
  | .min sl _ _ => some sl.pos
  | .max sl _ _ => some sl.pos
  | .minu sl _ _ => some sl.pos
  | .maxu sl _ _ => some sl.pos
  | .seq sl _ _ => some sl.pos
  | .sne sl _ _ => some sl.pos
  | .slt sl _ _ => some sl.pos
  | .sltu sl _ _ => some sl.pos
  | .sle sl _ _ => some sl.pos
  | .sleu sl _ _ => some sl.pos
  | .sel sl _ _ => some sl.pos
  | .andi sl _ _ => some sl.pos
  | .ori sl _ _ => some sl.pos
  | .xori sl _ _ => some sl.pos
  | .shli sl _ _ => some sl.pos
  | .shri sl _ _ => some sl.pos
  | .sari sl _ _ => some sl.pos
  | .movw sl _ _ => some sl.pos
  | .limm _ _ => some .s0
  | .bfx sl _ _ => some sl.pos
  | .bfxu sl _ _ => some sl.pos
  | .bfi sl _ _ => some sl.pos
  | .bset sl _ _ => some sl.pos
  | .bclr sl _ _ => some sl.pos
  | .btst sl _ _ => some sl.pos
  | .addp sl _ _ => some sl.pos
  | .br _ _ => some .s0
  | .brl _ _ _ _ => some .s0
  | .bri _ _ _ => some .s0
  | .ret _ _ => some .s0
  | .loop _ _ _ => some .s0
  | .loopSet _ _ _ => some .s0
  | .sloop _ _ _ _ _ => some .s0
  | .spset _ _ _ => some .s0
  | .ldb _ _ => some .s1
  | .ldbu _ _ => some .s1
  | .ldh _ _ => some .s1
  | .ldhu _ _ => some .s1
  | .ldw _ _ => some .s1
  | .ldwu _ _ => some .s1
  | .ldd _ _ => some .s1
  | .stb _ _ => some .s1
  | .sth _ _ => some .s1
  | .stw _ _ => some .s1
  | .std _ _ => some .s1
  | .rinv _ _ _ => some .s1
  | .aadd _ _ => some .s1
  | .amin _ _ => some .s1
  | .aminu _ _ => some .s1
  | .amax _ _ => some .s1
  | .amaxu _ _ => some .s1
  | .aand _ _ => some .s1
  | .aor _ _ => some .s1
  | .axor _ _ => some .s1
  | .aswap _ _ => some .s1
  | .acas _ _ => some .s1
  | .phase _ _ => some .s1
  | .carve _ _ => some .s1
  | .fence _ _ _ => some .s1
  | .qalign _ => some .s1
  | .tlwait _ _ _ => some .s1
  | .tlread _ _ _ _ => some .s1
  | .tswap _ _ => some .s0
  | .tstatr sl _ _ _ _ => some sl.pos
  | .tdset sl _ _ _ _ => some sl.pos
  | .pcnt sl _ _ _ _ => some sl.pos
  | .pwait _ _ _ => some .s0
  | .tagget _ _ _ _ => some .s1
  | .tagset _ _ _ => some .s1
  | .dispatch _ _ _ _ => some .s1
  | .mlook _ _ _ _ => some .s1
  | .cellmk _ _ _ => some .s1
  | .cellmkFut _ _ => some .s1
  | .resolve _ _ _ => some .s1
  | .resolveOn _ _ _ _ => some .s1
  | .freg _ _ _ _ _ => some .s1
  | .spawn _ _ _ => some .s1
  | .suspend _ _ _ => some .s0
  | .finish _ _ => some .s0
  | .launch _ _ _ _ => some .s1
  | .chunk _ _ _ => some .s1
  | .cntrd _ _ _ _ _ => some .s1
  | .cancel _ _ _ => some .s1
  | .specev _ _ _ => some .s1
  | .trap _ _ => some .s0
  | .dbgbrk _ _ => some .s0
  | .tret _ => some .s0
  | .mfs sl _ _ _ _ => some sl.pos
  | .mts sl _ _ _ => some sl.pos
  | .time sl _ _ _ _ => some sl.pos
  | .perfrd sl _ _ _ _ => some sl.pos
  | .xex _ _ _ => some .x
  | .xpnd _ _ => some .e
  | .xpndi _ _ => some .e
  | .xpos _ _ _ _ _ => some .e
  | .xcvtw _ _ => some .e
  | .kld _ _ _ _ _ => some .e
  | .kset _ _ _ _ _ => some .e
  | .kmov _ _ _ => some .e
  | .cpy _ _ _ _ => some .c
  | .cpyg _ _ _ _ => some .c
  | .cpys _ _ _ _ => some .c
  | .cpyt _ _ _ _ => some .c
  | .cpyx _ _ _ _ => some .c
  | .cpyz _ _ _ _ => some .c
  | .cpyw _ _ _ _ _ _ => some .c
  | .cfill _ _ _ _ => some .c
  | .strm _ _ _ _ _ => some .c
  | .strmx _ _ _ => some .c
  | .syncw _ _ _ _ _ => some .c
  | .hsub _ _ _ _ _ => some .c
  | .hrel _ _ => some .c
  | .cbfill _ _ _ _ => some .c
  | .qpush _ _ _ _ _ _ => some .c
  | .tfill _ _ _ _ => some .c
  | .coll _ _ _ _ => some .c
  | .pcancel _ _ => some .c
  | .bundleIssue => none
  | .resultLand => none
  | .assayReplay => none
  | .tlbWalk => none
  | .queueDispatch _ => none
  | .accessPerformed _ => none
  | .writeAcknowledgement => none
  | .cellOperation _ => none
  | .resolveOnFire _ => none
  | .trapTake => none
  | .preemptionDue => none
  | .preemption => none
  | .contextSave => none
  | .contextRestore => none
  | .depth => none
  | .unitPickup => none
  | .queuePromotion _ _ => none
  | .chunkGrant _ => none
  | .levelCompletion _ _ => none
  | .dispatchDecision _ => none
  | .copyBeatTransfer _ => none
  | .progressEntryPush _ => none
  | .commandEnd _ => none
  | .feWait _ => none
  | .qFull _ => none
  | .qpushDelivery _ => none
  | .syncwWrite _ => none
  | .prefetchFill _ _ => none
  | .hoistTileIn _ => none
  | .hoistTileOut _ => none
  | .tfillIndexWrite => none
  | .cbfillSlotWrite => none
  | .setComplete _ => none
  | .shiftChangeRelease => none
  | .switchWithdrawal => none
  | .collRendezvous _ => none
  | .noPeer _ => none
  | .collTransfer _ => none
  | .precisionCounterUpdate _ _ => none
  | .cancelArrival _ => none
  | .carveMoveEnd => none
  | .adaptiveIntervalEnd => none
  | .hostWrite _ _ _ => none
  | .hostRead _ _ _ => none
  | .ingressFlush => none
  | .hostPortDown _ => none
  | .sqtailWrite _ _ => none
  | .sqcfgWrite _ _ => none
  | .sqheadWrite _ _ => none
  | .cqheadWrite _ _ => none
  | .registerWrite _ _ => none
  | .cardFetch _ => none
  | .submit _ => none
  | .completionEvent _ => none
  | .peerAccess _ _ => none
  | .peerUnreachable _ => none
  | .gtsSync _ => none
  | .linkPortChange _ _ => none
  | .powerOnReset => none
  | .clockChange _ => none
  | .thermalTrip => none
  | .heartbeatMiss _ => none
  | .dieLoss _ => none
  | .stackRowSpare _ _ => none
  | .pseudoChannelSpare _ _ => none
  | .laneRetrain _ => none
  | .info => none
  | .jobnew => none
  | .jobend => none
  | .map => none
  | .unmap => none
  | .load => none
  | .unload => none
  | .resume => none
  | .kill => none
  | .debug => none
  | .cap => none
  | .ckpt => none
  | .restore => none
  | .attest => none
  | .patch => none
  | .logrd => none
  | .dieoff => none
  | .linkcfg => none
  | .reset => none
  | .badcmd => none

/-- The fields of the body (R57 and the owning chapters), with the minor opcode or sub-operation each form fixes. -/
def Instr.bodyFields : Instr → List Field
  | .nop _ _ => []
  | .addW _ _ o => o.fields ++ [(0, 7, 0)]
  | .addD _ _ o => o.fields ++ [(0, 7, 0)]
  | .subW _ _ o => o.fields ++ [(0, 7, 1)]
  | .subD _ _ o => o.fields ++ [(0, 7, 1)]
  | .mulW _ _ o => o.fields ++ [(0, 7, 2)]
  | .mulD _ _ o => o.fields ++ [(0, 7, 2)]
  | .mulhW _ _ o => o.fields ++ [(0, 7, 3)]
  | .mulhD _ _ o => o.fields ++ [(0, 7, 3)]
  | .mulhuW _ _ o => o.fields ++ [(0, 7, 4)]
  | .mulhuD _ _ o => o.fields ++ [(0, 7, 4)]
  | .divW _ _ o => o.fields ++ [(0, 7, 5)]
  | .divD _ _ o => o.fields ++ [(0, 7, 5)]
  | .divuW _ _ o => o.fields ++ [(0, 7, 6)]
  | .divuD _ _ o => o.fields ++ [(0, 7, 6)]
  | .remW _ _ o => o.fields ++ [(0, 7, 7)]
  | .remD _ _ o => o.fields ++ [(0, 7, 7)]
  | .remuW _ _ o => o.fields ++ [(0, 7, 8)]
  | .remuD _ _ o => o.fields ++ [(0, 7, 8)]
  | .addiW _ _ o => o.fields
  | .addiD _ _ o => o.fields
  | .and _ _ o => o.fields ++ [(0, 7, 0)]
  | .or _ _ o => o.fields ++ [(0, 7, 1)]
  | .xor _ _ o => o.fields ++ [(0, 7, 2)]
  | .andn _ _ o => o.fields ++ [(0, 7, 3)]
  | .shl _ _ o => o.fields ++ [(0, 7, 4)]
  | .shr _ _ o => o.fields ++ [(0, 7, 5)]
  | .sar _ _ o => o.fields ++ [(0, 7, 6)]
  | .rotl _ _ o => o.fields ++ [(0, 7, 7)]
  | .clz _ _ o => o.fields ++ [(0, 7, 8)]
  | .ctz _ _ o => o.fields ++ [(0, 7, 9)]
  | .popc _ _ o => o.fields ++ [(0, 7, 10)]
  | .min _ _ o => o.fields ++ [(0, 7, 11)]
  | .max _ _ o => o.fields ++ [(0, 7, 12)]
  | .minu _ _ o => o.fields ++ [(0, 7, 13)]
  | .maxu _ _ o => o.fields ++ [(0, 7, 14)]
  | .seq _ _ o => o.fields ++ [(0, 7, 16)]
  | .sne _ _ o => o.fields ++ [(0, 7, 17)]
  | .slt _ _ o => o.fields ++ [(0, 7, 18)]
  | .sltu _ _ o => o.fields ++ [(0, 7, 19)]
  | .sle _ _ o => o.fields ++ [(0, 7, 20)]
  | .sleu _ _ o => o.fields ++ [(0, 7, 21)]
  | .sel _ _ o => o.fields ++ [(0, 7, 22)]
  | .andi _ _ o => o.fields
  | .ori _ _ o => o.fields
  | .xori _ _ o => o.fields
  | .shli _ _ o => o.fields
  | .shri _ _ o => o.fields
  | .sari _ _ o => o.fields
  | .movw _ _ o => o.fields
  | .limm _ o => o.fields ++ [(0, 16, o.imm.toNat % 2 ^ 16)]
  | .bfx _ _ o => o.fields 0
  | .bfxu _ _ o => o.fields 1
  | .bfi _ _ o => o.fields 2
  | .bset _ _ o => o.fields 3
  | .bclr _ _ o => o.fields 4
  | .btst _ _ o => o.fields 5
  | .addp _ _ o => o.fields 6
  | .br _ off => [(0, 24, off.toNat)]
  | .brl _ dst wbs off => [(22, 5, dst.toNat), (21, 1, b2n wbs), (0, 21, off.toNat)]
  | .bri _ a imm => [(15, 6, a.toNat), (0, 15, imm.toNat)]
  | .ret _ a => [(15, 6, a.toNat)]
  | .loop _ lc off => [(25, 2, lc.toNat), (24, 1, 0), (0, 24, off.toNat)]
  | .loopSet _ lc a => [(25, 2, lc.toNat), (24, 1, 1), (15, 6, a.toNat)]
  | .sloop _ iq xg xb off => [(25, 2, iq.toNat), (20, 5, xg.toNat), (14, 6, xb.toNat), (0, 14, off.toNat)]
  | .spset _ mask a => [(19, 8, mask.toNat), (13, 6, a.toNat)]
  | .ldb _ o => o.fields
  | .ldbu _ o => o.fields
  | .ldh _ o => o.fields
  | .ldhu _ o => o.fields
  | .ldw _ o => o.fields
  | .ldwu _ o => o.fields
  | .ldd _ o => o.fields
  | .stb _ o => o.fields
  | .sth _ o => o.fields
  | .stw _ o => o.fields
  | .std _ o => o.fields
  | .rinv _ a b => [(15, 6, a.toNat), (9, 6, b.toNat)]
  | .aadd _ o => o.fields
  | .amin _ o => o.fields
  | .aminu _ o => o.fields
  | .amax _ o => o.fields
  | .amaxu _ o => o.fields
  | .aand _ o => o.fields
  | .aor _ o => o.fields
  | .axor _ o => o.fields
  | .aswap _ o => o.fields
  | .acas _ o => o.fields
  | .phase _ a => [(15, 6, a.toNat)]
  | .carve _ a => [(15, 6, a.toNat)]
  | .fence _ ord scp => [(6, 2, ord.toNat), (4, 2, scp.toNat)]
  | .qalign _ => []
  | .tlwait _ tl a => [(24, 3, tl.toNat), (15, 6, a.toNat)]
  | .tlread _ dst wbs tl => [(22, 5, dst.toNat), (21, 1, b2n wbs), (18, 3, tl.toNat)]
  | .tswap _ a => [(15, 6, a.toNat)]
  | .tstatr _ _ dst wbs selv => [(22, 5, dst.toNat), (21, 1, b2n wbs), (18, 3, selv.toNat)]
  | .tdset _ _ treg a gmask => [(22, 5, treg.toNat), (15, 6, a.toNat), (7, 8, gmask.toNat)]
  | .pcnt _ _ dst wbs a => [(22, 5, dst.toNat), (21, 1, b2n wbs), (15, 6, a.toNat)]
  | .pwait _ a b => [(15, 6, a.toNat), (9, 6, b.toNat)]
  | .tagget _ dst wbs a => [(22, 5, dst.toNat), (21, 1, b2n wbs), (15, 6, a.toNat)]
  | .tagset _ a b => [(15, 6, a.toNat), (9, 6, b.toNat)]
  | .dispatch _ dst wbs a => [(22, 5, dst.toNat), (21, 1, b2n wbs), (15, 6, a.toNat)]
  | .mlook _ dst wbs a => [(22, 5, dst.toNat), (21, 1, b2n wbs), (15, 6, a.toNat)]
  | .cellmk _ a b => [(15, 6, a.toNat), (9, 6, b.toNat), (8, 1, 0)]
  | .cellmkFut _ a => [(15, 6, a.toNat), (8, 1, 1)]
  | .resolve _ a b => [(15, 6, a.toNat), (9, 6, b.toNat), (8, 1, 0)]
  | .resolveOn _ a b tl => [(15, 6, a.toNat), (9, 6, b.toNat), (8, 1, 1), (5, 3, tl.toNat)]
  | .freg _ dst wbs a b => [(22, 5, dst.toNat), (21, 1, b2n wbs), (15, 6, a.toNat), (9, 6, b.toNat)]
  | .spawn _ a b => [(15, 6, a.toNat), (9, 6, b.toNat)]
  | .suspend _ a off => [(21, 6, a.toNat), (0, 21, off.toNat)]
  | .finish _ a => [(15, 6, a.toNat)]
  | .launch _ dst wbs a => [(22, 5, dst.toNat), (21, 1, b2n wbs), (15, 6, a.toNat)]
  | .chunk _ dst wbs => [(22, 5, dst.toNat), (21, 1, b2n wbs)]
  | .cntrd _ dst wbs a lvl => [(22, 5, dst.toNat), (21, 1, b2n wbs), (15, 6, a.toNat), (12, 3, lvl.toNat)]
  | .cancel _ a lvl => [(15, 6, a.toNat), (12, 3, lvl.toNat)]
  | .specev _ a b => [(15, 6, a.toNat), (9, 6, b.toNat)]
  | .trap _ code => [(0, 16, code.toNat)]
  | .dbgbrk _ code => [(0, 16, code.toNat)]
  | .tret _ => []
  | .mfs _ _ dst wbs spr => [(22, 5, dst.toNat), (21, 1, b2n wbs), (3, 12, spr.toNat)]
  | .mts _ _ spr a => [(15, 6, a.toNat), (3, 12, spr.toNat)]
  | .time _ _ dst wbs selv => [(22, 5, dst.toNat), (21, 1, b2n wbs), (19, 2, selv.toNat)]
  | .perfrd _ _ dst wbs cnt => [(22, 5, dst.toNat), (21, 1, b2n wbs), (7, 8, cnt.toNat)]
  | .xex _ idx psel => [(17, 10, idx.toNat), (13, 4, psel.toNat)]
  | .xpnd _ o => o.fields
  | .xpndi _ o => o.fields
  | .xpos _ gs ts gd td => [(24, 3, gs.toNat), (19, 5, ts.toNat), (16, 3, gd.toNat), (11, 5, td.toNat)]
  | .xcvtw _ o => o.fields
  | .kld _ kn a sz ofs => [(24, 3, kn.toNat), (18, 6, a.toNat), (17, 1, b2n sz), (4, 13, ofs.toNat)]
  | .kset _ kn a mode j => [(24, 3, kn.toNat), (18, 6, a.toNat), (16, 2, mode.toNat), (13, 3, j.toNat)]
  | .kmov _ kd ks => [(24, 3, kd.toNat), (21, 3, ks.toNat)]
  | .cpy _ a b ctx => [(21, 6, a.toNat), (15, 6, b.toNat), (13, 2, ctx.toNat)]
  | .cpyg _ a b ctx => [(21, 6, a.toNat), (15, 6, b.toNat), (13, 2, ctx.toNat)]
  | .cpys _ a b ctx => [(21, 6, a.toNat), (15, 6, b.toNat), (13, 2, ctx.toNat)]
  | .cpyt _ a b ctx => [(21, 6, a.toNat), (15, 6, b.toNat), (13, 2, ctx.toNat)]
  | .cpyx _ a b ctx => [(21, 6, a.toNat), (15, 6, b.toNat), (13, 2, ctx.toNat)]
  | .cpyz _ a b ctx => [(21, 6, a.toNat), (15, 6, b.toNat), (13, 2, ctx.toNat)]
  | .cpyw _ a b ctx sfmt dfmt => [(21, 6, a.toNat), (15, 6, b.toNat), (13, 2, ctx.toNat), (8, 5, sfmt.toNat), (3, 5, dfmt.toNat)]
  | .cfill _ a b ctx => [(21, 6, a.toNat), (15, 6, b.toNat), (13, 2, ctx.toNat)]
  | .strm _ a sid tgt depthm1 => [(21, 6, a.toNat), (18, 3, sid.toNat), (17, 1, b2n tgt), (9, 8, depthm1.toNat)]
  | .strmx _ a sid => [(21, 6, a.toNat), (18, 3, sid.toNat)]
  | .syncw _ a b ctx g => [(21, 6, a.toNat), (15, 6, b.toNat), (13, 2, ctx.toNat), (12, 1, b2n g)]
  | .hsub _ a b sid dir => [(21, 6, a.toNat), (15, 6, b.toNat), (12, 3, sid.toNat), (11, 1, b2n dir)]
  | .hrel _ sid => [(12, 3, sid.toNat)]
  | .cbfill _ a bank smask => [(21, 6, a.toNat), (20, 1, bank.toNat), (16, 4, smask.toNat)]
  | .qpush _ a b ctx iq tok => [(21, 6, a.toNat), (15, 6, b.toNat), (13, 2, ctx.toNat), (11, 2, iq.toNat), (10, 1, b2n tok)]
  | .tfill _ a b gmask => [(21, 6, a.toNat), (15, 6, b.toNat), (7, 8, gmask.toNat)]
  | .coll _ a kind ctx => [(21, 6, a.toNat), (18, 3, kind.toNat), (17, 1, ctx.toNat)]
  | .pcancel _ a => [(21, 6, a.toNat)]
  | .bundleIssue => []
  | .resultLand => []
  | .assayReplay => []
  | .tlbWalk => []
  | .queueDispatch _ => []
  | .accessPerformed _ => []
  | .writeAcknowledgement => []
  | .cellOperation _ => []
  | .resolveOnFire _ => []
  | .trapTake => []
  | .preemptionDue => []
  | .preemption => []
  | .contextSave => []
  | .contextRestore => []
  | .depth => []
  | .unitPickup => []
  | .queuePromotion _ _ => []
  | .chunkGrant _ => []
  | .levelCompletion _ _ => []
  | .dispatchDecision _ => []
  | .copyBeatTransfer _ => []
  | .progressEntryPush _ => []
  | .commandEnd _ => []
  | .feWait _ => []
  | .qFull _ => []
  | .qpushDelivery _ => []
  | .syncwWrite _ => []
  | .prefetchFill _ _ => []
  | .hoistTileIn _ => []
  | .hoistTileOut _ => []
  | .tfillIndexWrite => []
  | .cbfillSlotWrite => []
  | .setComplete _ => []
  | .shiftChangeRelease => []
  | .switchWithdrawal => []
  | .collRendezvous _ => []
  | .noPeer _ => []
  | .collTransfer _ => []
  | .precisionCounterUpdate _ _ => []
  | .cancelArrival _ => []
  | .carveMoveEnd => []
  | .adaptiveIntervalEnd => []
  | .hostWrite _ _ _ => []
  | .hostRead _ _ _ => []
  | .ingressFlush => []
  | .hostPortDown _ => []
  | .sqtailWrite _ _ => []
  | .sqcfgWrite _ _ => []
  | .sqheadWrite _ _ => []
  | .cqheadWrite _ _ => []
  | .registerWrite _ _ => []
  | .cardFetch _ => []
  | .submit _ => []
  | .completionEvent _ => []
  | .peerAccess _ _ => []
  | .peerUnreachable _ => []
  | .gtsSync _ => []
  | .linkPortChange _ _ => []
  | .powerOnReset => []
  | .clockChange _ => []
  | .thermalTrip => []
  | .heartbeatMiss _ => []
  | .dieLoss _ => []
  | .stackRowSpare _ _ => []
  | .pseudoChannelSpare _ _ => []
  | .laneRetrain _ => []
  | .info => []
  | .jobnew => []
  | .jobend => []
  | .map => []
  | .unmap => []
  | .load => []
  | .unload => []
  | .resume => []
  | .kill => []
  | .debug => []
  | .cap => []
  | .ckpt => []
  | .restore => []
  | .attest => []
  | .patch => []
  | .logrd => []
  | .dieoff => []
  | .linkcfg => []
  | .reset => []
  | .badcmd => []

/-- R54: the fields every slot shares, with the major opcode. -/
def Head.fields (h : Head) (maj : Nat) : List Field :=
  [(40, 8, maj), (39, 1, b2n h.sq), (34, 5, h.greg.toNat), (28, 6, h.gpos.toNat), (27, 1, b2n h.gneg)]

/-- Every field of a slot. Events have none. -/
def Instr.fields (i : Instr) : List Field :=
  match i.head?, i.major? with
  | some h, some m => h.fields m ++ i.bodyFields
  | _, _ => []

/-- The 48-bit slot of an operation (R54). An event encodes to nothing: 0. -/
def encodeSlot (i : Instr) : Nat := packFields i.fields

/-- R53: what slot S1 carries beside an operation of S0: the high bits of LIMM's immediate. -/
def encodeHigh : Instr → Nat
  | .limm _ o => o.imm.toNat / 2 ^ 16
  | _ => 0

/-- R54: the common fields of a slot. -/
def decodeHead (w : Nat) : Head :=
  { sq := bit w 39, greg := bfld w 34 5, gpos := bfld w 28 6, gneg := bit w 27 }

/-- Why a slot or a bundle is refused: the condition of R72 and the lowest bit of the field that failed, in the slot or in the
bundle. -/
structure ScanFail where
  cond : ScanCond
  pos : Nat
  deriving DecidableEq, Repr

/-- R88, R89: the minor opcodes of major 0x01, the word forms. -/
def decodeWord (sl : SSlot) (h : Head) (b : Nat) : Nat → Except ScanFail Instr
  | 0 => .ok (.addW sl h (RegOps.ofBody b))
  | 1 => .ok (.subW sl h (RegOps.ofBody b))
  | 2 => .ok (.mulW sl h (RegOps.ofBody b))
  | 3 => .ok (.mulhW sl h (RegOps.ofBody b))
  | 4 => .ok (.mulhuW sl h (RegOps.ofBody b))
  | 5 => .ok (.divW sl h (RegOps.ofBody b))
  | 6 => .ok (.divuW sl h (RegOps.ofBody b))
  | 7 => .ok (.remW sl h (RegOps.ofBody b))
  | 8 => .ok (.remuW sl h (RegOps.ofBody b))
  | _ => .error { cond := .subOp, pos := 0 }

/-- R88, R89: the minor opcodes of major 0x02, the double forms. -/
def decodeDouble (sl : SSlot) (h : Head) (b : Nat) : Nat → Except ScanFail Instr
  | 0 => .ok (.addD sl h (RegOps.ofBody b))
  | 1 => .ok (.subD sl h (RegOps.ofBody b))
  | 2 => .ok (.mulD sl h (RegOps.ofBody b))
  | 3 => .ok (.mulhD sl h (RegOps.ofBody b))
  | 4 => .ok (.mulhuD sl h (RegOps.ofBody b))
  | 5 => .ok (.divD sl h (RegOps.ofBody b))
  | 6 => .ok (.divuD sl h (RegOps.ofBody b))
  | 7 => .ok (.remD sl h (RegOps.ofBody b))
  | 8 => .ok (.remuD sl h (RegOps.ofBody b))
  | _ => .error { cond := .subOp, pos := 0 }

/-- R91, R92: the minor opcodes of major 0x05. -/
def decodeLogic (sl : SSlot) (h : Head) (b : Nat) : Nat → Except ScanFail Instr
  | 0 => .ok (.and sl h (RegOps.ofBody b))
  | 1 => .ok (.or sl h (RegOps.ofBody b))
  | 2 => .ok (.xor sl h (RegOps.ofBody b))
  | 3 => .ok (.andn sl h (RegOps.ofBody b))
  | 4 => .ok (.shl sl h (RegOps.ofBody b))
  | 5 => .ok (.shr sl h (RegOps.ofBody b))
  | 6 => .ok (.sar sl h (RegOps.ofBody b))
  | 7 => .ok (.rotl sl h (RegOps.ofBody b))
  | 8 => .ok (.clz sl h (RegOps1.ofBody b))
  | 9 => .ok (.ctz sl h (RegOps1.ofBody b))
  | 10 => .ok (.popc sl h (RegOps1.ofBody b))
  | 11 => .ok (.min sl h (RegOps.ofBody b))
  | 12 => .ok (.max sl h (RegOps.ofBody b))
  | 13 => .ok (.minu sl h (RegOps.ofBody b))
  | 14 => .ok (.maxu sl h (RegOps.ofBody b))
  | 16 => .ok (.seq sl h (RegOps.ofBody b))
  | 17 => .ok (.sne sl h (RegOps.ofBody b))
  | 18 => .ok (.slt sl h (RegOps.ofBody b))
  | 19 => .ok (.sltu sl h (RegOps.ofBody b))
  | 20 => .ok (.sle sl h (RegOps.ofBody b))
  | 21 => .ok (.sleu sl h (RegOps.ofBody b))
  | 22 => .ok (.sel sl h (RegOps.ofBody b))
  | _ => .error { cond := .subOp, pos := 0 }

/-- R96: the sub-operations of major 0x0E. -/
def decodeField (sl : SSlot) (h : Head) (b : Nat) : Nat → Except ScanFail Instr
  | 0 => .ok (.bfx sl h (BfOps.ofBody b))
  | 1 => .ok (.bfxu sl h (BfOps.ofBody b))
  | 2 => .ok (.bfi sl h (BfOps.ofBody b))
  | 3 => .ok (.bset sl h (BitOps.ofBody b))
  | 4 => .ok (.bclr sl h (BitOps.ofBody b))
  | 5 => .ok (.btst sl h (BitOps.ofBody b))
  | 6 => .ok (.addp sl h (AddpOps.ofBody b))
  | _ => .error { cond := .subOp, pos := 12 }

/-- R67, R68 and the owning chapters: the operation that MAJ and the sub-operation fields select, with its operands as they
stand. `sl` is the S slot; `hi` is the content of slot S1 of a bundle whose LONG bit is 1. -/
def decodeBody (sl : SSlot) (h : Head) (maj b : Nat) (hi : Option Nat) : Except ScanFail Instr :=
  match maj with
  | 0x00 => .ok (.nop sl h)
  | 0x01 => decodeWord sl h b (fld b 0 7)
  | 0x02 => decodeDouble sl h b (fld b 0 7)
  | 0x03 => .ok (.addiW sl h (ImmOps.ofBody b))
  | 0x04 => .ok (.addiD sl h (ImmOps.ofBody b))
  | 0x05 => decodeLogic sl h b (fld b 0 7)
  | 0x06 => .ok (.andi sl h (ImmOps.ofBody b))
  | 0x07 => .ok (.ori sl h (ImmOps.ofBody b))
  | 0x08 => .ok (.xori sl h (ImmOps.ofBody b))
  | 0x09 => .ok (.shli sl h (ImmOps.ofBody b))
  | 0x0A => .ok (.shri sl h (ImmOps.ofBody b))
  | 0x0B => .ok (.sari sl h (ImmOps.ofBody b))
  | 0x0C => .ok (.movw sl h (ImmOps.ofBody b))
  | 0x0D => match hi with
    | some v => .ok (.limm h (LimmOps.ofBody b v))
    | none => .error { cond := .header, pos := 40 }
  | 0x0E => decodeField sl h b (fld b 12 3)
  | 0x10 => .ok (.br h (bfld b 0 24))
  | 0x11 => .ok (.brl h (bfld b 22 5) (bit b 21) (bfld b 0 21))
  | 0x12 => .ok (.bri h (bfld b 15 6) (bfld b 0 15))
  | 0x13 => .ok (.ret h (bfld b 15 6))
  | 0x14 => match fld b 24 1 with
    | 0 => .ok (.loop h (bfld b 25 2) (bfld b 0 24))
    | _ => .ok (.loopSet h (bfld b 25 2) (bfld b 15 6))
  | 0x15 => .ok (.sloop h (bfld b 25 2) (bfld b 20 5) (bfld b 14 6) (bfld b 0 14))
  | 0x16 => .ok (.spset h (bfld b 19 8) (bfld b 13 6))
  | 0x20 => .ok (.ldb h (LoadOps.ofBody b))
  | 0x21 => .ok (.ldbu h (LoadOps.ofBody b))
  | 0x22 => .ok (.ldh h (LoadOps.ofBody b))
  | 0x23 => .ok (.ldhu h (LoadOps.ofBody b))
  | 0x24 => .ok (.ldw h (LoadOps.ofBody b))
  | 0x25 => .ok (.ldwu h (LoadOps.ofBody b))
  | 0x26 => .ok (.ldd h (LoadOps.ofBody b))
  | 0x28 => .ok (.stb h (StoreOps.ofBody b))
  | 0x29 => .ok (.sth h (StoreOps.ofBody b))
  | 0x2A => .ok (.stw h (StoreOps.ofBody b))
  | 0x2B => .ok (.std h (StoreOps.ofBody b))
  | 0x2C => .ok (.rinv h (bfld b 15 6) (bfld b 9 6))
  | 0x30 => .ok (.aadd h (AtomOps.ofBody b))
  | 0x31 => .ok (.amin h (AtomOps.ofBody b))
  | 0x32 => .ok (.aminu h (AtomOps.ofBody b))
  | 0x33 => .ok (.amax h (AtomOps.ofBody b))
  | 0x34 => .ok (.amaxu h (AtomOps.ofBody b))
  | 0x35 => .ok (.aand h (AtomOps.ofBody b))
  | 0x36 => .ok (.aor h (AtomOps.ofBody b))
  | 0x37 => .ok (.axor h (AtomOps.ofBody b))
  | 0x38 => .ok (.aswap h (AtomOps.ofBody b))
  | 0x39 => .ok (.acas h (AtomOps.ofBody b))
  | 0x3A => .ok (.phase h (bfld b 15 6))
  | 0x3B => .ok (.carve h (bfld b 15 6))
  | 0x3C => .ok (.fence h (bfld b 6 2) (bfld b 4 2))
  | 0x3D => .ok (.qalign h)
  | 0x3E => .ok (.tlwait h (bfld b 24 3) (bfld b 15 6))
  | 0x3F => .ok (.tlread h (bfld b 22 5) (bit b 21) (bfld b 18 3))
  | 0x40 => .ok (.tswap h (bfld b 15 6))
  | 0x41 => .ok (.tstatr sl h (bfld b 22 5) (bit b 21) (bfld b 18 3))
  | 0x42 => .ok (.tdset sl h (bfld b 22 5) (bfld b 15 6) (bfld b 7 8))
  | 0x44 => .ok (.pcnt sl h (bfld b 22 5) (bit b 21) (bfld b 15 6))
  | 0x45 => .ok (.pwait h (bfld b 15 6) (bfld b 9 6))
  | 0x48 => .ok (.tagget h (bfld b 22 5) (bit b 21) (bfld b 15 6))
  | 0x49 => .ok (.tagset h (bfld b 15 6) (bfld b 9 6))
  | 0x4A => .ok (.dispatch h (bfld b 22 5) (bit b 21) (bfld b 15 6))
  | 0x4B => .ok (.mlook h (bfld b 22 5) (bit b 21) (bfld b 15 6))
  | 0x50 => match fld b 8 1 with
    | 0 => .ok (.cellmk h (bfld b 15 6) (bfld b 9 6))
    | _ => .ok (.cellmkFut h (bfld b 15 6))
  | 0x51 => match fld b 8 1 with
    | 0 => .ok (.resolve h (bfld b 15 6) (bfld b 9 6))
    | _ => .ok (.resolveOn h (bfld b 15 6) (bfld b 9 6) (bfld b 5 3))
  | 0x52 => .ok (.freg h (bfld b 22 5) (bit b 21) (bfld b 15 6) (bfld b 9 6))
  | 0x53 => .ok (.spawn h (bfld b 15 6) (bfld b 9 6))
  | 0x54 => .ok (.suspend h (bfld b 21 6) (bfld b 0 21))
  | 0x55 => .ok (.finish h (bfld b 15 6))
  | 0x56 => .ok (.launch h (bfld b 22 5) (bit b 21) (bfld b 15 6))
  | 0x57 => .ok (.chunk h (bfld b 22 5) (bit b 21))
  | 0x58 => .ok (.cntrd h (bfld b 22 5) (bit b 21) (bfld b 15 6) (bfld b 12 3))
  | 0x59 => .ok (.cancel h (bfld b 15 6) (bfld b 12 3))
  | 0x5A => .ok (.specev h (bfld b 15 6) (bfld b 9 6))
  | 0x60 => .ok (.trap h (bfld b 0 16))
  | 0x61 => .ok (.tret h)
  | 0x62 => .ok (.mfs sl h (bfld b 22 5) (bit b 21) (bfld b 3 12))
  | 0x63 => .ok (.mts sl h (bfld b 3 12) (bfld b 15 6))
  | 0x64 => .ok (.time sl h (bfld b 22 5) (bit b 21) (bfld b 19 2))
  | 0x65 => .ok (.dbgbrk h (bfld b 0 16))
  | 0x66 => .ok (.perfrd sl h (bfld b 22 5) (bit b 21) (bfld b 7 8))
  | 0x70 => .ok (.xex h (bfld b 17 10) (bfld b 13 4))
  | 0x78 => .ok (.xpnd h (XpndOps.ofBody b))
  | 0x79 => .ok (.xpndi h (XpndiOps.ofBody b))
  | 0x7A => .ok (.xpos h (bfld b 24 3) (bfld b 19 5) (bfld b 16 3) (bfld b 11 5))
  | 0x7B => .ok (.xcvtw h (XcvtwOps.ofBody b))
  | 0x80 => .ok (.cpy h (bfld b 21 6) (bfld b 15 6) (bfld b 13 2))
  | 0x81 => .ok (.cpyg h (bfld b 21 6) (bfld b 15 6) (bfld b 13 2))
  | 0x82 => .ok (.cpys h (bfld b 21 6) (bfld b 15 6) (bfld b 13 2))
  | 0x83 => .ok (.cpyt h (bfld b 21 6) (bfld b 15 6) (bfld b 13 2))
  | 0x84 => .ok (.cpyx h (bfld b 21 6) (bfld b 15 6) (bfld b 13 2))
  | 0x85 => .ok (.cpyz h (bfld b 21 6) (bfld b 15 6) (bfld b 13 2))
  | 0x86 => .ok (.cpyw h (bfld b 21 6) (bfld b 15 6) (bfld b 13 2) (bfld b 8 5) (bfld b 3 5))
  | 0x87 => .ok (.cfill h (bfld b 21 6) (bfld b 15 6) (bfld b 13 2))
  | 0x88 => .ok (.strm h (bfld b 21 6) (bfld b 18 3) (bit b 17) (bfld b 9 8))
  | 0x89 => .ok (.strmx h (bfld b 21 6) (bfld b 18 3))
  | 0x8A => .ok (.syncw h (bfld b 21 6) (bfld b 15 6) (bfld b 13 2) (bit b 12))
  | 0x8B => .ok (.hsub h (bfld b 21 6) (bfld b 15 6) (bfld b 12 3) (bit b 11))
  | 0x8C => .ok (.hrel h (bfld b 12 3))
  | 0x8D => .ok (.cbfill h (bfld b 21 6) (bfld b 20 1) (bfld b 16 4))
  | 0x8E => .ok (.qpush h (bfld b 21 6) (bfld b 15 6) (bfld b 13 2) (bfld b 11 2) (bit b 10))
  | 0x90 => .ok (.tfill h (bfld b 21 6) (bfld b 15 6) (bfld b 7 8))
  | 0x94 => .ok (.coll h (bfld b 21 6) (bfld b 18 3) (bfld b 17 1))
  | 0x95 => .ok (.pcancel h (bfld b 21 6))
  | 0xF8 => .ok (.kld h (bfld b 24 3) (bfld b 18 6) (bit b 17) (bfld b 4 13))
  | 0xF9 => .ok (.kset h (bfld b 24 3) (bfld b 18 6) (bfld b 16 2) (bfld b 13 3))
  | 0xFA => .ok (.kmov h (bfld b 24 3) (bfld b 21 3))
  | _ => .error { cond := .major, pos := 40 }

/-- The first check that fails. -/
def firstFail : List Check → Option ScanFail
  | [] => none
  | (c, p, ok) :: cs => if ok then firstFail cs else some { cond := c, pos := p }

/-- The lowest bits of the must-be-zero fields of a body that have another must-be-zero field right below them, by major opcode: DST
above bit 21 (R103, R147, R288, R310, R343), SFMT and DFMT (R238), the depth fields of STRMX (R257), and the unused fields of R288 and
R310. -/
def zeroStarts (maj : Nat) : List Nat :=
  if maj ∈ [0x12, 0x13, 0x3E, 0x49, 0x50, 0x53, 0x59, 0x5A, 0x63] then [22]
  else if maj = 0x3F then [15]
  else if maj ∈ [0x48, 0x56] then [9]
  else if maj = 0x51 then [22, 5]
  else if maj = 0x57 then [15, 9]
  else if maj ∈ [0x80, 0x81, 0x82, 0x83, 0x84, 0x85, 0x87] then [8, 3]
  else if maj = 0x89 then [17, 9]
  else []

/-- The lowest bit of the must-be-zero field that holds bit `d` (R73): the field runs down to a bit of `mask`, which another field
holds, or to the first bit of its own in `starts`. -/
def runLow (mask : Nat) (starts : List Nat) : Nat → Nat
  | 0 => 0
  | d + 1 => if bit mask d || starts.contains (d + 1) then d + 1 else runLow mask starts d

/-- Decodes one slot (R54, R67, R68, R72). Of several fields that fail, the first in the order of the checks is named (R73), reserved bits
last. DESIGN CHOICE: log entry 93. -/
def decodeSlot (p : SlotPos) (w : Nat) (hi : Option Nat) : Except ScanFail Instr :=
  let sl := if p = .s1 then SSlot.s1 else .s0
  match decodeBody sl (decodeHead w) (fld w 40 8) (fld w 0 27) hi with
  | .error e => .error e
  | .ok i =>
    if i.slot? ≠ some p then .error { cond := .major, pos := 40 }
    else match firstFail i.checks with
      | some e => .error e
      | none =>
        if encodeSlot i = w then .ok i
        else .error { cond := .reservedField,
                      pos := let mask := fieldMask i.fields
                             runLow mask (zeroStarts (fld w 40 8)) (ctzFrom 48 (w &&& ((2 ^ 48 - 1) ^^^ mask))) }

/-- R50, R51: a bundle. The valid slots hold an operation; LONG is 1 exactly when slot S0 holds LIMM (R53). -/
structure Bundle where
  hwin : Bool
  srot : Bool
  s0 : Option Instr
  s1 : Option Instr
  x : Option Instr
  c : Option Instr
  e : Option Instr
  deriving DecidableEq, Repr

/-- The 48 bits of a slot of a bundle. -/
def slotBits (w : Nat) (p : SlotPos) : Nat := fld w p.base 48

/-- One slot of a bundle: nothing when its VALID bit is 0 and its bits are zero (R52). -/
def decodeSlotIn (w : Nat) (p : SlotPos) (hi : Option Nat) : Except ScanFail (Option Instr) :=
  if bit w p.idx then
    match decodeSlot p (slotBits w p) hi with
    | .ok i => .ok (some i)
    | .error e => .error { e with pos := p.base + e.pos }
  else if p = .s1 ∧ hi.isSome then .ok none
  else if slotBits w p = 0 then .ok none
  else .error { cond := .emptySlot, pos := p.base }

/-- Decodes a bundle (R50 to R53, R72). The first field that fails is named, the header first, then slots S0 to E. -/
def decodeBundle (w : Nat) : Except ScanFail Bundle :=
  let long := bit w 14
  let hi := if long then some (slotBits w .s1) else none
  if fld w 5 8 ≠ 0 then .error { cond := .header, pos := 5 }
  else if long && (!bit w 0 || bit w 1) then .error { cond := .header, pos := 0 }
  else if long && (fld (slotBits w .s0) 40 8 != 0x0D) then .error { cond := .header, pos := SlotPos.base .s0 + 40 }
  else do
    let s0 ← decodeSlotIn w .s0 hi
    let s1 ← decodeSlotIn w .s1 hi
    let x ← decodeSlotIn w .x none
    let c ← decodeSlotIn w .c none
    let e ← decodeSlotIn w .e none
    return { hwin := bit w 15, srot := bit w 13, s0, s1, x, c, e }

/-- The slots of a bundle in the order of R64. -/
def Bundle.slots (b : Bundle) : List (SlotPos × Option Instr) :=
  [(.s0, b.s0), (.s1, b.s1), (.x, b.x), (.c, b.c), (.e, b.e)]

/-- Whether slots S0 and S1 form one operation. -/
def Bundle.long (b : Bundle) : Bool :=
  match b.s0 with
  | some (.limm _ _) => true
  | _ => false

/-- The 48 bits an optional operation takes. -/
def encodeOpt : Option Instr → Nat
  | none => 0
  | some i => encodeSlot i

/-- The 256 bits of a bundle (R50, R51, R53). -/
def encodeBundle (b : Bundle) : Nat :=
  b2n b.s0.isSome + 2 * b2n b.s1.isSome + 4 * b2n b.x.isSome + 8 * b2n b.c.isSome + 16 * b2n b.e.isSome +
    2 ^ 13 * b2n b.srot + 2 ^ 14 * b2n b.long + 2 ^ 15 * b2n b.hwin +
    2 ^ 16 * encodeOpt b.s0 +
    2 ^ 64 * (match b.s0 with | some i => if b.long then encodeHigh i else encodeOpt b.s1 | none => encodeOpt b.s1) +
    2 ^ 112 * encodeOpt b.x + 2 ^ 160 * encodeOpt b.c + 2 ^ 208 * encodeOpt b.e

/-- R52, R67: a bundle whose operations stand in slots they are legal in, and whose slot S1 is empty beside a LIMM. -/
def Bundle.wf (b : Bundle) : Bool :=
  b.slots.all (fun (p, oi) => match oi with | none => true | some i => i.wf && decide (i.slot? = some p)) &&
    (!b.long || b.s1.isNone)

/-- A bundle of one operation, in the slot that operation stands in. -/
def Bundle.single (i : Instr) : Bundle :=
  let at' (p : SlotPos) := if i.slot? = some p then some i else none
  { hwin := false, srot := false, s0 := at' .s0, s1 := at' .s1, x := at' .x, c := at' .c, e := at' .e }

/-- What the decoder reads from a slot whose 48 bits are the low bits of `w`: the first slot of S0, S1, X, C and E that accepts
it. Bits 95 to 48 are slot S1 of a LONG bundle. The host numbers an instruction's bits this way; the table gives its rows no
bits, so this reading is the model's (assumption 3). -/
def decodeTableWord (_nbits w : Nat) : Option Instr :=
  let v := fld w 0 48
  let hi := if fld v 40 8 = 0x0D then some (fld w 48 48) else none
  let try' (p : SlotPos) : Option Instr := match decodeSlot p v hi with | .ok i => some i | .error _ => none
  (try' .s0).orElse fun _ => (try' .s1).orElse fun _ => (try' .x).orElse fun _ => (try' .c).orElse fun _ => try' .e

end Sys2Proof
end

