-- ==== Sys2Proof/Config.lean ====
section
/-! DEFINITION. What the spec leaves open as a value: opaque constants that nothing in Lean can evaluate. A statement about one
of them holds for every value it may have. Each is named in the assumption log. -/

namespace Sys2Proof.Config

/-- Which line leaves a full core cache when another is allocated (R131 gives no replacement policy); the argument is the
model's counter of free choices. -/
opaque cacheVictim : Nat → Nat

/-- The encoding a correctly rounded special function returns when the model's enclosures do not decide it (R192 asks for the
correctly rounded value; the argument is the function, the format and the operand). -/
opaque specialTie : Nat → Nat → Nat → Nat

/-- R376: the serial number INFO reports. -/
opaque serial : BitVec 64

/-- R382: the signature of the first 216 bytes of an attestation report (the device's private key is not in the spec). -/
opaque attestSig : List Byte → List Byte

/-- R382: the SHA-384 of the ROM. -/
opaque romDigest : List Byte

/-- R382: where the flash holds the certificate, as INFO returns it. -/
opaque certAddr : BitVec 64

/-- R381: whether a patch image's signature verifies. -/
opaque patchVerifies : List Byte → Bool

/-- R135: what the sampled sets of the core cache showed in an interval (samples, hits one step more would give, hits in the top
step): the spec does not say which accesses are sampled. The argument is the counter of free choices. -/
opaque samples : Nat → Nat × Nat × Nat

/-- R265, R269: the depth a plane-form header's reserved depth code (5 to 7) is read as. -/
opaque planeDepth : Nat → Nat

/-- What the dispatchers choose where R311 and R327 leave it to them; the argument is the counter of free choices. -/
opaque choice : Nat → Nat

/-- A byte the spec leaves open; the first argument is the counter of free choices. -/
opaque freeByte : Nat → Nat → Byte

/-- A double the spec leaves open; the argument is the counter of free choices. -/
opaque freeDouble : Nat → Double

/-- R75: whether a core has fetched the bundle after the second delay bundle of a taken branch (the fetch-ahead is not stated). The
arguments are the core, the clk and the bundle's address. -/
opaque fetchedAhead : Nat → Nat → Nat → Bool

/-- R297: the slots a converted operand takes where RDEN is 0, which R291 does not allow and for which the division has no result. The argument is the
length times RNUM. -/
opaque rdenZero : Nat → Nat

/-- R148, R355: the host port, of two that are up, through which a write to an array arrives; the arguments are the clk and how many writes the buffer
and the link hold already. -/
opaque viaPort : Nat → Nat → Bool

end Sys2Proof.Config
end

