-- ==== Sys2Proof/Machine/FMap.lean ====
section
/-! DEFINITION. Finite maps with a default, in one canonical form: keys strictly rising, no entry equal to the default.
Every sparse piece of the state (memory, tags, registers, tables) is one of these, so equal contents are equal data. -/

namespace Sys2Proof

/-- A map from numbers to values: the listed entries. What an unlisted key reads as is an argument of `get`. -/
abbrev FMap (α : Type) := List (Nat × α)

/-- The value at key `k`; `d` is what an unlisted key reads as. -/
def fget {α : Type} (d : α) : FMap α → Nat → α
  | [], _ => d
  | (j, v) :: m, k => if j = k then v else fget d m k

/-- Removes every entry of key `k`. -/
def ferase {α : Type} : FMap α → Nat → FMap α
  | [], _ => []
  | (j, v) :: m, k => if j = k then ferase m k else (j, v) :: ferase m k

/-- Puts an entry in before the first larger key. -/
def finsert {α : Type} : FMap α → Nat → α → FMap α
  | [], k, v => [(k, v)]
  | (j, w) :: m, k, v => if k < j then (k, v) :: (j, w) :: m else (j, w) :: finsert m k v

/-- Writes key `k`. Writing the default removes the entry. -/
def fset {α : Type} [DecidableEq α] (d : α) (m : FMap α) (k : Nat) (v : α) : FMap α :=
  if v = d then ferase m k else finsert (ferase m k) k v

/-- The canonical form: every key larger than `lo`'s bound, keys strictly rising, no entry equal to the default. -/
def fwfFrom {α : Type} [DecidableEq α] (d : α) : Nat → FMap α → Bool
  | _, [] => true
  | lo, (j, v) :: m => decide (lo ≤ j) && decide (v ≠ d) && fwfFrom d (j + 1) m

/-- The canonical form of a map. -/
def fwf {α : Type} [DecidableEq α] (d : α) (m : FMap α) : Bool := fwfFrom d 0 m

/-- The listed keys, rising. -/
def fkeys {α : Type} (m : FMap α) : List Nat := m.map Prod.fst

/-- The entries of a list of values at rising keys from `k`; the defaults are left out. -/
def fblock {α : Type} [DecidableEq α] (d : α) : Nat → List α → FMap α
  | _, [] => []
  | k, v :: vs => if v = d then fblock d (k + 1) vs else (k, v) :: fblock d (k + 1) vs

/-- Writes a list of values at rising keys from `k`. -/
def fput {α : Type} [DecidableEq α] (d : α) (m : FMap α) (k : Nat) (vs : List α) : FMap α :=
  m.filter (fun e => decide (e.1 < k)) ++ fblock d k vs ++ m.filter (fun e => decide (k + vs.length ≤ e.1))

/-- Forgets every entry whose key lies in [lo, hi): those keys read as the default. -/
def fclear {α : Type} (m : FMap α) (lo hi : Nat) : FMap α :=
  m.filter fun e => decide (e.1 < lo) || decide (hi ≤ e.1)

/-- `n` values from key `k` on. -/
def fgetN {α : Type} (d : α) (m : FMap α) : Nat → Nat → List α
  | _, 0 => []
  | k, n + 1 => fget d m k :: fgetN d m (k + 1) n

end Sys2Proof
end

