-- ==== Sys2Proof/Machine/Real.lean ====
section
/-! DEFINITION. The values floating-point rules compute with before rounding (R10 point 5, R28): an exact real with the sign
of its zero, a signed infinity, or NaN. -/

namespace Sys2Proof.Machine

/-- R28: what Decode returns. `fin neg mag` is the real ±mag with mag ≥ 0; a zero keeps its sign. -/
inductive XR where
  | nan
  | inf (neg : Bool)
  | fin (neg : Bool) (mag : Rat)
  deriving DecidableEq, Repr

end Sys2Proof.Machine
end

