-- ==== Sys2Proof/Machine/State.lean ====
section
/-! DEFINITION. The state of the package: the core whose turn it is, the other cores, everything the cores share, and the
agenda (the order in which the agents' steps that the spec leaves unordered are taken). Plain data throughout. -/

namespace Sys2Proof.Machine

/-- Why the model stops with a fault. There is one: the package has left the states in which the spec says what runs. -/
inductive Fault where
  /-- Raised by `step` when the package state is FAILED (R379: every core stops) or HALTED (R371: no work
  runs until a RESET) and no event is due. Safe: nothing runs on the hardware either. -/
  | packageStopped
  deriving DecidableEq, Repr

/-- Why the model refuses. -/
inductive Refusal where
  /-- An instruction without a meaning in this model. Safe: nothing is proved about it. -/
  | notModelled (mnemonic : String)
  /-- Raised by `step` when the agenda names a slot operation, which no agent performs outside a bundle. Safe: it refuses a
  schedule, never an instruction. -/
  | badAgenda
  deriving DecidableEq, Repr

/-! ### Results in flight -/

/-- Where a result lands and what it writes there (R71, R159, R338). -/
inductive Effect where
  /-- A scalar result: g register unless WBS, and the latch chain of its slot (R59, R62). -/
  | reg (chain : SSlot) (wbs : Bool) (dst : BitVec 5) (v : Double)
  /-- The base update of a post-increment (R124); it enters no latch chain. -/
  | base (r : BitVec 5) (v : Double)
  /-- LOOP.SET (R108). -/
  | lcSet (n : Nat) (v : Word32)
  /-- MTS (R343). -/
  | spr (n : Nat) (v : Double)
  /-- A held-operand update made at issue (R61): input A (`b = false`) or B of a slot. -/
  | held (sl : SSlot) (b : Bool) (v : Double)
  /-- Tile descriptor bits under a mask (R171, R180, R182). -/
  | desc (g t : Nat) (mask v : Word32)
  | tile (g t : Nat) (v : TileBits)
  /-- `len` bytes of a tile at byte offset `off`, expanded from codebook bank `cb` (R225, R226). -/
  | tileSeg (g t off len : Nat) (v : Nat) (cb : Nat)
  | side (g t : Nat) (v : SideBits)
  /-- Positions of a tile of 32-bit elements under a mask (R193, R194). -/
  | tileMask (g t : Nat) (mask v : TileBits)
  /-- Bytes of the core's own array (R182). -/
  | array (g off : Nat) (bytes : List Byte)
  /-- The tag of the 2 KiB slot of the core's own array that holds `off`, written by an entry of group `g` (R182). -/
  | tag (g off : Nat) (v : Half)
  /-- TSTQ: `n` lines from `off` become full and their claim ends (R184). -/
  | full (off n : Nat)
  | ptr (g p : Nat) (v : Word32)
  | stride (g p : Nat) (v : BitVec 21)
  | psnap (g : Nat) (v : Byte)
  /-- MCHK: KADONE and KAFAIL of a group (R211); `res`: whether it failed, once a landing record has taken its result (R212). -/
  | asstat (g : Nat) (res : Option Bool)
  | kreg (n : Nat) (v : Bits256)
  /-- KSET mode 0: word `j` only (R231). -/
  | kword (n j : Nat) (v : Word32)
  /-- The sums of a floating step (R206, R212): `rows` × `cols` inside elements, row by row. `held`: withheld by the assay. -/
  | stepF (g a : Nat) (z : Bool) (rows cols : Nat) (sums : List XR) (idx : Nat) (held : Bool)
  /-- The exact sums of an integer step. -/
  | stepI (g a : Nat) (z : Bool) (rows cols : Nat) (sums : List Int) (idx : Nat) (held : Bool)
  /-- MZERO (R209). -/
  | azero (g a : Nat)
  deriving DecidableEq, Repr

/-- A result in flight: the clk it lands at, its place among results of one clk (R63; re-injected records come last, R339, but for writes of the array,
R183), the
order its operation issued in (R59, R105), the SQ of that operation and the bundle that issued it (TBUN, R334). -/
structure Pending where
  due : Nat
  ord : Nat
  iss : Nat
  sq : Bool
  tbun : Nat
  eff : Effect
  deriving DecidableEq, Repr

/-! ### Scalar accesses and the two queues (R139) -/

/-- What an entry of the load queue or the store queue does when it is dispatched and performed. -/
inductive QOp where
  | load (va pa size : Nat) (signed cell dev nc : Bool)
  /-- A load of the own array that issued before an HWIN bundle applied writes to its bytes: `was` and `now` are the value before and after
  (R148), `bad`: the bytes failed ECC before. -/
  | loadBefore (va pa size : Nat) (signed cell dev bad : Bool) (was now : Nat)
  | store (va pa size : Nat) (data : Double) (dev : Bool)
  /-- `op` is the major opcode less 0x30 (R128); `e` the expected value of ACAS. -/
  | atomic (op : BitVec 4) (va pa : Nat) (dbl : Bool) (b e : Double) (ord scp : BitVec 2)
  | rinv (a b : Nat)
  | tlread (tl : Nat)
  /-- FENCE.acq, or the acquire placed after the access of the store queue with identity `after`. -/
  | acqTok (scp : BitVec 2) (after : Option Nat)
  | relTok (scp : BitVec 2)
  /-- FENCE.ar: one token in each queue; `store` says which queue this one stands in. -/
  | arTok (store : Bool) (scp : BitVec 2)
  /-- QALIGN: one token in each queue. -/
  | alignTok (store : Bool)
  /-- The marker of the C-slot command with this identity (R146). -/
  | marker (cmd : Nat)
  | tagget (va pa : Nat)
  | tagset (va pa : Nat) (v : Half)
  | pcnt (pa : Nat)
  | mlook (key : Double)
  | dispatch (off : Nat)
  | cellmk (va pa : Nat) (recd : Nat) (fut : Bool)
  | resolve (va pa : Nat) (val : Nat)
  | resolveOn (va pa : Nat) (tl : Nat) (b : Double)
  | freg (va pa : Nat) (recd : Nat)
  | specev (va pa : Nat) (b : Double)
  | spawn (recd : Nat) (b : Double)
  | launch (card : Nat)
  | chunk
  | cntrd (a : Double) (lvl : Nat)
  | cancel (a : Double) (lvl : Nat)
  deriving DecidableEq, Repr

/-- An entry of a queue, or an access dispatched and not yet performed. `res`: it lands a result in (chain, wbs, dst).
`dead`: killed after dispatch, so it is performed and its register and latch writes are suppressed (R126). -/
structure QEntry where
  id : Nat
  op : QOp
  res : Bool
  chain : SSlot
  wbs : Bool
  dst : BitVec 5
  sq : Bool
  tbun : Nat
  slot : Nat
  dead : Bool
  far : Bool
  bank : Option Nat  -- R338: the bank its result joins as a record with r = 0
  since : Nat        -- clk at which it left its queue (R369)
  deriving DecidableEq, Repr

/-! ### Engines -/

/-- R236: a stream descriptor, as read. -/
structure Desc where
  base : Nat
  st : List Int
  cnt : List Nat
  run : Nat
  ctl : Nat
  sync : Nat
  aux : Nat
  deriving DecidableEq, Repr

/-- The commands of the C slot that take a timeline number. -/
inductive CmdOp where
  /-- CPY 0, CPYG 1, CPYS 2, CPYT 3, CPYX 4, CPYZ 5, CPYW 6, CFILL 7 (R238): the major opcode less 0x80. -/
  | copy (k : Nat) (a b : Double) (sfmt dfmt : Nat)
  | syncw (a b : Double) (g : Bool)
  | qpush (a b : Double) (iq : Nat) (tok : Bool)
  | hsub (a b : Double) (sid : Nat) (out : Bool)
  | tfill (a b : Double) (gmask : BitVec 8)
  | cbfill (a : Double) (bank : Nat) (smask : BitVec 4)
  | coll (a : Double) (kind : Nat)
  /-- STRM, STRMX, HREL and PCANCEL take no number; they wait for their marker all the same (R146). -/
  | strm (a : Double) (sid : Nat) (cc : Bool) (depth : Nat)
  | strmx (a : Double) (sid : Nat)
  | hrel (sid : Nat)
  | pcancel (a : Double)
  deriving DecidableEq, Repr

/-- How far a command has come. -/
inductive CmdSt where
  | marker            -- waits for its store-queue marker
  | ready             -- marker dispatched; nothing read yet
  | run               -- descriptors read
  | ended             -- all its effects performed; the timeline may pass it
  | failed            -- failed; its report waits to be accepted by the core's queue
  | reported          -- failed with its replays spent: it ends when its report is taken (R331)
  deriving DecidableEq, Repr

/-- R246, R281: why a command failed: cause number, reason, and the status word that goes into TSTAT. -/
structure Failure where
  cause : Nat
  reason : Nat
  tstat : Nat
  deriving DecidableEq, Repr

/-- R248: bytes of a destination beat that a copy keeps until the last of the beat has come: their stream offset, their address, and they. -/
structure Part where
  t : Nat
  va : Nat
  bytes : List Byte
  deriving DecidableEq, Repr

/-- A command in flight. `id` identifies it; `tl` and `n` are its timeline counter and number (tl 8: it takes none); `iss` is
the issue number of its marker. -/
structure Cmd where
  id : Nat
  tl : Nat
  n : Nat
  op : CmdOp
  maj : Nat
  st : CmdSt
  iss : Nat
  tbun : Nat
  src : Option Desc
  dst : Option Desc
  t : Nat                    -- destination stream bytes performed or kept; indices or slots of a fill done
  parts : List Part          -- those kept, in stream order (R248)
  u : Nat                    -- source stream bytes read
  pushed : Nat               -- queue entries pushed (R256)
  wait : Option Nat          -- clk since which it waits (R249, R255)
  startClk : Nat             -- clk at which it began (R267)
  idx : Option (Nat × Nat)   -- the run whose index word has been read, and that run's start (R240)
  beats : FMap (List Byte)   -- the source beats read, those of an index list among them, by virtual beat (R247)
  lost : Option (Nat × CmdSt × Nat × Nat)  -- since when it waits for memory that cannot be reached, and how far it was then (R369)
  qcore : Option Nat         -- the core whose queue takes its progress entries, once destination byte 0 is written (R256)
  closed : Bool              -- its tags and its length word are written (R241, R244)
  rel : Bool                 -- HREL or a kill has released the subscription (R260)
  aux : List Nat             -- what the command has read and keeps
  fail : Option Failure
  replays : Nat
  inbuf : List Byte          -- source bytes read and not yet transformed
  outbuf : List Byte         -- destination bytes not yet written
  slots : FMap (BitVec 2048) -- bytes written of each 2 KiB slot, by physical slot (R241)
  marks : List (Nat × Nat)   -- tags met, by destination stream offset (R241, R244)
  stags : FMap (BitVec 17)   -- bit 16 and the tag for each slot written, where tags are carried
  deriving DecidableEq, Repr

/-- R257: a bound prefetch stream. -/
structure Stream where
  desc : Desc
  cc : Bool
  depth : Nat
  p : Nat
  deriving DecidableEq, Repr

/-- An armed RESOLVE.on (R324). -/
structure Armed where
  va : Nat
  pa : Nat
  tl : Nat
  b : Double
  lslot : Nat
  tbun : Nat
  lost : Option Nat          -- since when it waits for a package that cannot be reached (R369)
  id : Nat                   -- its issue number, whether a taken branch may kill it, and the trap bank it belongs to (R105, R338)
  sq : Bool
  bank : Option Nat
  dead : Bool                -- killed: it is carried out and its faults are suppressed (R310)
  deriving DecidableEq, Repr

/-- R254: an entry of an input queue: a 63-bit value, or an end-of-stream token. -/
inductive QVal where
  | value (v : BitVec 63)
  | eos
  deriving DecidableEq, Repr

/-! ### Traps (R329 to R337) -/

/-- A cause as it is taken or reported: the cause word's fields (R334) and TSTAT. `va` orders nothing; it is the value of R329. -/
structure CauseInfo where
  cause : Nat
  slot : Nat
  gmask : Nat
  reason : Nat
  tl : Nat
  eng : Nat
  tlnum : Nat
  tstat : Nat
  deriving DecidableEq, Repr

/-- A reported E or D cause, waiting for a bundle boundary (R337). `deferred` for a D cause; `ord` its place among ties. -/
structure Report where
  info : CauseInfo
  tbun : Nat
  gts : Nat
  ord : Nat
  deferred : Bool     -- a D cause
  cmd : Nat           -- the failed command that ends when this is taken; 0: none
  deriving DecidableEq, Repr

/-- The banked registers of one trap level (R334) and what trap entry banks with them (R333). -/
structure TrapBank where
  tcause : Double
  tepc : Double
  tstat : Double
  tsave : Double
  tbun : Double
  held : FMap Double
  br1 : Option (Nat × Nat)
  br2 : Option (Nat × Nat)
  xrem : Nat
  recs : List Pending      -- landing records: `due` holds the remaining clk, r
  cellStall : Option Nat   -- the cell load that TEPC's bundle waits for (R321)
  deriving DecidableEq, Repr

/-- What a TRET or a context restore has still to re-inject (R339): the landing records with their remaining clk, the XNEXT remainder, and
the first clk at which TEPC's bundle may issue. -/
structure Reentry where
  recs : List Pending
  rem : Nat
  start : Nat
  deriving DecidableEq, Repr

/-- How a unit leaves its core (R305, R321, R331, R348). -/
inductive Leave where
  | suspend (a : Double) (target : Nat)
  | finish (a : Double)
  /-- `next` is where the unit resumes, `ref` its entry in the cell's chain. -/
  | cellWait (next ref : Nat)
  /-- `ref`: the chain entry of a cell wait the kill ends, else 0. -/
  | killed (info : CauseInfo) (tepc tbun ref : Nat)
  | preempt
  | park (info : CauseInfo) (tbun : Nat)
  deriving DecidableEq, Repr

/-- What a core is doing. -/
inductive CoreSt where
  | idle
  | running
  | leaving (how : Leave)
  /-- R349: the save failed, for the cause given, and the context stays in the core. -/
  | frozen (how : Leave) (info : CauseInfo)
  deriving DecidableEq, Repr

/-! ### Records, queues and cells (R301 to R327) -/

/-- A continuation record: sixteen words, word i at bits 32i+31 to 32i. -/
abbrev Rec := BitVec 512

/-- R323: what a parked unit receives at pick-up: in g[dst] unless WBS, and in the S1 latch chain (R59). -/
structure Delivery where
  dst : BitVec 5
  wbs : Bool
  v : Double
  line : Nat                 -- the cell's line, whose value it is (R141)
  deriving DecidableEq, Repr

/-- A record waiting in a die queue or a run list, with what the dispatcher knows of it. -/
structure QRec where
  recd : Rec
  since : Nat
  deliver : Option Delivery
  evalOf : Option Nat        -- physical address of the cell whose evaluator this is
  pool : Nat                 -- pool reference of that evaluation
  argIdx : Option Nat        -- the argument index of a dealt unit (R312), the number of a SELF unit
  self : Bool                -- a SELF unit
  saved : Option Nat         -- index of the context area it resumes from
  deriving DecidableEq, Repr

/-- R321: the delivery of a cell wait: destination, size, byte offset in the cell, extension. -/
structure CellWait where
  dst : BitVec 5
  wbs : Bool
  size : Nat
  off : Nat
  signed : Bool
  line : Nat                 -- the cell's line
  deriving DecidableEq, Repr

/-- R326: whence a speculative evaluation was started: the launch of the SPECEV issuer, and the levels it belongs to. A launch slot and a graph that are
given to another are no longer named. -/
structure SpecFrom where
  slot : Option Nat
  graph : Option Nat
  phase : Nat
  job : Nat
  deriving DecidableEq, Repr

/-- An entry of a dispatcher's record pool: a record copy, a parked unit or a registered record (R319, R321, R325). -/
structure PoolEntry where
  recd : Rec
  next : Nat                 -- next entry of the chain; 0: none
  cell : Option Nat          -- the cell it is parked on; none: an evaluator's copy
  wait : Option CellWait     -- of a parked unit
  die : Nat
  evalOf : Option Nat
  evalPool : Nat
  argIdx : Option Nat
  self : Bool
  ready : Bool               -- the parked unit's record has been written (R305)
  got : Option Double        -- what the cell's resolution delivered before that
  held : Option Nat          -- R324: a speculative result held aside
  region : Option (Nat × Nat)  -- R326: the private region of a speculative evaluation
  spec : Option SpecFrom     -- where it was started (R326)
  gone : Bool                -- its unit is no more; it is still to be taken off the chain of a cell that cannot be reached (R369)
  deriving DecidableEq, Repr

/-- What a dispatcher has still to do at a cell that cannot be reached (R369): the evaluation from a pool entry fails or is over with its evaluator, or
is discarded, or the entry leaves the chain. -/
inductive FarOp where | failed | ended | discarded | unlinked
  deriving DecidableEq, Repr

structure FarCell where
  pa : Nat
  ref : Nat
  op : FarOp
  since : Nat
  deriving DecidableEq, Repr

/-- A cause that is raised and whose action entry cannot be read yet (R330, R369). -/
structure Raised where
  info : CauseInfo
  tbun : Nat
  reported : Bool            -- an engine reported it (R331)
  since : Nat
  deriving DecidableEq, Repr

/-- R319: the state of a cell. -/
inductive CellState where | value | suspended | pending
  deriving DecidableEq, Repr

/-- A launch (R307, R311, R316). -/
structure Launch where
  card : BitVec 512
  job : Nat
  phase : Nat
  graph : Nat
  next : Nat                 -- the chunk counter NEXT
  selfDealt : Bool
  counter : Int
  status : Option Word32
  cancelled : Bool
  complete : Bool
  stopped : Bool             -- dealing stopped by a park (R312)
  waits : Bool               -- awaits its dependence counter (R308)
  deps : Nat                 -- conversion launches still to complete (R298)
  dependents : List Nat
  nconv : Nat
  dispatched : Bool          -- made by DISPATCH: FUT's second double is `nconv`
  argWords : List Nat        -- the one argument record of such a launch (R298)
  trange : Nat
  table : Nat
  replays : Nat
  lost : Option Nat                  -- since when its argument records, or at its end its FUT, could not be reached (R369)
  raised : Option (CauseInfo × Nat)  -- a cause of the launch that waits for its action entry, and since when (R330, R369)
  grants : List (Nat × List Nat)     -- core, and the argument indexes whose units have not finished
  chunks : List (Nat × Nat × Nat × Nat)   -- R315: grants to SELF units not finished: core, SELF unit, first index, number
  again : List (Nat × Nat)           -- R315: chunks of SELF units to grant again: first index, number
  phjob : Nat                        -- word 3 of its units' records (R307)
  parent : Option Nat                -- the launch whose unit dispatched it (R298)
  ring : Nat
  seq : Nat
  host : Bool
  deriving DecidableEq, Repr

/-- A graph: its dependence counters DC0 to DC63 (R308) and its place in the hierarchy. -/
structure Graph where
  job : Nat
  phase : Nat
  dc : FMap Int
  counter : Int
  cancelled : Bool
  complete : Bool
  ring : Nat
  seq : Nat
  deriving DecidableEq, Repr

/-- A phase or a job as a level: counter and state (R316, R318). -/
structure LevelSt where
  counter : Int
  cancelled : Bool
  complete : Bool
  deriving DecidableEq, Repr

/-- R376: a job and what JOBNEW gave it. -/
structure Job where
  xroot : Nat
  acttab : Double
  methctl : Double
  ctxpool : Double
  level : LevelSt
  stopped : Bool
  areas : List Nat           -- context areas in use
  deriving DecidableEq, Repr

/-- A loaded object (R364, R405). -/
structure Obj where
  handle : Nat
  hash : Nat
  job : Nat
  code : Nat
  codeLen : Nat
  data : Nat
  cell : Nat
  table : Option (Nat × Nat)       -- address and index count of its first TABLE section
  phases : List (Nat × Nat)        -- phase number, carve-out size code
  ranges : List (Nat × Nat)        -- virtual ranges mapped for it
  rebind : List (Nat × Nat × Nat × Nat)   -- CONST sites of REBIND keys: bundle, slot, field, key index
  maxdepth : Nat
  deriving DecidableEq, Repr

/-- R165: an open switch set. -/
structure SwSet where
  job : Nat
  set : Nat
  n : Nat
  members : List Nat
  deriving DecidableEq, Repr

/-- The shift-change wait of a core (R165 to R168). `granted`: its set has completed, at clk `grantAt`; `released`: the core has swapped and
issues its bundle; `withdrawn`: the leader has removed its arrival. -/
structure SwWait where
  word : Double
  since : Nat
  granted : Bool
  grantAt : Nat
  released : Bool
  withdrawn : Bool
  deriving DecidableEq, Repr

/-- A carve-out move (R134): banks in transit from code `fromCode` to code `toCode`, ending at `fin`. -/
structure Move where
  fromCode : Nat
  toCode : Nat
  fin : Nat
  deriving DecidableEq, Repr

/-- A pending host write in an ingress buffer (R148), or past its 64 entries on its link, and the port it comes through. -/
structure Ingress where
  pa : Nat
  bytes : List Byte
  port : Nat
  deriving DecidableEq, Repr

/-- A saved context (R348): its area and whose it is; `parked`: it is held for host software. -/
structure Saved where
  area : Nat                 -- job·65536 + index of the area
  core : Nat
  job : Nat
  parked : Bool
  info : CauseInfo           -- of a park
  tbun : Nat
  deriving DecidableEq, Repr

/-! ### A core -/

/-- Scalar and sequencer state (R84, R59, R61). `land0`, `land1`: the result each chain was offered since the last issue. -/
structure Sca where
  pc : Nat
  seq : Nat                       -- operations issued so far: the next `iss`
  g : FMap Double
  b : FMap Double
  held : FMap Double
  land0 : Option (Nat × Double)
  land1 : Option (Nat × Double)
  lc : FMap Double
  spst : BitVec 40
  spNext : Option (BitVec 40)
  br1 : Option (Nat × Nat)        -- branch taken in the last bundle: target, and `seq` after its bundle
  br2 : Option (Nat × Nat)        -- branch taken in the bundle before
  taken : Option Nat              -- target taken by the bundle being issued
  tretNow : Bool                  -- the bundle being issued holds an enabled TRET
  late : List (Nat × Double)      -- MTS writes of the bundle being issued, applied at its end (R343)
  cellStall : Option Nat          -- a cell load the next bundle waits for (R321)
  cellNext : Nat                  -- the fetch address of the bundle after the last one that ended (R321)
  callRet : Option Nat            -- R352 mode 2: the link value awaited
  hold : Nat                      -- clk before which no bundle issues (R148, R342)
  hwinHeld : Bool                 -- the 3-clk ingress stall of the due bundle has been served (R148)
  flushHeld : Bool                -- the core is held for 3 clk after a flush of the full ingress buffer (R148)
  inflight : List Pending
  deriving DecidableEq, Repr

/-- Lane groups, matrix and transform state. Keys: tile 32g+t, accumulator 4g+a, pointer 8g+p, codebook slot 4B+S. -/
structure Vec where
  vmode : BitVec 1
  pbase : BitVec 22
  rngs : FMap Word32
  tiles : FMap TileBits
  sides : FMap SideBits
  descs : FMap Word32
  ptrs : FMap Word32
  strides : FMap (BitVec 21)
  psnap : Double
  intm : BitVec 32
  opened : BitVec 32
  openSince : FMap (Option Nat)   -- by accumulator: since when its OPEN bit is 1 (R347)
  depthRaised : BitVec 32
  acc : FMap AccBits
  asstat : Double
  kregs : FMap Bits256
  cb : FMap Bits256
  cbMark : BitVec 2
  cbEver : BitVec 2
  cbstall : Double
  deriving DecidableEq, Repr

/-- Table state (R152 to R169). Entry key (2g+side)·1024+index; class key side·1024+index. -/
structure Tab where
  ents : FMap Double
  cls : FMap (BitVec 4)
  act : Bool
  bad : Bool
  ever : Bool
  badidx : BitVec 10
  badwhy : BitVec 4
  swstall : Double
  swcount : Word32
  xnext : Nat
  wait : Option SwWait
  bound : Option (Option (Nat × Nat × Nat))  -- binding of the active side: an image (job, address, range word) or the all-NOP image; none: neither
  bindBad : Bool                 -- R303: the fill of the unit's image has failed
  deriving DecidableEq, Repr

/-- Memory side of a core (R119, R131, R133, R139, R148). -/
structure Lsu where
  loadQ : List QEntry
  storeQ : List QEntry
  outst : List QEntry
  seen : List (Nat × Double)      -- CNTRDs, by issue number, that a later access has passed while their level lacked COMPLETE, and its value then (R317)
  ackcnt : Nat
  acks : List Nat                 -- performed far writes whose acknowledgement is on its way, by issue number
  cache : FMap (Option (Nat × BitVec 1024))   -- resident lines by virtual line: the physical line and its 128 bytes
  rinvHeld : Option (Nat × Nat)   -- a RINV that has been dispatched and holds the load queue's head: its issue number, and until which clk
  utlb : List Nat                 -- virtual 64 KiB pages whose translation the micro-TLB holds (R119)
  walked : Option Nat             -- a page whose walk ended in a fault
  ingress : List Ingress
  ingressFull : Option Nat
  phaseno : BitVec 16
  grow : BitVec 8
  shrink : BitVec 8
  adapt : Bool
  maxc : Nat
  minc : Nat
  size : Nat
  move : Option Move
  moveNext : Option Nat
  adaptFrom : Nat
  claims : List Nat               -- claimed 128-byte lines of the own array (R184)
  deriving DecidableEq, Repr

/-- Engines of a core. -/
structure Eng where
  cmds : List Cmd
  tl : FMap Nat
  issued : FMap Nat
  streams : FMap (Option Stream)
  iq : FMap (List QVal)
  armed : List Armed
  nextCmd : Nat
  deriving DecidableEq, Repr

/-- Trap and system state of a core. -/
structure Trp where
  level : Nat
  bank1 : TrapBank
  bank2 : TrapBank
  bank0recs : List Pending        -- records captured at level-independent stops: a park or a pre-emption (R338, R348)
  reports : List Report
  replays : Nat
  acttab : Double
  methctl : Double
  ctxpool : Double
  dbgmode : Nat
  preemptDue : Bool
  stepDue : Bool
  resumeLeave : Option Leave
  assay : Option (Pending × Nat)  -- a step withheld for replay (R218) and the replays already made
  assayRecs : List Pending        -- what was in flight at its stop, `due` holding the remaining clk
  assayRem : Nat                  -- the XNEXT remainder of that stop
  assayHold : Nat                 -- what was left of `hold` at that stop
  assayClk : Nat                  -- the clk of that stop
  assayDue : Nat                  -- the clk by which the replay under way ends (R218)
  assayAsks : Bool                -- a mismatch has been found and its action entry is still to be read (R330)
  heldReports : List Report       -- reports of the array that found the queue full (R337)
  reentry : Option Reentry        -- what waits for TEPC's bundle to issue (R339)
  parkRem : Nat                   -- the XNEXT remainder of a park or a pre-emption
  raised : Option Raised          -- a cause that waits for its action entry (R330)
  deriving DecidableEq, Repr

/-- The unit a core runs. -/
structure UnitSt where
  st : CoreSt
  recd : Rec
  start : Nat
  code : Nat
  codeLen : Nat
  maxdepth : Nat
  job : Nat
  evalOf : Option Nat
  pool : Nat
  argIdx : Option Nat
  self : Bool
  deliver : Option Delivery  -- what it received at pick-up (R323)
  runList : List QRec
  lost : List (Nat × Nat)    -- what could not be reached for the unit, by address, and since when (R369)
  area : Option Nat          -- the context area allocated to the pre-emption or the park that has begun (R348)
  perf : FMap Double
  deriving DecidableEq, Repr

/-- One core (R17). -/
structure Core where
  sca : Sca
  vec : Vec
  tab : Tab
  lsu : Lsu
  eng : Eng
  trp : Trp
  un : UnitSt
  deriving DecidableEq, Repr

/-! ### The package -/

/-- What a member of a collective in another package tells: that it has arrived, with what it must agree in (R267) and its contribution; that
its destination is complete (R263); that it cancels (R280) or fails (R281). -/
inductive RemoteWhat where
  | join (sig : List Nat) (data : List Byte)
  | done
  | cancel
  | fail (cause reason : Nat)
  deriving DecidableEq, Repr

/-- A message of rank `rank` of the transfer (COMM, XID), from the clk it arrives at; COMM by the table's words and its address. -/
structure RemoteMsg where
  since : Nat
  comm : List Nat
  addr : Nat
  xid : Nat
  rank : Nat
  what : RemoteWhat
  deriving DecidableEq, Repr

/-- Physical failures and what arrives from outside the package, as data: the environment the device meets. -/
structure Env where
  badLines : List Nat             -- physical 32-byte beats whose contents fail ECC (R353)
  badTags : List Nat              -- 2 KiB slots whose tag fails ECC (R285)
  badCells : List Nat             -- 64-byte lines whose state bits fail ECC (R353)
  mismatch : List (Nat × Nat)     -- (core, group): the next step landing there mismatches (R217), once per listing
  mchkFail : List (Nat × Nat)     -- (core, group): its next MCHK fails (R211)
  peersDown : List Nat            -- packages that cannot be reached (R369)
  gtsMaster : Nat                 -- the package whose GTS the others follow (R370)
  badDies : List Nat              -- dies that fail bring-up (R373)
  inbox : List RemoteMsg          -- what members of collectives in other packages send
  sent : List (Nat × Nat × Nat × List Byte)   -- what members here have sent there: the table's address, XID, rank, one beat
  deriving DecidableEq, Repr

/-- R359: the registers of a submission ring. -/
structure Ring where
  base : Nat
  job : Nat
  en : Bool
  logsz : Nat
  tail : Nat
  head : Nat
  stop : Bool
  cqbase : Nat
  cqhead : Nat
  cqtail : Nat
  first : Option Nat              -- clk at which the fetcher first read card HEAD
  got : Option (BitVec 512)       -- card HEAD, read whole; it waits to be accepted while an event waits (R361)
  events : List (Nat × Nat)       -- completion events waiting: double 0 and double 1
  deriving DecidableEq, Repr

/-- R381: a firmware patch: version, security version, and the SHA-384 of its image. -/
structure Patch where
  ver : Nat
  svn : Nat
  digest : List Byte
  deriving DecidableEq, Repr

/-- R380: a CKPT or RESTORE that streams: the bytes done, and for CKPT what memory held when the job stood still. -/
structure Streaming where
  done : Nat
  mem : FMap Byte
  tags : FMap Half
  cells : FMap CellState
  deriving DecidableEq, Repr

/-- R374: the mailbox, the controllers' state and what they keep. -/
structure Mgmt where
  mbaddr : Nat
  mbseq : Word32
  mbstatus : Byte
  pstate : Nat                    -- 0 RUNNING 1 DEGRADED 2 FAILED 3 HALTED
  busy : Bool
  cmdSeq : Word32
  block : BitVec 1024             -- doubles 0 to 15 of the block as read
  log : List (List (BitVec 256))  -- error log, oldest first; the entries of a kill report stand together
  msix : List Nat                 -- vectors raised, oldest first, for a host to take (R355): 64 times what the vector names (a core, a die), plus the vector
  cap : Nat
  mhz : Nat
  flashPkg : Nat
  pkgNo : Nat
  patch : Option Patch            -- the stored patch
  inForce : Option Patch          -- the patch in force since the last bring-up
  fusedSvn : Nat
  declared : List Nat             -- dies declared lost whose loss is still to be handled (R379)
  cursor : Nat                    -- the controllers' own memory: HBM from here to its end is theirs
  loadVa : Nat                    -- where the loader looks for room in an address space (R405)
  quiesced : Option Nat           -- a job held still by CKPT (R380)
  streaming : Option Streaming    -- what a CKPT or RESTORE has streamed (R380)
  unmapping : List (Nat × Nat × Nat)  -- what an UNLOAD has unmapped, while accesses already translated there are still to be performed (R119): job, address, bytes
  portsDown : List Nat
  linksUp : BitVec 16
  peertab : FMap (BitVec 16)
  gtsSync : Bool
  gtsMaster : Bool
  gtsLocked : Bool
  spares : FMap Nat               -- spare cores used, by die
  spared : List (Nat × Nat)       -- spares of rows, channels and lanes applied
  hostData : List (List Byte)     -- what host reads returned, oldest first
  peerData : List (List Byte)     -- what accesses of other packages returned, oldest first
  deriving DecidableEq, Repr

/-- A collective transfer (R264 to R281), shared by its members: the rank words of its participant table, its XID, what the first
member to arrive asked for, the members that have arrived (rank, core, timeline, command), the ranks whose destination is
complete and those whose command has ended, and the chunks already encoded in plane form (R270), by rank and chunk. -/
structure Transfer where
  comm : List Nat
  addr : Nat                 -- the address of the table and the job it is an address of, as the first member gave them
  job : Nat
  xid : Nat
  ranks : List Nat           -- the ranks that take part
  sig : List Nat
  members : List (Nat × Nat × Nat × Nat)
  recvDone : List Nat
  finished : List Nat
  cancelled : Bool
  cancelClk : Option Nat     -- the clk of the first cancel (R280)
  enc : FMap (List Byte)
  deriving DecidableEq, Repr

/-- Everything the cores share. -/
structure Pkg where
  clk : Nat
  gts : Nat
  gtsFrac : Nat                   -- the part of a GTS count that has passed, in units of `gtsUnit`
  gtsSteered : Bool               -- GTS_SYNC has counted once in this clk (R370)
  mem : FMap Byte
  tags : FMap Half
  full : FMap Bool
  cells : FMap CellState
  live : List Nat                 -- live dies
  queues : FMap (List QRec)       -- key 8·die + priority
  unbound : List QRec             -- R303: records parked for host software with cause UNBOUND
  pool : FMap (Option PoolEntry)  -- by reference
  farCells : List FarCell         -- what the dispatchers have still to do at cells that cannot be reached (R369)
  nextRef : Nat
  launches : FMap (Option Launch)
  nextSlot : Nat
  graphs : FMap (Option Graph)
  phases : FMap (Option LevelSt)  -- key job·65536 + phase
  jobs : FMap (Option Job)
  objs : List Obj
  sets : List SwSet
  transfers : List Transfer
  rings : FMap Ring
  saved : List (Saved × Core)
  mgmt : Mgmt
  env : Env
  free : Nat                      -- counts the free values used (the model's own field)
  deriving DecidableEq, Repr

/-- The machine: the core whose turn it is, its logical number, the other cores, the package, and the agenda. -/
structure State where
  core : Core
  no : Nat
  others : FMap Core
  pkg : Pkg
  agenda : List Instr
  deriving DecidableEq, Repr

/-! ### Reset -/

/-- R41: RNGS resets to 1; every other register listed here resets to zero. DESIGN CHOICE: log entry 5. -/
def Sca.reset : Sca :=
  { pc := 0, seq := 0, g := [], b := [], held := [], land0 := none, land1 := none, lc := [], spst := 0,
    spNext := none, br1 := none, br2 := none, taken := none, tretNow := false, late := [], cellStall := none, cellNext := 0, callRet := none, hold := 0, hwinHeld := false,
    flushHeld := false, inflight := [] }

def Vec.reset : Vec :=
  { vmode := 0, pbase := 0, rngs := [], tiles := [], sides := [], descs := [], ptrs := [], strides := [], psnap := 0,
    intm := 0, opened := 0, openSince := [], depthRaised := 0, acc := [], asstat := 0, kregs := [], cb := [],
    cbMark := 0, cbEver := 0, cbstall := 0 }

def Tab.reset : Tab :=
  { ents := [], cls := [], act := false, bad := false, ever := false, badidx := 0, badwhy := 0, swstall := 0,
    swcount := 0, xnext := 0, wait := none, bound := some none, bindBad := false }

/-- R133: GROW 0x20 and SHRINK 0x04; the rest zero. -/
def Lsu.reset : Lsu :=
  { loadQ := [], storeQ := [], outst := [], seen := [], ackcnt := 0, acks := [], cache := [], rinvHeld := none, utlb := [], walked := none, ingress := [],
    ingressFull := none, phaseno := 0, grow := 0x20, shrink := 0x04, adapt := false, maxc := 0, minc := 0, size := 0,
    move := none, moveNext := none, adaptFrom := 0, claims := [] }

def Eng.reset : Eng :=
  { cmds := [], tl := [], issued := [], streams := [], iq := [], armed := [], nextCmd := 1 }

def TrapBank.reset : TrapBank :=
  { tcause := 0, tepc := 0, tstat := 0, tsave := 0, tbun := 0, held := [], br1 := none, br2 := none, xrem := 0,
    recs := [], cellStall := none }

def Trp.reset : Trp :=
  { level := 0, bank1 := .reset, bank2 := .reset, bank0recs := [], reports := [], replays := 0, acttab := 0, methctl := 0,
    ctxpool := 0, dbgmode := 0, preemptDue := false, stepDue := false, resumeLeave := none, assay := none, assayRecs := [],
    assayRem := 0, assayHold := 0, assayClk := 0, assayDue := 0, assayAsks := false, heldReports := [], reentry := none, parkRem := 0, raised := none }

def UnitSt.reset : UnitSt :=
  { st := .idle, recd := 0, start := 0, code := 0, codeLen := 0, maxdepth := 0, job := 0, evalOf := none, pool := 0,
    argIdx := none, self := false, deliver := none, runList := [], lost := [], area := none, perf := [] }

/-- A core after reset: idle, every register at its reset value. -/
def Core.reset : Core :=
  { sca := .reset, vec := .reset, tab := .reset, lsu := .reset, eng := .reset, trp := .reset, un := .reset }

def Env.reset : Env :=
  { badLines := [], badTags := [], badCells := [], mismatch := [], mchkFail := [], peersDown := [], gtsMaster := 0, badDies := [],
    inbox := [], sent := [] }

/-- R359: LOGSZ resets to 4, everything else to zero. -/
def Ring.reset : Ring :=
  { base := 0, job := 0, en := false, logsz := 4, tail := 0, head := 0, stop := false, cqbase := 0, cqhead := 0, cqtail := 0,
    first := none, got := none, events := [] }

/-- R371, R374, R368: state RUNNING, nothing running, the clock at 1.7 GHz, the cap at the package limit. No patch is stored, so
each of the nine controllers has logged event 0x01 (R372 step 2). DESIGN CHOICE: log entry 6. -/
def Mgmt.reset : Mgmt :=
  { mbaddr := 0, mbseq := 0, mbstatus := 0, pstate := 0, busy := false, cmdSeq := 0, block := 0, log := List.replicate 9 [BitVec.ofNat 256 (2047 * 2 ^ 64 + 2 ^ 128)],
    msix := List.replicate 9 20,
    cap := 4200, mhz := 1700, flashPkg := 0, pkgNo := 0, patch := none, inForce := none, fusedSvn := 0, declared := [],
    cursor := 0x0180_0000_0000, loadVa := 0xF0_0000_0000, quiesced := none, streaming := none, unmapping := [], portsDown := [], linksUp := 0, peertab := [], gtsSync := false, gtsMaster := false,
    gtsLocked := false, spares := [], spared := [], hostData := [], peerData := [] }

/-- R372: all of HBM zero, tags 0x0000, cell states VALUE, nine dies live, GTS at 0. DESIGN CHOICE: log entry 4. -/
def Pkg.reset : Pkg :=
  { clk := 0, gts := 0, gtsFrac := 0, gtsSteered := false, mem := [], tags := [], full := [], cells := [], live := [0, 1, 2, 3, 4, 5, 6, 7, 8],
    queues := [], unbound := [], pool := [], farCells := [], nextRef := 1, launches := [], nextSlot := 1, graphs := [], phases := [], jobs := [], objs := [],
    sets := [], transfers := [], rings := [], saved := [], mgmt := .reset, env := .reset, free := 0 }

/-- The package after power-on reset and bring-up (R372): every core idle, nothing submitted. -/
def State.reset : State :=
  { core := .reset, no := 0, others := [], pkg := .reset, agenda := [] }

end Sys2Proof.Machine
end

