-- ==== Sys2Proof/Machine/Mem.lean ====
section
/-! DEFINITION. Memory by physical address (R115), tags, full/empty bits and cell states beside it, the carve-out (R133 to
R137), home dies (R116) and translation (R114 to R122). -/

namespace Sys2Proof.Machine

/-! ### Bytes -/

/-- The memory's canonical form: addresses strictly rising, and no entry equal to what an unlisted address reads as (0). -/
abbrev Memory.wf (m : FMap Byte) : Prop := fwf (0 : Byte) m = true

/-- The byte at a physical address. An address nothing has written reads 0 (R372; assumption 4). DESIGN CHOICE: log entry 4. -/
def readByte (p : Pkg) (pa : Nat) : Byte := fget 0 p.mem pa

/-- `n` bytes from `pa` on. -/
def readBytes (p : Pkg) (pa n : Nat) : List Byte := fgetN 0 p.mem pa n

/-- `n` bytes from `pa` on as a little-endian number (R5). -/
def readNat (p : Pkg) (pa n : Nat) : Nat := leNat (readBytes p pa n)

/-- Writes bytes from `pa` on. -/
def writeBytes (p : Pkg) (pa : Nat) (bs : List Byte) : Pkg := { p with mem := fput 0 p.mem pa bs }

/-- Writes the low `n` bytes of `v`. -/
def writeNat (p : Pkg) (pa n v : Nat) : Pkg := writeBytes p pa (leBytes n v)

/-! ### The physical map (R115) -/

def hbmEnd : Nat := 0x0180_0000_0000
def arraysBase : Nat := 0x8_0000_0000_0000
def arraySize : Nat := 0x30_0000
def arraySlot : Nat := 0x40_0000

/-- The first physical byte of a core's array. -/
def arrayBase (n : Nat) : Nat := arraysBase + n * arraySlot

/-- What a physical address is. -/
inductive Region where
  | hbm
  | array (core off : Nat)
  | device (off : Nat)
  | host (addr : Nat)
  | peer (slot off : Nat)
  | reserved
  deriving DecidableEq, Repr

/-- R115. DEDUCED: log entry 80. -/
def regionOf (pa : Nat) : Region :=
  if pa < hbmEnd then .hbm
  else if arraysBase ≤ pa ∧ pa < arraysBase + 576 * arraySlot then
    let o := (pa - arraysBase) % arraySlot
    if o < arraySize then .array ((pa - arraysBase) / arraySlot) o else .reserved
  else if 0x9_0000_0000_0000 ≤ pa ∧ pa < 0xA_0000_0000_0000 then .device (pa - 0x9_0000_0000_0000)
  else if 0xA_0000_0000_0000 ≤ pa ∧ pa < 0xB_0000_0000_0000 then .host (pa - 0xA_0000_0000_0000)
  else if 0xC_0000_0000_0000 ≤ pa ∧ pa < 0x10_0000_0000_0000 then
    let o := fld pa 0 41
    if o < hbmEnd then .peer (fld pa 41 9) o else .reserved
  else .reserved

/-- Where the window of peer slot `i` begins (R115). -/
def peerBase (i : Nat) : Nat := 0xC_0000_0000_0000 + i * 2 ^ 41

/-- R368, R369: where an access in a peer slot goes: the package its PEERTAB entry names. Memory of another package stands under the
window whose number is that package's, so slots that name one package reach the same memory. DEDUCED: log entry 82. -/
def routed (p : Pkg) (pa : Nat) : Nat :=
  match regionOf pa with
  | .peer slot off => peerBase ((fget 0 p.mgmt.peertab slot).toNat % 2 ^ 9) + off
  | _ => pa

/-- R369: whether a package cannot be reached: no link port is up, or it does not answer. -/
def pkgLost (p : Pkg) (pkg : Nat) : Bool := p.mgmt.linksUp == 0 || p.env.peersDown.contains pkg

/-- R355: a host port is up: port 0 on die0, port 1 on die2. -/
def hostOpen (p : Pkg) : Bool := !(p.mgmt.portsDown.contains 0 && p.mgmt.portsDown.contains 1)

/-- R21, R369: whether the memory a routed address lies in cannot be reached: of another package, where no port is up or no route leads there; of
the host, while both host ports are down. An access to the host waits until one is up. DESIGN CHOICE: log entry 57. -/
def peerLost (p : Pkg) (pa : Nat) : Bool :=
  match regionOf pa with
  | .peer pkg _ => pkgLost p pkg
  | .host _ => !hostOpen p
  | _ => false

/-- Whether an address lies in another package. -/
def isPeer (pa : Nat) : Bool := match regionOf pa with | .peer _ _ => true | _ => false

/-- The element at an index of a list, 0 past its end. -/
def nth (l : List Nat) (i : Nat) : Nat := l.getD i 0

/-- R116: the home die of a physical address: the live die that comes ((a >> 12) mod D)-th, or the die of a core's array.
`none`: outside the package. -/
def homeDie (p : Pkg) (pa : Nat) : Option Nat :=
  match regionOf pa with
  | .hbm => some (nth p.live ((pa >>> 12) % p.live.length))
  | .array n _ => some (n / 64)
  | _ => none

/-! ### Tags, full/empty bits and cell states -/

/-- The tag of the 2 KiB slot that holds `pa` (R71, R285). -/
def tagAt (p : Pkg) (pa : Nat) : Half := fget 0 p.tags (pa / 2048)
def setTag (p : Pkg) (pa : Nat) (v : Half) : Pkg := { p with tags := fset 0 p.tags (pa / 2048) v }

/-- The full/empty bit of the 128-byte line that holds `pa` (R18). -/
def fullAt (p : Pkg) (pa : Nat) : Bool := fget false p.full (pa / 128)
def setFull (p : Pkg) (pa : Nat) (v : Bool) : Pkg := { p with full := fset false p.full (pa / 128) v }

/-- Sets the full/empty bits of `n` lines from the one that holds `pa`. -/
def setFullN (p : Pkg) (pa n : Nat) (v : Bool) : Pkg :=
  { p with full := fput false p.full (pa / 128) (List.replicate n v) }

/-- The state of the cell whose 64-byte line holds `pa` (R319). -/
def cellAt (p : Pkg) (pa : Nat) : CellState := fget .value p.cells (pa / 64)
def setCell (p : Pkg) (pa : Nat) (v : CellState) : Pkg := { p with cells := fset .value p.cells (pa / 64) v }

/-- Whether one of `n` bytes from `pa` lies in a 32-byte beat that fails ECC (R353). -/
def badData (p : Pkg) (pa n : Nat) : Bool :=
  p.env.badLines.any fun b => decide (b * 32 < pa + n) && decide (pa < b * 32 + 32)

def badTag (p : Pkg) (pa : Nat) : Bool := p.env.badTags.contains (pa / 2048)
def badCell (p : Pkg) (pa : Nat) : Bool := p.env.badCells.contains (pa / 64)

/-! ### Cores -/

/-- The core with logical number `n`, as it stands. -/
def State.coreAt (s : State) (n : Nat) : Core := if n = s.no then s.core else fget .reset s.others n

/-- Changes the core with logical number `n`. -/
def State.modCore (s : State) (n : Nat) (f : Core → Core) : State :=
  if n = s.no then { s with core := f s.core } else { s with others := fset .reset s.others n (f (fget .reset s.others n)) }

/-! ### The carve-out -/

/-- R133, R137: the lowest bank that counts as carved. During a move every bank whose role changes is in transit. -/
def Lsu.carveBank (l : Lsu) : Nat :=
  match l.move with
  | some m => 48 - 4 * max m.fromCode m.toCode
  | none => 48 - 4 * l.size

/-- Whether the byte at `off` of the core's array lies in the carve-out or in transit. -/
def Core.carved (c : Core) (off : Nat) : Bool := decide (c.lsu.carveBank ≤ off / 65536)

/-! ### Translation -/

/-- The kinds of access R120 distinguishes. -/
inductive Acc where
  | load | store | atomic
  /-- CELLMK, RESOLVE and SPECEV (R320). -/
  | cellOp
  /-- FREG: as the others, but the page needs RD = 1. -/
  | cellRd
  | fetch
  deriving DecidableEq, Repr

/-- Why an access cannot be made: XLATE with a reason of R120, MEMUE in a page-table read, or CMPLOAD. -/
inductive XErr where
  | xlate (reason : Nat)
  | memue
  | cmpload
  deriving DecidableEq, Repr

/-- What a translation gives. -/
structure Xl where
  pa : Nat
  nc : Bool
  dev : Bool
  cell : Bool
  cmp : Bool
  pin : Bool
  deriving DecidableEq, Repr

/-- R117: the levels of the walk: index position, index width, whether a leaf may stand there, and the lowest PA bit a leaf
gives. -/
def walkLevels : List (Nat × Nat × Bool) := [(48, 8, false), (39, 9, false), (30, 9, true), (21, 9, true), (16, 5, true)]

/-- A valid leaf met by the walk: the entry, and the position of its lowest index bit. -/
structure Leaf where
  pte : Nat
  shift : Nat
  addr : Nat          -- physical address of the entry
  deriving DecidableEq, Repr

/-- R118: a valid entry that no walk accepts. `last`: level 4. -/
def pteMalformed (pte shift : Nat) (leafOk last : Bool) : Bool :=
  fld pte 52 12 != 0 || fld pte 5 2 != 0 ||
    (if bit pte 1 then !leafOk || fld pte 12 (shift - 12) != 0 else last)

/-- R117: the walk from a table, over the levels that remain. An entry with V = 0 is not mapped, whatever its other bits.
DESIGN CHOICE: log entry 83. -/
def walkFrom (p : Pkg) (va : Nat) : List (Nat × Nat × Bool) → Nat → Except XErr Leaf
  | [], _ => .error (.xlate 0)
  | (shift, n, leafOk) :: ls, table =>
    let ea := table + 8 * fld va shift n
    if badData p ea 8 then .error .memue
    else
      let pte := readNat p ea 8
      if !bit pte 0 then .error (.xlate 0)
      else if pteMalformed pte shift leafOk ls.isEmpty then .error (.xlate 8)
      else if bit pte 1 then .ok { pte, shift, addr := ea }
      else walkFrom p va ls (fld pte 12 40 * 4096)

/-- R117: the walk from a job's root table; a job that does not exist has none. -/
def walk (p : Pkg) (root : Option Nat) (va : Nat) : Except XErr Leaf :=
  match root with
  | some r => walkFrom p va walkLevels r
  | none => .error (.xlate 0)

/-- R114: the device virtual address of a 64-bit address. -/
def va56 (a : Nat) : Nat := a % 2 ^ 56

def localBase : Nat := 0xFF_FFFF_FFC0_0000
def localEnd : Nat := 0xFF_FFFF_FFF0_0000

/-- R114: the offset of an address in the local window. -/
def localOff (a : Nat) : Option Nat :=
  let v := va56 a
  if localBase ≤ v ∧ v < localEnd then some (v - localBase) else none

/-- R120: the permission reasons of a page, in their order. `sz` is the access size. -/
def pageFault (k : Acc) (sz : Nat) (r : Region) (pte : Nat) : Option XErr :=
  let dev := bit pte 9
  let cell := bit pte 7
  let host := match r with | .host _ => true | _ => false
  if bit pte 8 && k != .fetch then some .cmpload
  else if k == .atomic && (host || dev || cell) then some (.xlate 5)
  else if dev && decide (sz < 4) && (k == .load || k == .store || k == .atomic) then some (.xlate 6)
  else if (k == .cellOp || k == .cellRd) && !cell then some (.xlate 9)
  else if (k == .load || k == .atomic || k == .cellRd) && !bit pte 2 then some (.xlate 1)
  else if (k == .store || k == .atomic || k == .cellOp) && !bit pte 3 then some (.xlate 2)
  else if (k == .store || k == .atomic) && bit pte 4 then some (.xlate 3)
  else none

/-- R122: whether the bytes at a physical address lie in a carved bank of the core that owns them. -/
def carvedAt (s : State) (r : Region) : Bool :=
  match r with
  | .array n o => (s.coreAt n).carved o
  | _ => false

/-- R369: a peer window whose PEERTAB entry has V = 0. -/
def unroutedPeer (p : Pkg) (r : Region) : Bool :=
  match r with
  | .peer slot _ => !(fget 0 p.mgmt.peertab slot).getLsbD 15
  | _ => false

/-- R114 to R122: Translate, for the core whose turn it is, in the address space with root table `root`. The first reason in
the order of R120 is the one given. `cmp`: the access may be made to a page with CMP = 1 (R245). -/
def translateCmp (cmp : Bool) (s : State) (root : Option Nat) (k : Acc) (sz a : Nat) : Except XErr Xl :=
  let v := va56 a
  if localEnd ≤ v then .error (.xlate 7)
  else match localOff a with
    | some o =>
      if s.core.carved o then .error (.xlate 4)
      else if k == .cellOp || k == .cellRd then .error (.xlate 9)
      else .ok { pa := arrayBase s.no + o, nc := true, dev := false, cell := false, cmp := false, pin := false }
    | none =>
      match walk s.pkg root v with
      | .error e => .error e
      | .ok l =>
        let pa := fld l.pte 12 40 * 4096 + fld v 0 l.shift
        let r := regionOf pa
        if r = .reserved ∨ unroutedPeer s.pkg r then .error (.xlate 7)
        else if carvedAt s r then .error (.xlate 4)
        else match pageFault k sz r (if cmp ∧ bit l.pte 8 then l.pte - 256 else l.pte) with
          | some e => .error e
          | none => .ok { pa := routed s.pkg pa, nc := bit l.pte 10, dev := bit l.pte 9, cell := bit l.pte 7, cmp := bit l.pte 8,
                          pin := bit l.pte 11 }

/-- The translation of a scalar access. -/
def translate (s : State) (root : Option Nat) (k : Acc) (sz a : Nat) : Except XErr Xl := translateCmp false s root k sz a

/-- The root table of a job (R117). -/
def jobRoot (p : Pkg) (job : Nat) : Option Nat := (fget none p.jobs job).map Job.xroot

/-- The root table the running unit's accesses walk. -/
def State.root (s : State) : Option Nat := jobRoot s.pkg s.core.un.job

/-- R104, R75: a bundle may be fetched only from a scanned-executable page. -/
def fetchPa (s : State) (a : Nat) : Except XErr Nat :=
  let v := va56 a
  if localBase ≤ v then .error (.xlate 0)
  else match walk s.pkg s.root v with
    | .error e => .error e
    | .ok l =>
      let pa := fld l.pte 12 40 * 4096 + fld v 0 l.shift
      if bit l.pte 4 && regionOf pa != .reserved && !unroutedPeer s.pkg (regionOf pa) then .ok (routed s.pkg pa) else .error (.xlate 0)

end Sys2Proof.Machine
end

