-- ==== Sys2Proof/Machine/Num.lean ====
section
/-! DEFINITION. Number formats, rounding and the summation rule of matrix steps (R27 to R49). Every function computes on
exact reals and encodes once, at the end. -/

namespace Sys2Proof.Machine

/-! ### Exact values -/

/-- 2^e as an exact real. -/
def pow2 (e : Int) : Rat := if 0 ≤ e then (2 ^ e.toNat : Nat) else mkRat 1 (2 ^ (-e).toNat)

/-- floor(log2 r) for r > 0. -/
def ilog2 (r : Rat) : Int :=
  let e : Int := (r.num.natAbs.log2 : Int) - (r.den.log2 : Int)
  if r < pow2 e then e - 1 else e

/-- |r| · 2^k as a quotient of naturals. -/
def scaled (r : Rat) (k : Int) : Nat × Nat :=
  if 0 ≤ k then (r.num.natAbs * 2 ^ k.toNat, r.den) else (r.num.natAbs, r.den * 2 ^ (-k).toNat)

/-- A real with the sign `neg` for a zero. -/
def xr (neg : Bool) (r : Rat) : XR :=
  if r = 0 then .fin neg 0 else if r < 0 then .fin true (-r) else .fin false r

/-- An integer as an exact real; zero is +0. -/
def xint (i : Int) : XR := xr false (i : Rat)

/-- The signed real of a finite value; 0 for the others. -/
def XR.toRat : XR → Rat
  | .fin n m => if n then -m else m
  | _ => 0

def XR.isNan : XR → Bool
  | .nan => true
  | _ => false

def XR.isZero : XR → Bool
  | .fin _ m => m == 0
  | _ => false

/-- The sign; NaN has none. -/
def XR.sign : XR → Bool
  | .nan => false
  | .inf n => n
  | .fin n _ => n

def XR.neg : XR → XR
  | .nan => .nan
  | .inf n => .inf (!n)
  | .fin n m => .fin (!n) m

def XR.abs : XR → XR
  | .nan => .nan
  | .inf _ => .inf false
  | .fin _ m => .fin false m

/-- Exact sum. Infinities of opposite sign give NaN; an exact zero is +0 unless both terms are −0 (R46). -/
def xadd : XR → XR → XR
  | .nan, _ | _, .nan => .nan
  | .inf a, .inf b => if a = b then .inf a else .nan
  | .inf a, _ => .inf a
  | _, .inf b => .inf b
  | .fin a x, .fin b y => xr (a && b) ((XR.fin a x).toRat + (XR.fin b y).toRat)

/-- Exact product. An infinity times a zero is NaN (R46). -/
def xmul : XR → XR → XR
  | .nan, _ | _, .nan => .nan
  | .inf a, .inf b => .inf (a != b)
  | .inf a, .fin b y => if y = 0 then .nan else .inf (a != b)
  | .fin a x, .inf b => if x = 0 then .nan else .inf (a != b)
  | .fin a x, .fin b y => .fin (a != b) (x * y)

def xsub (x y : XR) : XR := xadd x y.neg

/-- The value times 2^k. -/
def xscale (k : Int) : XR → XR
  | .fin n m => .fin n (m * pow2 k)
  | x => x

/-- x < y for values that are not NaN. -/
def xlt : XR → XR → Bool
  | .nan, _ | _, .nan => false
  | .inf a, .inf b => a && !b
  | .inf a, .fin _ _ => a
  | .fin _ _, .inf b => !b
  | .fin a x, .fin b y => decide ((XR.fin a x).toRat < (XR.fin b y).toRat)

/-- x = y as reals; NaN equals nothing, −0 equals +0. -/
def xeq : XR → XR → Bool
  | .inf a, .inf b => a == b
  | .fin a x, .fin b y => decide ((XR.fin a x).toRat = (XR.fin b y).toRat)
  | _, _ => false

/-! ### Formats (R27, R28) -/

/-- The floating-point element formats of R28. -/
inductive FF where | fp32 | bf16 | fp16 | e5m2 | e4m3 | e2m1
  deriving DecidableEq, Repr

def FF.ebits : FF → Nat
  | .fp32 | .bf16 => 8
  | .fp16 | .e5m2 => 5
  | .e4m3 => 4
  | .e2m1 => 2

def FF.fbits : FF → Nat
  | .fp32 => 23 | .bf16 => 7 | .fp16 => 10 | .e5m2 => 2 | .e4m3 => 3 | .e2m1 => 1

def FF.bias : FF → Int
  | .fp32 | .bf16 => 127
  | .fp16 | .e5m2 => 15
  | .e4m3 => 7
  | .e2m1 => 1

def FF.width (f : FF) : Nat := 1 + f.ebits + f.fbits

/-- Exponent all ones is an infinity or a NaN. -/
def FF.ieee : FF → Bool
  | .fp32 | .bf16 | .fp16 | .e5m2 => true
  | _ => false

/-- Magnitude bits of the largest finite value. -/
def FF.maxMag : FF → Nat
  | .e4m3 => 0x7E
  | .e2m1 => 0x7
  | f => (2 ^ f.ebits - 1) * 2 ^ f.fbits - 1

/-- R29: the canonical NaN. E2M1 has none; R31 never asks for it. -/
def FF.nanBits : FF → Nat
  | .fp32 => 0x7FC00000 | .bf16 => 0x7FC0 | .fp16 => 0x7E00 | .e5m2 => 0x7E | .e4m3 => 0x7F | .e2m1 => 0

/-- R28: Decode. -/
def decodeF (f : FF) (x : Nat) : XR :=
  let m := f.fbits
  let neg := bit x (f.width - 1)
  let e := fld x m f.ebits
  let fr := fld x 0 m
  if f.ieee && e == 2 ^ f.ebits - 1 then (if fr = 0 then .inf neg else .nan)
  else if f = .e4m3 ∧ fld x 0 7 = 0x7F then .nan
  else if e = 0 then .fin neg ((fr : Rat) * pow2 (1 - f.bias - m))
  else .fin neg (((2 ^ m + fr : Nat) : Rat) * pow2 ((e : Int) - f.bias - m))

/-- R37: the rounding mode; a stochastic rounding carries the 16 bits it drew. -/
inductive RMode where
  | rne | rtz | rup | rdn
  | rsr (u : Nat)
  deriving DecidableEq, Repr

/-- Whether a magnitude between n and n + 1 units rounds up: `rem / b` is its fraction f (R38). -/
def roundUp (mode : RMode) (neg : Bool) (n rem b : Nat) : Bool :=
  match mode with
  | .rne => decide (b < 2 * rem) || (decide (2 * rem = b) && n % 2 == 1)
  | .rtz => false
  | .rup => decide (0 < rem) && !neg
  | .rdn => decide (0 < rem) && neg
  | .rsr u => decide (2 ^ 16 ≤ rem * 2 ^ 16 / b + u)

/-- Puts the sign bit above magnitude bits. -/
def FF.signed (f : FF) (neg : Bool) (mag : Nat) : Nat := b2n neg * 2 ^ (f.width - 1) + mag

/-- R38: InfOf. -/
def FF.infBits (f : FF) (neg : Bool) : Nat :=
  if f = .e4m3 then 0x7F else f.signed neg (f.maxMag + 1)

/-- R39: Overflow of a floating-point format. -/
def FF.overflow (f : FF) (mode : RMode) (neg : Bool) : Nat :=
  let toInf := match mode with
    | .rne | .rsr _ => true
    | .rtz => false
    | .rup => !neg
    | .rdn => neg
  if f.ieee && toInf then f.infBits neg else f.signed neg f.maxMag

/-- R38: Round to a floating-point format. -/
def roundF (f : FF) (mode : RMode) : XR → Nat
  | .nan => f.nanBits
  | .inf n => f.infBits n
  | .fin neg x =>
    if x = 0 then f.signed neg 0
    else
      let emin : Int := 1 - f.bias
      let e := let l := ilog2 x; if l < emin then emin else l
      let (a, b) := scaled x (f.fbits - e)
      let n := a / b
      let n' := if roundUp mode neg n (a % b) b then n + 1 else n
      let mag := n' + (e - emin).toNat * 2 ^ f.fbits
      if f.maxMag < mag then f.overflow mode neg else f.signed neg mag

/-- R38: RoundNE. -/
def roundNE (f : FF) (x : XR) : Nat := roundF f .rne x

/-- R38: Round to an integer, then the bounds of the format (R32, R39). NaN gives 0. -/
def roundI (lo hi : Int) (mode : RMode) : XR → Int
  | .nan => 0
  | .inf n => if n then lo else hi
  | .fin neg x =>
    let n := x.num.natAbs / x.den
    let n' := if roundUp mode neg n (x.num.natAbs % x.den) x.den then n + 1 else n
    let v : Int := if neg then -(n' : Int) else n'
    imin hi (imax lo v)

/-- R32: SatS. -/
def satS (x : Int) (n : Nat) : Int := imin (2 ^ (n - 1) - 1) (imax (-2 ^ (n - 1)) x)

/-! ### Format codes (R27) -/

/-- The format codes as numbers. -/
abbrev FmtCode := Nat

/-- R27: codes 0x12 to 0x1F are reserved. -/
def fmtKnown (c : Nat) : Bool := decide (c ≤ 0x11)

/-- The floating-point element format of a code, where it has one (R30: the MX formats hold E2M1 and E4M3 elements). -/
def fmtFF : Nat → Option FF
  | 0x01 => some .fp32 | 0x02 => some .bf16 | 0x03 => some .fp16 | 0x04 => some .e4m3 | 0x05 => some .e5m2
  | 0x06 => some .e2m1 | 0x07 => some .e4m3
  | _ => none

/-- R27: element bits; 0 where the format gives none. -/
def fmtBits : Nat → Nat
  | 0x01 | 0x08 => 32
  | 0x02 | 0x03 | 0x09 => 16
  | 0x04 | 0x05 | 0x07 | 0x0A | 0x0C | 0x11 => 8
  | 0x06 | 0x0B | 0x0D | 0x0F => 4
  | 0x0E => 3
  | _ => 0

/-- R32: the range an integer format is read with. -/
def intRange : Nat → Option (Int × Int)
  | 0x08 => some (-2 ^ 31, 2 ^ 31 - 1)
  | 0x09 => some (-32768, 32767)
  | 0x0A => some (-128, 127)
  | 0x0B => some (-8, 7)
  | 0x11 => some (0, 255)
  | _ => none

/-- R32: the range a conversion produces. -/
def intProduced : Nat → Option (Int × Int)
  | 0x0A => some (-127, 127)
  | 0x0B => some (-7, 7)
  | c => intRange c

/-- The integer an element of an integer format stands for, or of the q field of QI8 and QI4 (R32, R33). -/
def intValue (c x : Nat) : Int :=
  match c with
  | 0x11 => (fld x 0 8 : Int)
  | 0x08 => sx x 32
  | 0x09 => sx x 16
  | 0x0A | 0x0C => sx x 8
  | _ => sx x 4

/-- The value of an element of a floating-point or integer format, without scales. -/
def elemValue (c x : Nat) : XR :=
  match fmtFF c with
  | some f => decodeF f x
  | none => xint (intValue c x)

/-- Round to an element of a floating-point or integer format (R38, R40). -/
def roundTo (c : Nat) (mode : RMode) (x : XR) : Nat :=
  match fmtFF c with
  | some f => roundF f mode x
  | none =>
    match intProduced c with
    | some (lo, hi) => (tr (fmtBits c) (roundI lo hi mode x)).toNat
    | none => 0

/-- R43: the formats whose subnormals VFTZ flushes. -/
def flushes (c : Nat) : Bool := c == 1 || c == 2 || c == 3

/-- R43: the source flush of one value of format `c`. -/
def flushIn (ftz : Bool) (c x : Nat) : XR :=
  match fmtFF c with
  | some f =>
    let v := decodeF f x
    if ftz && flushes c && fld x f.fbits f.ebits == 0 then .fin v.sign 0 else v
  | none => xint (intValue c x)

/-- R43: the result flush of an encoding of format `c`. -/
def flushOut (ftz : Bool) (c x : Nat) : Nat :=
  match fmtFF c with
  | some f => if ftz && flushes c && fld x f.fbits f.ebits == 0 then f.signed (bit x (f.width - 1)) 0 else x
  | none => x

/-! ### E8M0 scales and block quantisation (R30, R31) -/

/-- R30: the factor of a scale byte. -/
def e8m0 (c : Nat) : XR := if c = 0xFF then .nan else .fin false (pow2 ((c : Int) - 127))

/-- The largest magnitude of a list of finite values. -/
def maxAbs : List XR → Rat
  | [] => 0
  | x :: xs => let m := maxAbs xs; match x with | .fin _ a => if m < a then a else m | _ => m

/-- R31: the scale code of a block and the power of two its elements are multiplied by before rounding. `none`: an infinity or
a NaN is present. -/
def mxScale (mx : Nat) (xs : List XR) : Option (Nat × Int) :=
  if xs.any (fun x => match x with | .fin _ _ => false | _ => true) then none
  else
    let m := maxAbs xs
    if m = 0 then some (0x7F, 0)
    else
      let s := ilog2 m - (if mx = 6 then 2 else 8)
      if s < -127 then some (0, 127) else some ((s + 127).toNat, -s)

/-- R31: a block quantised to MXE2M1 (6) or MXE4M3 (7): the scale code and the element encodings. `modes` gives each element's
rounding mode. -/
def mxQuant (mx : Nat) (modes : List RMode) (xs : List XR) : Nat × List Nat :=
  match mxScale mx xs with
  | none => (0xFF, xs.map fun _ => 0)
  | some (c, k) => (c, (xs.zip modes).map fun (x, m) => roundTo mx m (xscale k x))

/-- R33: the group size of a group-size code. -/
def groupOf : Nat → Option Nat
  | 0 => some 32 | 1 => some 64 | 2 => some 128
  | _ => none

/-- R33: the scale of a group word, and its zero point for QI8 (0x0C) or QI4. -/
def qiScale (w : Nat) : XR := decodeF .fp16 (fld w 0 16)
def qiZero (c w : Nat) : Int := if c = 0x0C then sx (fld w 16 8) 8 else sx (fld w 16 4) 4

/-- R33: the exact value an element of a QI8 or QI4 group stands for; a zero is +0. DESIGN CHOICE: log entry 90. -/
def qiValue (c w x : Nat) : XR :=
  match qiScale w with
  | .fin n s => xr false ((XR.fin n s).toRat * ((intValue c x - qiZero c w : Int) : Rat))
  | _ => .nan

/-! ### The stochastic generator (R41) -/

/-- R41: LfsrNext. -/
def lfsrNext (st : Word32) : Word32 :=
  if st.getLsbD 0 then (st >>> 1) ^^^ 0x80200003 else st >>> 1

/-- R41: `n` draws: the 16 bits each gives, and the state after them. -/
def lfsrDraws : Nat → Word32 → List Nat × Word32
  | 0, st => ([], st)
  | n + 1, st =>
    let st' := lfsrNext st
    let (us, e) := lfsrDraws n st'
    ((st'.toNat % 2 ^ 16) :: us, e)

/-! ### Matrix step sums (R46 to R48) -/

/-- The largest floor(log2 |p|) over the nonzero finite terms. -/
def maxExp : List XR → Option Int
  | [] => none
  | .fin _ m :: ps =>
    if m = 0 then maxExp ps
    else match maxExp ps with
      | none => some (ilog2 m)
      | some e => some (imax (ilog2 m) e)
  | _ :: ps => maxExp ps

/-- The terms truncated toward zero to units of 2^(E − 48) and summed. -/
def gridSum (e : Int) : List XR → Int
  | [] => 0
  | .fin n m :: ps =>
    let (a, b) := scaled m (48 - e)
    let t : Int := (a / b : Nat)
    (if n then -t else t) + gridSum e ps
  | _ :: ps => gridSum e ps

/-- R46: StepSum. -/
def stepSum (ps : List XR) : XR :=
  if ps.any XR.isNan then .nan
  else
    let pi := ps.contains (.inf false)
    let ni := ps.contains (.inf true)
    if pi && ni then .nan
    else if pi then .inf false
    else if ni then .inf true
    else match maxExp ps with
      | none => .fin false 0
      | some e => xr false ((gridSum e ps : Rat) * pow2 (e - 48))

/-- R46: the update of one FP32 accumulator element. -/
def accumF (a : Nat) (s : XR) : Nat := roundNE .fp32 (xadd (decodeF .fp32 a) s)

/-- R47: the update of one INT32 accumulator element. -/
def accumI (a : Nat) (s : Int) : Nat := (tr 32 (satS (sx a 32 + s) 32)).toNat

end Sys2Proof.Machine
end

