-- ==== Sys2Proof/Machine/Ops.lean ====
section
/-! DEFINITION. The named operations over the state: registers, operands, results in flight, clk and turns, causes, the four
actions of a trap, trap entry and the return from one. Every meaning is written over these. -/

namespace Sys2Proof.Machine

/-! ### Changing one part of the current core -/

def State.modSca (s : State) (f : Sca → Sca) : State := { s with core := { s.core with sca := f s.core.sca } }
def State.modVec (s : State) (f : Vec → Vec) : State := { s with core := { s.core with vec := f s.core.vec } }
def State.modTab (s : State) (f : Tab → Tab) : State := { s with core := { s.core with tab := f s.core.tab } }
def State.modLsu (s : State) (f : Lsu → Lsu) : State := { s with core := { s.core with lsu := f s.core.lsu } }
def State.modEng (s : State) (f : Eng → Eng) : State := { s with core := { s.core with eng := f s.core.eng } }
def State.modTrp (s : State) (f : Trp → Trp) : State := { s with core := { s.core with trp := f s.core.trp } }
def State.modUn (s : State) (f : UnitSt → UnitSt) : State := { s with core := { s.core with un := f s.core.un } }
def State.modPkg (s : State) (f : Pkg → Pkg) : State := { s with pkg := f s.pkg }
def State.modMgmt (s : State) (f : Mgmt → Mgmt) : State := s.modPkg fun p => { p with mgmt := f p.mgmt }

/-- The clk. -/
abbrev State.clk (s : State) : Nat := s.pkg.clk

/-- R346: adds `n` to performance counter `k` of the current core. -/
def State.perf (s : State) (k n : Nat) : State :=
  s.modUn fun u => { u with perf := fset 0 u.perf k (fget 0 u.perf k + BitVec.ofNat 64 n) }

/-- Takes the next value of the counter of free choices (the model's own field). DESIGN CHOICE: log entry 7. -/
def State.takeFree (s : State) : Nat × State := (s.pkg.free, s.modPkg fun p => { p with free := p.free + 1 })

/-! ### g registers, latches, held operands (R58 to R61) -/

/-- A g register as it stands; g0 reads zero (R84). -/
def Core.greg (c : Core) (n : Nat) : Double := if n = 0 then 0 else fget 0 c.sca.g n

/-- Writes a g register; a write to g0 is discarded (R84). -/
def State.setGreg (s : State) (n : Nat) (v : Double) : State :=
  if n = 0 then s else s.modSca fun c => { c with g := fset 0 c.g n v }

/-- R58: a latch b0 to b7. -/
def Core.latch (c : Core) (n : Nat) : Double := fget 0 c.sca.b n

/-- R61: the number of the held-operand register of a slot's input. -/
def heldIdx (sl : SSlot) (inB : Bool) : Nat := (match sl with | .s0 => 0 | .s1 => 2) + b2n inB

def Core.heldReg (c : Core) (k : Nat) : Double := fget 0 c.sca.held k

def State.setHeld (s : State) (k : Nat) (v : Double) : State :=
  s.modSca fun c => { c with held := fset 0 c.held k v }

/-- R71: the value of a source field; `sl` and `inB` name the input whose held register value 62 reads. -/
def Core.src (c : Core) (sl : SSlot) (inB : Bool) (f : BitVec 6) : Double :=
  let n := f.toNat
  if n < 32 then c.greg n else if n < 40 then c.latch (n - 32) else c.heldReg (heldIdx sl inB)

/-- R55: GuardOf. -/
def guardOf (h : Head) (c : Core) : Bool :=
  h.greg == 0 || ((c.greg h.greg.toNat).getLsbD h.gpos.toNat != h.gneg)

/-- R105 kind 1: a squashable operation in a delay bundle of a taken branch. -/
def killed (h : Head) (c : Core) : Bool := h.sq && (c.sca.br1.isSome || c.sca.br2.isSome)

/-! ### Causes (R329, R334) -/

/-- The cause numbers of R329. -/
inductive Cause where
  | intdiv0 | align | xlate | xfetch | memue | cmpload | tabclass | tabinv | switchto | reach | tileop | xform | assay
  | cpyfail | collfail | nomethod | badcard | dblres | cellbusy | selfdep | specout | unbound | lostrun | submit | tlvl
  | saveend | swtrap | dbgbrk | step | notrap | depth
  deriving DecidableEq, Repr

def Cause.no : Cause → Nat
  | .intdiv0 => 1 | .align => 2 | .xlate => 3 | .xfetch => 4 | .memue => 5 | .cmpload => 6 | .tabclass => 7 | .tabinv => 8
  | .switchto => 9 | .reach => 10 | .tileop => 11 | .xform => 12 | .assay => 13 | .cpyfail => 14 | .collfail => 15
  | .nomethod => 16 | .badcard => 17 | .dblres => 18 | .cellbusy => 19 | .selfdep => 20 | .specout => 21 | .unbound => 22
  | .lostrun => 23 | .submit => 24 | .tlvl => 25 | .saveend => 26 | .swtrap => 27 | .dbgbrk => 28 | .step => 29
  | .notrap => 30 | .depth => 31

/-- A precise cause of a slot: number, slot, reason and TSTAT. DEDUCED: log entry 20. -/
def slotCause (c : Cause) (slot reason tstat : Nat) : CauseInfo :=
  { cause := c.no, slot, gmask := 0, reason, tl := 0, eng := 0, tlnum := 0, tstat }

/-- A precise cause of a translation (R120, R127). -/
def xerrCause (e : XErr) (slot a : Nat) : CauseInfo :=
  match e with
  | .xlate r => slotCause .xlate slot r a
  | .memue => slotCause .memue slot 0 a
  | .cmpload => slotCause .cmpload slot 0 a

/-- R334: the cause word. -/
def causeWord (i : CauseInfo) : Double :=
  BitVec.ofNat 64 (i.cause % 64 + (i.slot % 16) * 2 ^ 6 + (i.gmask % 256) * 2 ^ 10 + (i.reason % 256) * 2 ^ 18 +
    (i.tl % 8) * 2 ^ 26 + (i.eng % 8) * 2 ^ 29 + (i.tlnum % 2 ^ 32) * 2 ^ 32)

/-- What an operation of a bundle does at issue: the state goes on, or the bundle faults precisely (R64). -/
inductive Res where
  | ok (s : State)
  | trap (c : CauseInfo)
  deriving DecidableEq, Repr

/-- Continues with what an operation left. -/
def Res.bind (r : Res) (f : State → Res) : Res :=
  match r with
  | .ok s => f s
  | .trap c => .trap c

/-! ### Results in flight (R71, R85) -/

/-- R183: the writes of the array that land in one clk are performed by group, the lowest first; nothing else that lands then reads or writes it. -/
def Effect.rank : Effect → Nat
  | .array g .. | .tag g .. => g
  | _ => 8

/-- Inserts a result before the first that lands after it. -/
def insPending (x : Pending) : List Pending → List Pending
  | [] => [x]
  | y :: ys =>
    if x.due < y.due ∨ (x.due = y.due ∧ (x.eff.rank < y.eff.rank ∨ (x.eff.rank = y.eff.rank ∧ x.ord < y.ord))) then x :: y :: ys
    else y :: insPending x ys

/-- Puts a result in flight that lands `n` clk from now. Its operation takes the next issue number. -/
def State.putEff (s : State) (sq : Bool) (n : Nat) (e : Effect) : State :=
  s.modSca fun c =>
    { c with inflight := insPending { due := s.clk + n, ord := c.seq, iss := c.seq, sq, tbun := c.pc, eff := e } c.inflight,
             seq := c.seq + 1 }

/-- R71: Land of a scalar result. -/
def State.land (s : State) (sl : SSlot) (h : Head) (dst : BitVec 5) (wbs : Bool) (v : Double) (n : Nat) : State :=
  s.putEff h.sq n (.reg sl wbs dst v)

/-- R59: offers a landed result to a latch chain. Of several since the last issue, the one issued latest enters. -/
def offer (old : Option (Nat × Double)) (iss : Nat) (v : Double) : Option (Nat × Double) :=
  match old with
  | some (i, w) => if i ≤ iss then some (iss, v) else some (i, w)
  | none => some (iss, v)

def State.offerLatch (s : State) (sl : SSlot) (iss : Nat) (v : Double) : State :=
  s.modSca fun c => match sl with
    | .s0 => { c with land0 := offer c.land0 iss v }
    | .s1 => { c with land1 := offer c.land1 iss v }

/-- R59: the shift of both chains at a bundle's issue. -/
def Sca.shiftLatches (c : Sca) : Sca :=
  let v (o : Option (Nat × Double)) : Double := match o with | some (_, w) => w | none => 0
  let b (n : Nat) : Double := fget 0 c.b n
  { c with b := fput 0 [] 0 [v c.land0, b 0, b 1, b 2, v c.land1, b 4, b 5, b 6], land0 := none, land1 := none }

/-- R60: a group switch clears all eight latches. -/
def Sca.clearLatches (c : Sca) : Sca := { c with b := [], land0 := none, land1 := none }

/-! ### The assay's bookkeeping (R211, R217, R219) -/

/-- R219: one mismatch or MCHK failure of group `g`. -/
def countMismatch (st : Double) (g : Nat) : Double :=
  let mis := fld st.toNat 0 32
  let once := st.getLsbD (32 + g)
  let st := putFld st 0 32 (if mis = 2 ^ 32 - 1 then mis else mis + 1)
  if once then putFld st (40 + g) 1 1 else putFld st (32 + g) 1 1

/-- Removes the first listing of a physical failure. -/
def removeFirst (x : Nat × Nat) : List (Nat × Nat) → List (Nat × Nat)
  | [] => []
  | y :: ys => if x = y then ys else y :: removeFirst x ys

/-! ### What a landing result writes (R71, R159) -/

/-- R206 and R46: an accumulator after a floating step lands. -/
def stepAccF (a : AccBits) (z : Bool) (rows cols : Nat) (sums : List XR) : AccBits :=
  let elem (m n : Nat) : Nat :=
    let old := fld a.toNat (32 * (32 * m + n)) 32
    if m < rows ∧ n < cols then accumF (if z then 0 else old) (sums.getD (m * cols + n) (.fin false 0))
    else if z then 0 else old
  BitVec.ofNat 32768 (((List.range 1024).map fun i => elem (i / 32) (i % 32)).foldr (fun v acc => v + 2 ^ 32 * acc) 0)

/-- R206 and R47: an accumulator after an integer step lands. -/
def stepAccI (a : AccBits) (z : Bool) (rows cols : Nat) (sums : List Int) : AccBits :=
  let elem (m n : Nat) : Nat :=
    let old := fld a.toNat (32 * (32 * m + n)) 32
    if m < rows ∧ n < cols then accumI (if z then 0 else old) (sums.getD (m * cols + n) 0)
    else if z then 0 else old
  BitVec.ofNat 32768 (((List.range 1024).map fun i => elem (i / 32) (i % 32)).foldr (fun v acc => v + 2 ^ 32 * acc) 0)

/-- Bits under a mask replaced. -/
def maskIn {w : Nat} (old mask v : BitVec w) : BitVec w := (old &&& ~~~mask) ||| (v &&& mask)

/-- The core-array bytes a landing entry writes, in physical memory. -/
def State.writeOwn (s : State) (off : Nat) (bs : List Byte) : State :=
  s.modPkg fun p => writeBytes p (arrayBase s.no + off) bs

/-- R211: whether an MCHK of group `g` fails. -/
def State.mchkResult (s : State) (g : Nat) : Bool × State :=
  (s.pkg.env.mchkFail.contains (s.no, g),
   s.modPkg fun p => { p with env := { p.env with mchkFail := removeFirst (s.no, g) p.env.mchkFail } })

/-- R71, R159, R182, R184: the write of a landed result. `iss` is the issue number of its operation. What a table entry writes to the array is no write
that R326 names: no bound of a speculative evaluation is tested. DESIGN CHOICE: log entry 119. -/
def applyEff (iss : Nat) (e : Effect) (s : State) : State :=
  match e with
  | .reg sl wbs dst v =>
    let s := if wbs then s else s.setGreg dst.toNat v
    s.offerLatch sl iss v
  | .base r v => s.setGreg r.toNat v
  | .lcSet n v => s.modSca fun c => { c with lc := fset 0 c.lc n (v.setWidth 64 ||| (v.setWidth 64 <<< 32)) }
  | .spr _ _ => s
  | .held sl b v => s.setHeld (heldIdx sl b) v
  | .desc g t mask v => s.modVec fun x => { x with descs := fset 0 x.descs (32 * g + t) (maskIn (fget 0 x.descs (32 * g + t)) mask v) }
  | .tile g t v => s.modVec fun x => { x with tiles := fset 0 x.tiles (32 * g + t) v }
  | .tileSeg g t off len v _ =>
    s.modVec fun x => { x with tiles := fset 0 x.tiles (32 * g + t) (putFld (fget 0 x.tiles (32 * g + t)) (8 * off) (8 * len) v) }
  | .side g t v => s.modVec fun x => { x with sides := fset 0 x.sides (32 * g + t) v }
  | .tileMask g t mask v =>
    s.modVec fun x => { x with tiles := fset 0 x.tiles (32 * g + t) (maskIn (fget 0 x.tiles (32 * g + t)) mask v) }
  | .array _ off bs => s.writeOwn off bs
  | .tag _ off v => s.modPkg fun p => setTag p (arrayBase s.no + off) v
  | .full off n =>
    let s := s.modPkg fun p => setFullN p (arrayBase s.no + off) n true
    s.modLsu fun l => { l with claims := l.claims.filter fun k => !(decide (off / 128 ≤ k) && decide (k < off / 128 + n)) }
  | .ptr g q v => s.modVec fun x => { x with ptrs := fset 0 x.ptrs (8 * g + q) v }
  | .stride g q v => s.modVec fun x => { x with strides := fset 0 x.strides (8 * g + q) v }
  | .psnap g v => s.modVec fun x => { x with psnap := putFld x.psnap (8 * g) 8 v.toNat }
  | .asstat g res =>
    let (fails, s) := match res with | some f => (f, s) | none => s.mchkResult g
    s.modVec fun x =>
      let st := putFld x.asstat (48 + g) 1 1
      let st := putFld st (56 + g) 1 (b2n fails)
      { x with asstat := if fails then countMismatch st g else st }
  | .kreg n v => s.modVec fun x => { x with kregs := fset 0 x.kregs n v }
  | .kword n j v => s.modVec fun x => { x with kregs := fset 0 x.kregs n (putFld (fget 0 x.kregs n) (32 * j) 32 v.toNat) }
  | .stepF g a z rows cols sums _ held =>
    if held then s
    else s.modVec fun x => { x with acc := fset 0 x.acc (4 * g + a) (stepAccF (fget 0 x.acc (4 * g + a)) z rows cols sums) }
  | .stepI g a z rows cols sums _ held =>
    if held then s
    else s.modVec fun x => { x with acc := fset 0 x.acc (4 * g + a) (stepAccI (fget 0 x.acc (4 * g + a)) z rows cols sums) }
  | .azero g a => s.modVec fun x => { x with acc := fset 0 x.acc (4 * g + a) 0 }

/-- R181, R184: what the discard of a result in flight ends: the claim of a TSTQ. -/
def dropEff (e : Effect) (s : State) : State :=
  match e with
  | .full off n =>
    s.modLsu fun l => { l with claims := l.claims.filter fun k => !(decide (off / 128 ≤ k) && decide (k < off / 128 + n)) }
  | _ => s

/-- Discards results. -/
def dropAll : List Pending → State → State
  | [], s => s
  | x :: xs, s => dropAll xs (dropEff x.eff s)

/-- The landing records that wait for a re-entry (R339). -/
def Trp.reRecs (t : Trp) : List Pending := match t.reentry with | some r => r.recs | none => []

/-- Every result of a core that has not landed: those in flight, those captured at a trap entry, a park or a pre-emption, those that wait for a
re-entry, and those of a stop for the assay (R338, R339, R218). -/
def Core.landings (c : Core) : List Pending :=
  c.sca.inflight ++ c.trp.bank1.recs ++ c.trp.bank2.recs ++ c.trp.bank0recs ++ c.trp.reRecs ++ c.trp.assayRecs

/-- R105 kind 2: at clk K the squashable results that have not landed and issued at the branch or earlier are discarded.
`lim` is the issue count when the branch's bundle ended. An access of the context a handler interrupted is not the handler's to kill (R338).
A token of FENCE or QALIGN that is still in its queue goes too; the acquire of an access goes with the access alone (R126). DESIGN CHOICE:
log entry 97. -/
def State.killLate (s : State) (lim : Nat) : State :=
  let dead (x : Pending) : Bool := x.sq && decide (x.iss < lim)
  let s := dropAll (s.core.sca.inflight.filter dead) s
  let s := s.modSca fun c => { c with inflight := c.inflight.filter fun x => !dead x }
  let gone (e : QEntry) : Bool := match s.core.lsu.rinvHeld with | some (id, _) => e.id == id | none => false
  let queued := s.core.lsu.loadQ ++ s.core.lsu.storeQ
  let with' (e : QEntry) : Bool := match e.op with | .acqTok _ (some k) => queued.any fun x => x.id == k | _ => true
  let deadQ (e : QEntry) : Bool := e.sq && decide (e.id < lim) && e.bank.isNone && !gone e && with' e
  let s := s.modEng fun g => { g with armed := g.armed.map fun a => if a.sq && decide (a.id < lim) && a.bank.isNone then { a with dead := true } else a }
  s.modLsu fun l =>
    { l with loadQ := l.loadQ.filter fun e => !deadQ e, storeQ := l.storeQ.filter fun e => !deadQ e,
             outst := l.outst.map fun e => if deadQ e then { e with dead := true } else e }

/-! ### Clk and turns -/

/-- A core that holds a unit. -/
def Core.occupied (c : Core) : Bool := decide (c.un.st ≠ .idle)

/-- A core that has a turn in each clk: it holds a unit, its carve-out moves, or it adapts it (R135). -/
def Core.busy (c : Core) : Bool := c.occupied || c.lsu.move.isSome || c.lsu.adapt

/-- A unit of time in which a GTS count, and a clk at every frequency of R371, is a whole number: a count is the least common multiple
of 32 to 68, and a clk at 25·k MHz is the k-th part of 40 counts. -/
def gtsUnit : Nat := 79211881234889091923261227200

/-- R2, R22: a clk passes, and the GTS counts at 1 GHz beside an arithmetic clock of `mhz`. Where GTS_SYNC has counted in this clk, the
counter moves by one at most, so that no two readings a clk apart differ by more than 2 (R370). One counter serves all dies, which therefore never differ. DEDUCED: log entry 54. DESIGN CHOICE: log entry 95. -/
def tickGts (p : Pkg) : Pkg :=
  let f := p.gtsFrac + 40 * gtsUnit / (p.mgmt.mhz / 25)
  let n := if p.gtsSteered then min 1 (f / gtsUnit) else f / gtsUnit
  { p with clk := p.clk + 1, gts := p.gts + n, gtsFrac := f - n * gtsUnit, gtsSteered := false }

/-- Makes core `n` the current one. -/
def State.switchTo (s : State) (n : Nat) : State :=
  if n = s.no then s
  else { s with core := fget .reset s.others n, no := n,
                others := fset .reset (ferase s.others n) s.no s.core }

/-- The first busy core whose number is above `k`, among the others. DEDUCED: log entry 2. -/
def nextBusy (others : FMap Core) (k : Nat) : Option Nat :=
  match others.find? (fun e => decide (k < e.1) && e.2.busy) with
  | some (n, _) => some n
  | none => none

/-- The current core's turn in this clk ends: the next busy core has its turn, and after the last the clk advances. -/
def State.endTurn (s : State) : State :=
  match nextBusy s.others s.no with
  | some n => s.switchTo n
  | none =>
    let s := s.modPkg tickGts
    match s.others.find? (fun e => e.2.busy) with
    | some (n, _) => if s.core.busy ∧ s.no < n then s else s.switchTo n
    | none => s

/-! ### Reports and the error log -/

/-- R404: an entry of four doubles. -/
def logDoubles (d0 d1 d2 d3 : Nat) : BitVec 256 :=
  BitVec.ofNat 256 (d0 % 2 ^ 64 + (d1 % 2 ^ 64) * 2 ^ 64 + (d2 % 2 ^ 64) * 2 ^ 128 + (d3 % 2 ^ 64) * 2 ^ 192)

/-- The number of entries of a log. -/
def logSize (l : List (List (BitVec 256))) : Nat := (l.map List.length).sum

/-- R376, R404: the log keeps the newest 4,096 entries, and drops or keeps a kill report whole. DEDUCED: log entry 53. -/
def trimLog : List (List (BitVec 256)) → List (List (BitVec 256))
  | [] => []
  | g :: gs => if 4096 < logSize (g :: gs) then trimLog gs else g :: gs

/-- R404: the GTS and the SOURCE of entries that stand together. -/
def entryKey (es : List (BitVec 256)) : Nat × Nat :=
  match es with
  | e :: _ => (fld e.toNat 0 64, fld e.toNat 64 11)
  | [] => (0, 0)

/-- Puts entries at the end of a log, the newest standing first: behind those of the same GTS with a higher source number (R22). -/
def insLog (es : List (BitVec 256)) : List (List (BitVec 256)) → List (List (BitVec 256))
  | [] => [es]
  | g :: gs =>
    if (entryKey g).1 = (entryKey es).1 ∧ (entryKey es).2 < (entryKey g).2 then g :: insLog es gs else es :: g :: gs

/-- Writes entries that stand together, and signals vector 20. Entries of one GTS stand by source number (R22). -/
def State.logGroup (s : State) (es : List (BitVec 256)) : State :=
  s.modMgmt fun m => { m with log := trimLog (insLog es m.log.reverse).reverse, msix := m.msix ++ [20] }

/-- Word `i` of a record (R301). -/
def recWord (r : Rec) (i : Nat) : Nat := fld r.toNat (32 * i) 32

/-- R404: double 1 of an entry. -/
def logD1 (phjob lslot type level source : Nat) : Nat :=
  phjob * 2 ^ 32 + (lslot % 2 ^ 16) * 2 ^ 16 + type * 2 ^ 13 + level * 2 ^ 11 + source

/-- R404: double 1 for the unit of the current core. -/
def State.unitD1 (s : State) (type level : Nat) : Nat :=
  logD1 (recWord s.core.un.recd 3) (recWord s.core.un.recd 0) type level s.no

/-- R353: every MEMUE is also entered in the error log. -/
def State.logMemue (s : State) (i : CauseInfo) : State :=
  if i.cause = Cause.memue.no then
    s.logGroup [logDoubles s.pkg.gts (s.unitD1 0 0) (causeWord i).toNat i.tstat]
  else s

/-- R337: a cause joins the core's queue of reports; the answer says whether it had fewer than 16 entries. -/
def State.reportAs (s : State) (deferred : Bool) (info : CauseInfo) (tbun ord cmd : Nat) : State × Bool :=
  if 16 ≤ s.core.trp.reports.length then (s, false)
  else
    ((s.logMemue info).modTrp fun t => { t with reports := t.reports ++ [{ info, tbun, gts := s.pkg.gts, ord, deferred, cmd }] }, true)

/-- An E cause, or a D cause of a slot or of the system. -/
def State.report (s : State) (info : CauseInfo) (tbun ord cmd : Nat) : State × Bool :=
  s.reportAs (info.eng == 0 || info.eng == 7) info tbun ord cmd

/-- R337: a cause reported where nothing can wait for the answer: a report that finds the queue full is held until there is room. -/
def State.reportOrHold (s : State) (info : CauseInfo) (tbun ord : Nat) : State :=
  let (s', ok) := s.report info tbun ord 0
  if ok then s'
  else (s.logMemue info).modTrp fun t => { t with heldReports := t.heldReports ++ [{ info, tbun, gts := s.pkg.gts, ord, deferred := false, cmd := 0 }] }

/-- That of the array. -/
def State.reportHeld (s : State) (info : CauseInfo) (tbun : Nat) : State := s.reportOrHold info tbun 0

/-- R337: the queue has room again: the oldest report held is accepted. -/
def Trp.acceptHeld (t : Trp) : Trp :=
  match t.heldReports with
  | r :: rest => if t.reports.length < 16 then { t with reports := t.reports ++ [r], heldReports := rest } else t
  | [] => t

/-! ### The action table (R330, R331) -/

/-- The four actions. -/
inductive Act where | kill | replay | park | forward
  deriving DecidableEq, Repr

def actOfCode : Nat → Act
  | 0 => .kill | 1 => .replay | 2 => .park | _ => .forward

/-- An action entry in effect: the action, the replays allowed, what follows them, and the handler. -/
structure ActEntry where
  act : Act
  rcount : Nat
  after : Act
  handler : Nat
  deriving DecidableEq, Repr

/-- R329: the default actions. -/
def defaultAct (cause : Nat) : ActEntry :=
  if cause = 13 then { act := .replay, rcount := 3, after := .kill, handler := 0 }
  else if cause = 3 ∨ cause = 5 ∨ cause = 9 ∨ cause = 22 ∨ cause = 26 ∨ cause = 28 ∨ cause = 29 then
    { act := .park, rcount := 0, after := .kill, handler := 0 }
  else { act := .kill, rcount := 0, after := .kill, handler := 0 }

/-- R329: causes whose action is fixed. -/
def fixedAct (cause : Nat) : Bool := cause == 22 || cause == 24 || cause == 25 || cause == 29

/-- R330: an entry of the action table; a reserved field that is not zero makes it unusable. AFTER = 1 is read as 0. -/
def readActEntry (w : Nat) : Option ActEntry :=
  if fld w 56 2 ≠ 0 ∨ fld w 2 3 ≠ 0 then none
  else
    let aft := fld w 58 2
    some { act := actOfCode (fld w 0 2), rcount := fld w 60 4, after := actOfCode (if aft = 1 then 0 else aft),
           handler := fld w 5 51 * 32 }

/-- R330: the address of a cause's entry. -/
def State.actVa (s : State) (cause : Nat) : Nat := fld s.core.trp.acttab.toNat 9 47 * 512 + 8 * cause

/-- R330, R369: where the entry in effect for a cause would be read and cannot be: its memory is not reached. -/
def State.actLost (s : State) (cause : Nat) : Option Nat :=
  if fixedAct cause ∨ !bit s.core.trp.acttab.toNat 0 then none
  else match translate s s.root .load 8 (s.actVa cause) with
    | .error _ => none
    | .ok x => if peerLost s.pkg x.pa then some x.pa else none

/-- R330: the entry in effect for a cause on the current core; the default one where its memory has not been reached. -/
def State.actFor (s : State) (cause : Nat) : ActEntry :=
  let tab := s.core.trp.acttab.toNat
  if fixedAct cause ∨ !bit tab 0 then defaultAct cause
  else
    let a := s.actVa cause
    match translate s s.root .load 8 a with
    | .error _ => defaultAct cause
    | .ok x =>
      if peerLost s.pkg x.pa || badData s.pkg x.pa 8 then defaultAct cause
      else (readActEntry (readNat s.pkg x.pa 8)).getD (defaultAct cause)

/-- R331: what is done once `n` replays have been made. -/
def ActEntry.now (e : ActEntry) (n : Nat) : Act :=
  match e.act with
  | .replay => if n < e.rcount then .replay else e.after
  | a => a

/-! ### Taking a cause (R331 to R338) and the return (R339, R342) -/

/-- R212, R217: a step that is in flight at a trap entry is assayed at once. A mismatch is replayed within the action table's
count; where the count is spent, or the action is not replay, the record is captured with its update withheld and ASSAY is
reported. The record of an MCHK holds its result. -/
def assayRecord (x : Pending) (s : State) : Pending × State :=
  let go (g idx : Nat) (hold : Effect) : Pending × State :=
    let hits := (s.pkg.env.mismatch.filter fun m => m = (s.no, g)).length
    if hits = 0 then (x, s)
    else
      let e := s.actFor Cause.assay.no
      let allowed := if e.act = .replay then e.rcount else 0
      let used := if hits ≤ allowed then hits else allowed + 1
      let s := s.modPkg fun p => { p with env := { p.env with
        mismatch := (List.range used).foldl (fun l _ => removeFirst (s.no, g) l) p.env.mismatch } }
      let s := s.modVec fun v => { v with asstat := (List.range used).foldl (fun st _ => countMismatch st g) v.asstat }
      if hits ≤ allowed then (x, s.perf 14 hits)
      else
        let info : CauseInfo := { cause := Cause.assay.no, slot := 2, gmask := 2 ^ g, reason := 0, tl := 0, eng := 6,
                                  tlnum := 0, tstat := idx }
        ({ x with eff := hold }, (s.perf 14 allowed).reportHeld info x.tbun)
  match x.eff with
  | .stepF g a z r c sums idx false => go g idx (.stepF g a z r c sums idx true)
  | .stepI g a z r c sums idx false => go g idx (.stepI g a z r c sums idx true)
  | .asstat g none => let (f, s) := s.mchkResult g; ({ x with eff := .asstat g (some f) }, s)
  | _ => (x, s)

/-- R338: what is in flight becomes landing records; `due` holds the remaining clk. DEDUCED: log entry 48. -/
def captureAll : List Pending → State → List Pending × State
  | [], s => ([], s)
  | x :: xs, s =>
    let (x', s) := assayRecord x s
    let (rs, s) := captureAll xs s
    ({ x' with due := x.due - s.clk } :: rs, s)

/-- R338: results still in flight are captured, with what still waits for a re-entry, and queued accesses will join bank `b` when they
return. -/
def State.capture (s : State) (b : Nat) : List Pending × State :=
  let (recs, s) := captureAll s.core.sca.inflight s
  let recs := s.core.trp.reRecs ++ recs
  let s := (s.modSca fun c => { c with inflight := [] }).modTrp fun t => { t with reentry := none }
  let mark (e : QEntry) : QEntry := if e.bank.isNone then { e with bank := some b } else e
  let arm (a : Armed) : Armed := if a.bank.isNone then { a with bank := some b } else a
  (recs, (s.modLsu fun l => { l with loadQ := l.loadQ.map mark, storeQ := l.storeQ.map mark, outst := l.outst.map mark }).modEng fun g =>
    { g with armed := g.armed.map arm })

/-- R160, R338: what is left of the wait before the next entry execution. -/
def State.xremainder (s : State) : Nat :=
  match s.core.trp.reentry with
  | some r => r.rem
  | none => s.core.tab.xnext - s.clk

/-- Inserts a record by the order its operation issued in. -/
def insIssue (x : Pending) : List Pending → List Pending
  | [] => [x]
  | y :: ys => if x.iss < y.iss then x :: y :: ys else y :: insIssue x ys

/-- R339: records re-injected with T = `t`, in the order their operations issued. They land after results issued by the handler that land in
the same clk, those of one accumulator too, though writes of the array land by group (R183). DESIGN CHOICE: log entry 113. -/
def State.reinject (s : State) (t : Nat) (recs : List Pending) : State :=
  let recs := recs.foldl (fun l x => insIssue x l) []
  s.modSca fun c =>
    { c with inflight := ((recs.zip (List.range recs.length)).map fun (x, i) => { x with due := t + x.due, ord := c.seq + i }).foldl
               (fun l x => insPending x l) c.inflight,
             seq := c.seq + recs.length }

/-- R339: TEPC's bundle has its turn in this clk: records with r = 0 land, and the others are re-injected. -/
def State.reland (r : Reentry) (s : State) : State :=
  let now := (r.recs.filter fun x => x.due == 0).foldl (fun l x => insIssue x l) []
  (now.foldl (fun s x => applyEff x.iss x.eff s) (s.modTrp fun t => { t with reentry := none })).reinject s.clk
    (r.recs.filter fun x => x.due != 0)

/-- R339: what waits for a re-entry returns, and XNEXT is set. `issue`: TEPC's bundle issues in this clk; else its waits are judged, with XNEXT
as it would be had it issued at the first clk it could. -/
def State.reenter (issue : Bool) (s : State) : State :=
  match s.core.trp.reentry with
  | none => s
  | some r => (s.reland r).modTab fun x => { x with xnext := (if issue then s.clk else r.start) + r.rem }

def Trp.bank (t : Trp) (l : Nat) : TrapBank := if l = 1 then t.bank1 else t.bank2
def Trp.setBank (t : Trp) (l : Nat) (b : TrapBank) : Trp := if l = 1 then { t with bank1 := b } else { t with bank2 := b }

/-- R306: a suspension that is not finished is kept while a handler runs or the context is parked. -/
def State.pauseLeave (s : State) : State :=
  match s.core.un.st with
  | .leaving how => s.modTrp fun t => { t with resumeLeave := some how }
  | _ => s

/-- R306: and goes on at level 0. -/
def State.continueLeave (s : State) : State :=
  match s.core.trp.resumeLeave with
  | some how =>
    if s.core.trp.level = 0 then (s.modTrp fun t => { t with resumeLeave := none }).modUn fun u => { u with st := .leaving how } else s
  | none => s

/-- R333: forward. The core enters the next trap level before the bundle at pc: the cause is recorded, results in flight,
the pending redirect, the XNEXT remainder and the held operands are banked, the latches are cleared, and fetch goes to the
handler. DESIGN CHOICE: log entry 18. -/
def State.enterTrap (s : State) (info : CauseInfo) (tbun handler : Nat) : State :=
  let s := s.pauseLeave
  let s := s.modUn fun u => { u with st := .running }
  let l := s.core.trp.level + 1
  let rem := s.xremainder
  let (recs, s) := s.capture l
  let c := s.core.sca
  let old := s.core.trp.bank l
  let bank : TrapBank :=
    { tcause := causeWord info, tepc := BitVec.ofNat 64 c.pc, tstat := BitVec.ofNat 64 info.tstat, tsave := old.tsave,
      tbun := BitVec.ofNat 64 tbun, held := c.held, br1 := c.br1, br2 := c.br2, xrem := rem, recs,
      cellStall := c.cellStall }
  let s := s.modTrp fun t => { t.setBank l bank with level := l }
  let s := s.modTab fun t => { t with xnext := 0 }
  let s := s.modSca fun c => { c.clearLatches with pc := handler, held := [], br1 := none, br2 := none, cellStall := none, hold := 0, hwinHeld := false, flushHeld := false }
  s.perf 12 1

/-- R342: the effects of TRET at the end of its bundle at level `l`: the held operands and the pending redirect of bank l − 1
are restored, the level falls, and TEPC's bundle is due 8 clk after TRET's issue. The records and the XNEXT remainder wait for the clk T at
which it issues (R339); a cell load that it waited for and that is still to come holds it as before (R321). DESIGN CHOICE: log entry 17. -/
def State.returnFromTrap (s : State) : State :=
  let l := s.core.trp.level
  let b := s.core.trp.bank l
  let t := s.clk + 8
  let waits : Option Nat := b.cellStall.bind fun k => if (s.core.lsu.loadQ ++ s.core.lsu.outst).any fun e => e.id == k then some k else none
  let s := s.modSca fun c =>
    { c with held := b.held, br1 := b.br1, br2 := b.br2, pc := va56 b.tepc.toNat / 32 * 32, hold := t, taken := none, cellStall := waits }
  let s := s.modTrp fun x => { x.setBank l { b with held := [], br1 := none, br2 := none, xrem := 0, recs := [], cellStall := none } with level := l - 1, reentry := some { recs := b.recs, rem := b.xrem, start := t } }
  let s := s.modTab fun x => { x with xnext := 0 }
  let un (e : QEntry) : QEntry := if e.bank = some l then { e with bank := none } else e
  let arm (a : Armed) : Armed := if a.bank = some l then { a with bank := none } else a
  ((s.modLsu fun q => { q with loadQ := q.loadQ.map un, storeQ := q.storeQ.map un, outst := q.outst.map un }).modEng fun g =>
    { g with armed := g.armed.map arm }).continueLeave

/-- The chain entry of the cell wait a core is making, else 0. -/
def Core.waitRef (c : Core) : Nat :=
  let ref (l : Leave) : Nat := match l with | .cellWait _ r => r | _ => 0
  match c.un.st with
  | .leaving how => (match c.trp.resumeLeave with | some l => max (ref how) (ref l) | none => ref how)
  | _ => (match c.trp.resumeLeave with | some l => ref l | none => 0)

def State.modJob (s : State) (job : Nat) (f : Job → Job) : State :=
  s.modPkg fun p => match fget none p.jobs job with
    | some x => { p with jobs := fset none p.jobs job (some (f x)) }
    | none => p

/-- R348: CTXPOOL's number of areas. -/
def poolCount (c : Double) : Nat := fld c.toNat 0 16

/-- R348: the first free area of the unit's job. -/
def State.freeArea (s : State) : Option Nat :=
  match fget none s.pkg.jobs s.core.un.job with
  | some j => (List.range (poolCount s.core.trp.ctxpool)).find? fun i => !j.areas.contains i
  | none => none

/-- R348: an area is allocated to a pre-emption or a park that has none yet, where one is free. -/
def State.takeArea (s : State) : State :=
  match s.core.un.area, s.freeArea with
  | none, some a => (s.modJob s.core.un.job fun j => { j with areas := j.areas ++ [a] }).modUn fun u => { u with area := some a }
  | _, _ => s

/-- R331: a unit that is killed gives its area back. -/
def State.dropArea (s : State) : State :=
  match s.core.un.area with
  | some a => (s.modJob s.core.un.job fun j => { j with areas := j.areas.filter fun k => k ≠ a }).modUn fun u => { u with area := none }
  | none => s

/-- R331: the unit leaves its core by a kill: no further bundle issues, every result still in flight is discarded, and so are
reports not taken; a command that has failed ends as failed. -/
def State.startKill (s : State) (info : CauseInfo) (tbun : Nat) : State :=
  let s := dropAll s.core.landings s.dropArea
  let tepc := s.core.sca.pc
  let ref := s.core.waitRef
  let s := s.modSca fun c => { c with inflight := [], cellStall := none }
  let kill (e : QEntry) : QEntry := { e with dead := true }
  let s := s.modLsu fun l => { l with loadQ := l.loadQ.map kill, storeQ := l.storeQ.map kill, outst := l.outst.map kill }
  let s := s.modEng fun e => { e with cmds := e.cmds.map fun c =>
    if c.st = .failed ∨ c.st = .reported then { c with st := .ended } else c }
  let s := s.modTrp fun t => { t with reports := [], heldReports := [], assay := none, assayRecs := [], reentry := none, resumeLeave := none, raised := none }
  s.modUn fun u => { u with st := .leaving (.killed info tepc tbun ref) }

/-- R338, R348: what is in flight at a park or a pre-emption becomes landing records, with the XNEXT remainder; an area is allocated. -/
def State.freeze (s : State) (how : Leave) : State :=
  let rem := s.xremainder
  let (recs, s) := s.pauseLeave.capture 0
  ((s.modTrp fun t => { t with bank0recs := t.bank0recs ++ recs, parkRem := rem }).modUn fun u => { u with st := .leaving how }).takeArea

/-- R331: the unit leaves its core by a park; an E or D cause is consumed by it. -/
def State.startPark (s : State) (info : CauseInfo) (tbun : Nat) : State := s.freeze (.park info tbun)

/-- R331, R336: action `act` for a cause taken before the bundle at pc. A P cause that is replayed issues its bundle again;
the replay count is kept per context. -/
def State.applyAct (s : State) (act : Act) (handler : Nat) (info : CauseInfo) (tbun : Nat) : State :=
  match act with
  | .replay => (s.modTrp fun t => { t with replays := t.replays + 1 }).perf 14 1
  | .kill => s.startKill info tbun
  | .park => s.startPark info tbun
  | .forward =>
    if s.core.trp.level < 2 then s.enterTrap info tbun handler
    else s.startKill { info with cause := Cause.tlvl.no, tstat := info.cause } tbun

/-- R331: the action for a cause: an engine has made its replays itself, so AFTER follows where it reported the cause (R354 says the same of ASSAY). -/
def State.takeFor (s : State) (reported : Bool) (info : CauseInfo) (tbun : Nat) : State :=
  let e := s.actFor info.cause
  s.applyAct (if reported then (if e.act = .replay then e.after else e.act) else e.now s.core.trp.replays) e.handler info tbun

/-- R330, R369: a cause is taken once its action entry can be read. DEDUCED: log entry 137. -/
def State.raise (s : State) (reported : Bool) (info : CauseInfo) (tbun : Nat) : State :=
  match s.actLost info.cause with
  | some _ => s.modTrp fun t => { t with raised := some { info, tbun, reported, since := s.clk } }
  | none => s.takeFor reported info tbun

/-- R369: the read of an action entry of a peer that has not been reached for 2^26 clk is given up; its MEMUE is logged. -/
def State.logAct (s : State) (cause : Nat) : State :=
  s.logMemue { cause := Cause.memue.no, slot := 15, gmask := 0, reason := 0, tl := 0, eng := 7, tlnum := 0, tstat := s.actVa cause }

/-- The turn of a core that waits for an action entry: of a peer's it waits 2^26 clk, of the host's until a port is up. -/
def State.raiseAgain (s : State) (r : Raised) : Option State :=
  let go (s : State) : State := (s.modTrp fun t => { t with raised := none }).takeFor r.reported r.info r.tbun
  match s.actLost r.info.cause with
  | none => some (go s)
  | some pa => if isPeer pa ∧ r.since + 2 ^ 26 ≤ s.clk then some (go (s.logAct r.info.cause)) else none

/-- The action for a cause of the bundle at pc, or a deferred one. -/
def State.takeCause (s : State) (info : CauseInfo) (tbun : Nat) : State := s.raise false info tbun

/-- R331: the action for a cause an engine reported. A deferred cause of a slot or of the system is taken as any other. -/
def State.takeReported (s : State) (deferred : Bool) (info : CauseInfo) (tbun : Nat) : State := s.raise (!deferred) info tbun

/-- R369: since when memory at `a` that the next step of the current core needs has not been reached. Where a peer has not been for 2^26 clk `fail` follows;
until then the core waits, and for a host window until a port is up. DESIGN CHOICE: log entry 57. -/
def State.waitFar (s : State) (a : Nat) (peer : Bool) (fail : State → State) : State :=
  let since := match s.core.un.lost.find? fun x => x.1 = a with | some x => x.2 | none => s.clk
  if peer ∧ since + 2 ^ 26 ≤ s.clk then fail s
  else s.modUn fun u => { u with lost := (a, since) :: u.lost.filter fun x => x.1 ≠ a }

/-- What follows once the entry for a cause can be read, or is given up, outside a bundle's turn. -/
def State.awaitAct (s : State) (cause : Nat) (k : State → State) : State :=
  match s.actLost cause with
  | none => k (s.modUn fun u => { u with lost := [] })
  | some pa => s.waitFar (s.actVa cause) (isPeer pa) fun s => k ((s.modUn fun u => { u with lost := [] }).logAct cause)

/-- R337: the report taken first: the lowest GTS, ties to the lower timeline counter, the dispatcher last. DEDUCED: log entry 19. -/
def firstReport : List Report → Option Report
  | [] => none
  | r :: rs =>
    match firstReport rs with
    | none => some r
    | some q => if q.gts < r.gts ∨ (q.gts = r.gts ∧ q.ord < r.ord) then some q else some r

/-- Removes a report. -/
def removeReport (r : Report) : List Report → List Report
  | [] => []
  | q :: qs => if q = r then qs else q :: removeReport r qs

end Sys2Proof.Machine
end

