-- ==== Sys2Proof/Machine/Operands.lean ====
section
/-! DEFINITION. Operands: the registers an operation names (R125), and how an operation reads its sources, stores held operands
and is silenced by its guard or by a kill (R55, R61, R99, R105). -/

namespace Sys2Proof.Machine

/-- The g register a source field names, if it names one other than g0. -/
def srcReg (f : BitVec 6) : List Nat := if 0 < f.toNat ∧ f.toNat < 32 then [f.toNat] else []

/-- A destination, if it is written. -/
def dstReg (d : BitVec 5) : List Nat := if d = 0 then [] else [d.toNat]

/-- R125: the g registers named by the body of an operation: its sources, its destination, and the destination that SEL, BFI
and ACAS read. -/
def instrBodyRegs : Instr → List Nat
  | .nop _ _ => []
  | .addW _ _ o => dstReg o.dst ++ srcReg o.srcA ++ srcReg o.srcB
  | .addD _ _ o => dstReg o.dst ++ srcReg o.srcA ++ srcReg o.srcB
  | .subW _ _ o => dstReg o.dst ++ srcReg o.srcA ++ srcReg o.srcB
  | .subD _ _ o => dstReg o.dst ++ srcReg o.srcA ++ srcReg o.srcB
  | .mulW _ _ o => dstReg o.dst ++ srcReg o.srcA ++ srcReg o.srcB
  | .mulD _ _ o => dstReg o.dst ++ srcReg o.srcA ++ srcReg o.srcB
  | .mulhW _ _ o => dstReg o.dst ++ srcReg o.srcA ++ srcReg o.srcB
  | .mulhD _ _ o => dstReg o.dst ++ srcReg o.srcA ++ srcReg o.srcB
  | .mulhuW _ _ o => dstReg o.dst ++ srcReg o.srcA ++ srcReg o.srcB
  | .mulhuD _ _ o => dstReg o.dst ++ srcReg o.srcA ++ srcReg o.srcB
  | .divW _ _ o => dstReg o.dst ++ srcReg o.srcA ++ srcReg o.srcB
  | .divD _ _ o => dstReg o.dst ++ srcReg o.srcA ++ srcReg o.srcB
  | .divuW _ _ o => dstReg o.dst ++ srcReg o.srcA ++ srcReg o.srcB
  | .divuD _ _ o => dstReg o.dst ++ srcReg o.srcA ++ srcReg o.srcB
  | .remW _ _ o => dstReg o.dst ++ srcReg o.srcA ++ srcReg o.srcB
  | .remD _ _ o => dstReg o.dst ++ srcReg o.srcA ++ srcReg o.srcB
  | .remuW _ _ o => dstReg o.dst ++ srcReg o.srcA ++ srcReg o.srcB
  | .remuD _ _ o => dstReg o.dst ++ srcReg o.srcA ++ srcReg o.srcB
  | .addiW _ _ o => dstReg o.dst ++ srcReg o.srcA
  | .addiD _ _ o => dstReg o.dst ++ srcReg o.srcA
  | .and _ _ o => dstReg o.dst ++ srcReg o.srcA ++ srcReg o.srcB
  | .or _ _ o => dstReg o.dst ++ srcReg o.srcA ++ srcReg o.srcB
  | .xor _ _ o => dstReg o.dst ++ srcReg o.srcA ++ srcReg o.srcB
  | .andn _ _ o => dstReg o.dst ++ srcReg o.srcA ++ srcReg o.srcB
  | .shl _ _ o => dstReg o.dst ++ srcReg o.srcA ++ srcReg o.srcB
  | .shr _ _ o => dstReg o.dst ++ srcReg o.srcA ++ srcReg o.srcB
  | .sar _ _ o => dstReg o.dst ++ srcReg o.srcA ++ srcReg o.srcB
  | .rotl _ _ o => dstReg o.dst ++ srcReg o.srcA ++ srcReg o.srcB
  | .clz _ _ o => dstReg o.dst ++ srcReg o.srcA
  | .ctz _ _ o => dstReg o.dst ++ srcReg o.srcA
  | .popc _ _ o => dstReg o.dst ++ srcReg o.srcA
  | .min _ _ o => dstReg o.dst ++ srcReg o.srcA ++ srcReg o.srcB
  | .max _ _ o => dstReg o.dst ++ srcReg o.srcA ++ srcReg o.srcB
  | .minu _ _ o => dstReg o.dst ++ srcReg o.srcA ++ srcReg o.srcB
  | .maxu _ _ o => dstReg o.dst ++ srcReg o.srcA ++ srcReg o.srcB
  | .seq _ _ o => dstReg o.dst ++ srcReg o.srcA ++ srcReg o.srcB
  | .sne _ _ o => dstReg o.dst ++ srcReg o.srcA ++ srcReg o.srcB
  | .slt _ _ o => dstReg o.dst ++ srcReg o.srcA ++ srcReg o.srcB
  | .sltu _ _ o => dstReg o.dst ++ srcReg o.srcA ++ srcReg o.srcB
  | .sle _ _ o => dstReg o.dst ++ srcReg o.srcA ++ srcReg o.srcB
  | .sleu _ _ o => dstReg o.dst ++ srcReg o.srcA ++ srcReg o.srcB
  | .sel _ _ o => dstReg o.dst ++ srcReg o.srcA ++ srcReg o.srcB
  | .andi _ _ o => dstReg o.dst ++ srcReg o.srcA
  | .ori _ _ o => dstReg o.dst ++ srcReg o.srcA
  | .xori _ _ o => dstReg o.dst ++ srcReg o.srcA
  | .shli _ _ o => dstReg o.dst ++ srcReg o.srcA
  | .shri _ _ o => dstReg o.dst ++ srcReg o.srcA
  | .sari _ _ o => dstReg o.dst ++ srcReg o.srcA
  | .movw _ _ o => dstReg o.dst ++ srcReg o.srcA
  | .limm _ o => dstReg o.dst
  | .bfx _ _ o => dstReg o.dst ++ srcReg o.srcA
  | .bfxu _ _ o => dstReg o.dst ++ srcReg o.srcA
  | .bfi _ _ o => dstReg o.dst ++ srcReg o.srcA
  | .bset _ _ o => dstReg o.dst ++ srcReg o.srcA
  | .bclr _ _ o => dstReg o.dst ++ srcReg o.srcA
  | .btst _ _ o => dstReg o.dst ++ srcReg o.srcA
  | .addp _ _ o => dstReg o.dst ++ srcReg o.srcA ++ srcReg o.srcB
  | .br _ _ => []
  | .brl _ dst _ _ => dstReg dst
  | .bri _ a _ => srcReg a
  | .ret _ a => srcReg a
  | .loop _ _ _ => []
  | .loopSet _ _ a => srcReg a
  | .sloop _ _ xg _ _ => dstReg xg
  | .spset _ _ a => srcReg a
  | .ldb _ o => dstReg o.dst ++ srcReg o.srcA
  | .ldbu _ o => dstReg o.dst ++ srcReg o.srcA
  | .ldh _ o => dstReg o.dst ++ srcReg o.srcA
  | .ldhu _ o => dstReg o.dst ++ srcReg o.srcA
  | .ldw _ o => dstReg o.dst ++ srcReg o.srcA
  | .ldwu _ o => dstReg o.dst ++ srcReg o.srcA
  | .ldd _ o => dstReg o.dst ++ srcReg o.srcA
  | .stb _ o => srcReg o.srcB ++ srcReg o.srcA
  | .sth _ o => srcReg o.srcB ++ srcReg o.srcA
  | .stw _ o => srcReg o.srcB ++ srcReg o.srcA
  | .std _ o => srcReg o.srcB ++ srcReg o.srcA
  | .rinv _ a b => srcReg a ++ srcReg b
  | .aadd _ o => dstReg o.dst ++ srcReg o.srcA ++ srcReg o.srcB
  | .amin _ o => dstReg o.dst ++ srcReg o.srcA ++ srcReg o.srcB
  | .aminu _ o => dstReg o.dst ++ srcReg o.srcA ++ srcReg o.srcB
  | .amax _ o => dstReg o.dst ++ srcReg o.srcA ++ srcReg o.srcB
  | .amaxu _ o => dstReg o.dst ++ srcReg o.srcA ++ srcReg o.srcB
  | .aand _ o => dstReg o.dst ++ srcReg o.srcA ++ srcReg o.srcB
  | .aor _ o => dstReg o.dst ++ srcReg o.srcA ++ srcReg o.srcB
  | .axor _ o => dstReg o.dst ++ srcReg o.srcA ++ srcReg o.srcB
  | .aswap _ o => dstReg o.dst ++ srcReg o.srcA ++ srcReg o.srcB
  | .acas _ o => dstReg o.dst ++ srcReg o.srcA ++ srcReg o.srcB
  | .phase _ a => srcReg a
  | .carve _ a => srcReg a
  | .fence _ _ _ => []
  | .qalign _ => []
  | .tlwait _ _ a => srcReg a
  | .tlread _ dst _ _ => dstReg dst
  | .tswap _ a => srcReg a
  | .tstatr _ _ dst _ _ => dstReg dst
  | .tdset _ _ _ a _ => srcReg a
  | .pcnt _ _ dst _ a => dstReg dst ++ srcReg a
  | .pwait _ a b => srcReg a ++ srcReg b
  | .tagget _ dst _ a => dstReg dst ++ srcReg a
  | .tagset _ a b => srcReg a ++ srcReg b
  | .dispatch _ dst _ a => dstReg dst ++ srcReg a
  | .mlook _ dst _ a => dstReg dst ++ srcReg a
  | .cellmk _ a b => srcReg a ++ srcReg b
  | .cellmkFut _ a => srcReg a
  | .resolve _ a b => srcReg a ++ srcReg b
  | .resolveOn _ a b _ => srcReg a ++ srcReg b
  | .freg _ dst _ a b => dstReg dst ++ srcReg a ++ srcReg b
  | .spawn _ a b => srcReg a ++ srcReg b
  | .suspend _ a _ => srcReg a
  | .finish _ a => srcReg a
  | .launch _ dst _ a => dstReg dst ++ srcReg a
  | .chunk _ dst _ => dstReg dst
  | .cntrd _ dst _ a _ => dstReg dst ++ srcReg a
  | .cancel _ a _ => srcReg a
  | .specev _ a b => srcReg a ++ srcReg b
  | .trap _ _ => []
  | .dbgbrk _ _ => []
  | .tret _ => []
  | .mfs _ _ dst _ _ => dstReg dst
  | .mts _ _ _ a => srcReg a
  | .time _ _ dst _ _ => dstReg dst
  | .perfrd _ _ dst _ _ => dstReg dst
  | .xex _ _ _ => []
  | .xpnd _ o => srcReg o.a
  | .xpndi _ o => srcReg o.a
  | .xpos _ _ _ _ _ => []
  | .xcvtw _ _ => []
  | .kld _ _ a _ _ => srcReg a
  | .kset _ _ a _ _ => srcReg a
  | .kmov _ _ _ => []
  | .cpy _ a b _ => srcReg a ++ srcReg b
  | .cpyg _ a b _ => srcReg a ++ srcReg b
  | .cpys _ a b _ => srcReg a ++ srcReg b
  | .cpyt _ a b _ => srcReg a ++ srcReg b
  | .cpyx _ a b _ => srcReg a ++ srcReg b
  | .cpyz _ a b _ => srcReg a ++ srcReg b
  | .cpyw _ a b _ _ _ => srcReg a ++ srcReg b
  | .cfill _ a b _ => srcReg a ++ srcReg b
  | .strm _ a _ _ _ => srcReg a
  | .strmx _ a _ => srcReg a
  | .syncw _ a b _ _ => srcReg a ++ srcReg b
  | .hsub _ a b _ _ => srcReg a ++ srcReg b
  | .hrel _ _ => []
  | .cbfill _ a _ _ => srcReg a
  | .qpush _ a b _ _ _ => srcReg a ++ srcReg b
  | .tfill _ a b _ => srcReg a ++ srcReg b
  | .coll _ a _ _ => srcReg a
  | .pcancel _ a => srcReg a
  | .bundleIssue => []
  | .resultLand => []
  | .assayReplay => []
  | .tlbWalk => []
  | .queueDispatch _ => []
  | .accessPerformed _ => []
  | .writeAcknowledgement => []
  | .cellOperation _ => []
  | .resolveOnFire _ => []
  | .trapTake => []
  | .preemptionDue => []
  | .preemption => []
  | .contextSave => []
  | .contextRestore => []
  | .depth => []
  | .unitPickup => []
  | .queuePromotion _ _ => []
  | .chunkGrant _ => []
  | .levelCompletion _ _ => []
  | .dispatchDecision _ => []
  | .copyBeatTransfer _ => []
  | .progressEntryPush _ => []
  | .commandEnd _ => []
  | .feWait _ => []
  | .qFull _ => []
  | .qpushDelivery _ => []
  | .syncwWrite _ => []
  | .prefetchFill _ _ => []
  | .hoistTileIn _ => []
  | .hoistTileOut _ => []
  | .tfillIndexWrite => []
  | .cbfillSlotWrite => []
  | .setComplete _ => []
  | .shiftChangeRelease => []
  | .switchWithdrawal => []
  | .collRendezvous _ => []
  | .noPeer _ => []
  | .collTransfer _ => []
  | .precisionCounterUpdate _ _ => []
  | .cancelArrival _ => []
  | .carveMoveEnd => []
  | .adaptiveIntervalEnd => []
  | .hostWrite _ _ _ => []
  | .hostRead _ _ _ => []
  | .ingressFlush => []
  | .hostPortDown _ => []
  | .sqtailWrite _ _ => []
  | .sqcfgWrite _ _ => []
  | .sqheadWrite _ _ => []
  | .cqheadWrite _ _ => []
  | .registerWrite _ _ => []
  | .cardFetch _ => []
  | .submit _ => []
  | .completionEvent _ => []
  | .peerAccess _ _ => []
  | .peerUnreachable _ => []
  | .gtsSync _ => []
  | .linkPortChange _ _ => []
  | .powerOnReset => []
  | .clockChange _ => []
  | .thermalTrip => []
  | .heartbeatMiss _ => []
  | .dieLoss _ => []
  | .stackRowSpare _ _ => []
  | .pseudoChannelSpare _ _ => []
  | .laneRetrain _ => []
  | .info => []
  | .jobnew => []
  | .jobend => []
  | .map => []
  | .unmap => []
  | .load => []
  | .unload => []
  | .resume => []
  | .kill => []
  | .debug => []
  | .cap => []
  | .ckpt => []
  | .restore => []
  | .attest => []
  | .patch => []
  | .logrd => []
  | .dieoff => []
  | .linkcfg => []
  | .reset => []
  | .badcmd => []

/-- R125: every g register an operation names, its guard register among them. -/
def instrRegs (i : Instr) : List Nat :=
  (match i.head? with | some h => dstReg h.greg | none => []) ++ instrBodyRegs i

/-- R61: stores the operand read at an input whose hold bit is 1. A false guard stores nothing; a kill at issue does not
prevent it (R105). -/
def holdRead (sl : SSlot) (h : Head) (inB hold : Bool) (f : BitVec 6) (p s : State) : State :=
  if hold && guardOf h p.core then s.setHeld (heldIdx sl inB) (p.core.src sl inB f) else s

/-- R57, R61: both inputs of the register form. -/
def regHolds (o : RegOps) (sl : SSlot) (h : Head) (p s : State) : State :=
  holdRead sl h true o.hldB o.srcB p (holdRead sl h false o.hldA o.srcA p s)

/-- R99, R105: an operation whose guard is false, or that is killed at issue, does nothing. `p` is the state its bundle reads,
`s` the state the slots before it have left. -/
def guarded (h : Head) (p s : State) (f : State → Res) : Res :=
  if guardOf h p.core && !killed h p.core then f s else .ok s

/-- R88: the low 32 bits of a result, sign-extended. -/
def sext32 (v : BitVec 32) : Double := v.signExtend 64

/-- R57: a sign-extended immediate. -/
def imm64 {w : Nat} (v : BitVec w) : Double := v.signExtend 64

/-- R92, R97, R129: the destination register as it stands at issue. -/
def dstValue (p : State) (dst : BitVec 5) : Double := p.core.greg dst.toNat

end Sys2Proof.Machine
end

