-- ==== Sys2Proof/Machine/Bundle.lean ====
section
/-! DEFINITION. The issue of one bundle: boundary causes, waits, the latch shift, the slots in the order of R64, and what
happens at the bundle's end. What each operation does and waits for is an argument, so that a bundle of one operation and a
fetched bundle are issued by the same definition. -/

namespace Sys2Proof.Machine

/-- What an operation makes its bundle wait for, tested at every clk. -/
inductive Wait where
  | go
  /-- The bundle stalls; the numbers are the performance counters of R346 that count the clk, beside counter 3. -/
  | stall (counters : List Nat)
  /-- A check made while the bundle waits fails (R158). -/
  | trap (c : CauseInfo)
  deriving DecidableEq, Repr

/-- An operation's meaning inside a bundle: what it does at issue (`p` is the state the bundle reads, `s` what the slots before
it have left), and what its bundle waits for. -/
structure SlotSem where
  op : State → State → Res
  wait : State → Wait

/-- R105, R55: an operation that does nothing waits for nothing. -/
def activeWait (h : Head) (p : State) (w : Wait) : Wait := if guardOf h p.core && !killed h p.core then w else .go

def noWait (_ : State) : Wait := .go

/-! ### Host writes to the array (R148) -/

/-- R148: applies the first `n` buffered host writes. -/
def applyIngress : Nat → State → State
  | 0, s => s
  | n + 1, s =>
    match s.core.lsu.ingress with
    | [] => s
    | i :: rest =>
      applyIngress n ((s.modPkg fun p => writeBytes p i.pa i.bytes).modLsu fun l =>
        { l with ingress := rest, ingressFull := if 64 ≤ rest.length then some s.clk else none })

/-- The value of a load whose bytes an HWIN bundle has changed since it issued: of each byte that still holds what was applied, the one before. -/
def beforeBytes (n m was now : Nat) : Nat :=
  leNat ((List.range n).map fun i => BitVec.ofNat 8 (if fld m (8 * i) 8 = fld now (8 * i) 8 then fld was (8 * i) 8 else fld m (8 * i) 8))

/-- R148: a load of core `no`'s own array that issued before the bundle that applies writes never sees them; `p` and `t` are the package before
and after. A cell load is one of a VALUE cell's bytes. A byte that another write has brought to the value applied counts as the host's.
DESIGN CHOICE: log entry 98. -/
def beforeHwin (no : Nat) (p t : Pkg) (e : QEntry) : QEntry :=
  let keep (pa size : Nat) (was : Nat) (bad signed cell dev : Bool) (va : Nat) : QEntry :=
    let now := readNat t pa size
    if was = now ∧ bad = badData t pa size then e else { e with op := .loadBefore va pa size signed cell dev bad was now }
  let mine (pa : Nat) : Bool := match regionOf pa with | .array n _ => n == no | _ => false
  match e.op with
  | .load va pa size signed cell dev _ =>
    if mine pa ∧ (!cell || cellAt p pa == .value) then keep pa size (readNat p pa size) (badData p pa size) signed cell dev va else e
  | .pcnt pa => keep pa 8 (readNat p pa 8) (badData p pa 8) false false false (localBase + (pa - arrayBase no))
  | .loadBefore va pa size signed cell dev bad was now =>
    if !cell || cellAt p pa == .value then keep pa size (beforeBytes size (readNat p pa size) was now) bad signed cell dev va else e
  | _ => e

/-- R148: the bundle applies the first `n` buffered writes. -/
def State.applyHwin (s : State) (n : Nat) : State :=
  let t := applyIngress n s
  t.modLsu fun l => { l with loadQ := l.loadQ.map (beforeHwin s.no s.pkg t.pkg), outst := l.outst.map (beforeHwin s.no s.pkg t.pkg) }

/-- R148: whether the buffer has been full for 2^20 clk, so that INGRESS_FLUSH is due. -/
def flushDue (s : State) : Bool :=
  match s.core.lsu.ingressFull with
  | some t => decide (t + 2 ^ 20 ≤ s.clk)
  | none => false

/-- R148: whether the bundle applies buffered writes. -/
def applies (b : Bundle) (_ : State) : Bool := b.hwin

/-! ### Waits every bundle has -/

/-- The tokens, which take none of the 64 entries. -/
def QOp.isToken : QOp → Bool
  | .acqTok _ _ | .relTok _ | .arTok _ _ | .alignTok _ => true
  | _ => false

/-- R125: the entries of a queue. DEDUCED: log entry 10. -/
def qCount (q : List QEntry) : Nat := (q.filter fun e => !e.op.isToken).length

/-- R125: a queued access whose destination is pending. -/
def QEntry.pends (e : QEntry) : Bool := e.res && !e.wbs && e.dst != 0 && !e.dead && e.bank.isNone

/-- R125: the pending registers. -/
def Core.pendingRegs (c : Core) : List Nat :=
  ((c.lsu.loadQ ++ c.lsu.storeQ ++ c.lsu.outst).filter QEntry.pends).map fun e => e.dst.toNat

/-- The operations of a bundle, in the order of R64. -/
def bundleOps (b : Bundle) : List Instr := [b.s0, b.s1, b.x, b.c, b.e].filterMap id

/-- The operations whose rules say that a false guard does not stall, or that nothing is waited for: loads, RINV, stores and atomics (R126), TLWAIT and
TLREAD (R147), PCNT and PWAIT (R277, R278), the tag accesses (R289), MLOOK (R294) and the E operations (R221). -/
def isAccess (i : Instr) : Bool :=
  match i.major? with
  | some m => (decide (0x20 ≤ m) && decide (m ≤ 0x2C)) || (decide (0x30 ≤ m) && decide (m ≤ 0x39)) || (decide (0x78 ≤ m) && decide (m ≤ 0x7B)) ||
      [0x3E, 0x3F, 0x44, 0x45, 0x48, 0x49, 0x4B, 0xF8, 0xF9, 0xFA].contains m
  | none => false

/-- R125, R126: the registers by which an operation makes its bundle wait: those it names; of a memory operation that does not act,
its guard alone. DEDUCED: log entry 9. -/
def waitRegs (i : Instr) (c : Core) : List Nat :=
  match i.head? with
  | some h => if isAccess i && !(guardOf h c && !killed h c) then dstReg h.greg else instrRegs i
  | none => instrRegs i

/-- R125: whether the bundle names a pending register. DEDUCED: log entry 9. -/
def namesPending (b : Bundle) (c : Core) : Bool :=
  (bundleOps b).any fun i => (waitRegs i c).any fun r => c.pendingRegs.contains r

/-- The counters of the stalls among the waits. -/
def waitStalls (ws : List Wait) : List (List Nat) := ws.filterMap fun w => match w with | .stall k => some k | _ => none

/-- The first failing check among the waits. -/
def waitTrap : List Wait → Option CauseInfo
  | [] => none
  | .trap c :: _ => some c
  | _ :: ws => waitTrap ws

/-- The waits of the operations, joined. Where nothing stalls the bundle issues, and its faults are found there in the order of
R64; a check that fails while the bundle stalls ends the stall (R158). -/
def joinWaits (ws : List Wait) : Wait :=
  match waitStalls ws with
  | [] => .go
  | ks => match waitTrap ws with | some c => .trap c | none => .stall ks.flatten

/-- The number under which a wait names CBSTALL (R224), beside the counters of R346. -/
def cbStallNo : Nat := 16

/-- The numbers of the stalls of PWAIT (R278) and of a bundle after a cell load (R321), which no counter counts. -/
def pwaitStallNo : Nat := 17
def cellStallNo : Nat := 18

/-- R337: the stalls in which causes may be taken: those of a queue (R113), a timeline (R147), a codebook bank (R224) and PWAIT (R278). -/
def openStall (k : Nat) : Bool := k == 6 || k == 7 || k == cbStallNo || k == pwaitStallNo

/-- The waits every bundle has: a cell load before it (R321), a pending register it names (R125). -/
def baseWaits (b : Bundle) (p : State) : List Wait :=
  [if p.core.sca.cellStall.isSome then .stall [cellStallNo] else .go, if namesPending b p.core then .stall [4] else .go]

/-- The counters of the stalls a codebook bank causes (R224): they are counted in every clk in which a bundle that needs the bank is due. -/
def bankStalls (ws : List Wait) : List Nat := (waitStalls ws).flatten.filter fun k => k == cbStallNo

/-- R210: the state on which an operation's wait is judged: the loop counters that an XEX reads are those after the bundle's LOOP. -/
def waitState (sem : Instr → SlotSem) (b : Bundle) (p : State) (i : Instr) : State :=
  match i, b.s0 with
  | .xex .., some (.loop h lc off) =>
    (match (sem (.loop h lc off)).op p p with
     | .ok t => p.modSca fun c => { c with lc := t.core.sca.lc }
     | .trap _ => p)
  | _, _ => p

/-- What the operations of the bundle wait for. -/
def opWaits (sem : Instr → SlotSem) (b : Bundle) (p : State) : List Wait := (bundleOps b).map fun i => (sem i).wait (waitState sem b p i)

/-- R158: the first failing check of an X step of a bundle that waits for something else. -/
def stepTrap (sem : Instr → SlotSem) (b : Bundle) (p : State) : Option CauseInfo :=
  waitTrap ((bundleOps b).map fun i => match i with | .xex .. => (sem i).wait (waitState sem b p i) | _ => .go)

/-- R166: the core has swapped its table sides and the bundle of its TSWAP has not issued. -/
def Tab.swapped (t : Tab) : Bool := match t.wait with | some w => w.released | none => false

/-- Whether the bundle holds a TSWAP that acts and whose shift change is still to come (R166). -/
def swapAhead (b : Bundle) (q : State) : Bool :=
  !q.core.tab.swapped && (bundleOps b).any (fun i => match i with | .tswap h _ => guardOf h q.core && !killed h q.core | _ => false)

/-- R158: the check of an X step that fails while its bundle waits for a register that is pending (R125), for a cell load (R321) or for the host's
writes (R148). None is made before a shift change. DEDUCED: log entry 99. -/
def earlyTrap (sem : Instr → SlotSem) (b : Bundle) (q : State) : Option CauseInfo :=
  if swapAhead b q then none else stepTrap sem b q

/-- What the bundle waits for. -/
def bundleWait (sem : Instr → SlotSem) (b : Bundle) (p : State) : Wait := joinWaits (baseWaits b p ++ opWaits sem b p)

/-- R125: a queue holds 64 entries; where two operations of one bundle together need more room than is left, it stalls. One alone has made
its own wait for room. -/
def queuesOver (b : Bundle) (p t : State) : Bool :=
  let beyond (x y : List QEntry) : Bool := decide (max 64 (qCount x) < qCount y)
  decide (1 < (bundleOps b).length) && (beyond p.core.lsu.loadQ t.core.lsu.loadQ || beyond p.core.lsu.storeQ t.core.lsu.storeQ)

/-! ### The bundle's beginning and end -/

/-- What precedes the reading of sources: what waited for a re-entry returns (R339), buffered host writes are applied (R148) and the latch
chains shift (R59), or after a shift change read zero (R166). `issue`: the bundle issues; else its waits are judged on this state. DEDUCED: log entry 8. -/
def openBundle (issue : Bool) (b : Bundle) (s : State) : State :=
  let s := s.reenter issue
  let s := if applies b s then s.applyHwin (if 64 ≤ s.core.lsu.ingress.length then 64 else 16) else s
  s.modSca (if s.core.tab.swapped then Sca.clearLatches else Sca.shiftLatches)

/-- The state a bundle that issues reads: where it is the second delay bundle of a taken branch, results that have not landed by this
clk are discarded if they are squashable (R105). DEDUCED: log entry 8. -/
def beginBundle (b : Bundle) (s : State) : State :=
  let s := openBundle true b s
  match s.core.sca.br2 with
  | some (_, lim) => s.killLate lim
  | none => s

/-- The operations in the order of R64. The first fault ends them. -/
def runOps (sem : Instr → SlotSem) : List Instr → State → State → Res
  | [], _, s => .ok s
  | i :: is, p, s => ((sem i).op p s).bind (runOps sem is p)

/-- R343: an MTS takes effect at the end of its bundle; what it writes is given by `wr`. -/
def applyLate (wr : Nat → Double → State → State) : List (Nat × Double) → State → State
  | [], s => s
  | (n, v) :: rest, s => applyLate wr rest (wr n v s)

/-- R111: the rotation of the stage predicates. -/
def rotateSpst (v : BitVec 40) : BitVec 40 :=
  let sp := fld v.toNat 0 8
  let feed := fld v.toNat 8 32
  BitVec.ofNat 40 (sp % 128 * 2 + (if feed = 0 then 0 else 1) + (feed - 1) * 2 ^ 8)

/-- R102: the next fetch address and the taken branches still to redirect. -/
def Sca.advance (c : Sca) : Sca :=
  { c with pc := (match c.br2 with | some (t, _) => t | none => va56 (c.pc + 32)),
           br2 := c.br1, br1 := c.taken.map fun t => (t, c.seq), taken := none }

/-- R305, R306: a bundle that suspends its unit is where the unit stands; a pending redirect is discarded. A TRET that returns to a suspension goes
back to the bundle TEPC names (R342). -/
def stayAt (pc : Nat) (s : State) : State :=
  match s.core.un.st with
  | .leaving _ => s.modSca fun c => { c with pc, br1 := none, br2 := none }
  | _ => s

/-- R75, R353: the bundle after the second delay bundle at `pc` is not executed. Where it has been fetched all the same, an error in it
raises nothing and is entered in the error log. Whether it has been fetched is open. DESIGN CHOICE: log entry 70. -/
def logFetched (pc : Nat) (s : State) : State :=
  let a := va56 (pc + 32)
  match s.core.sca.br2 with
  | none => s
  | some _ =>
    if Config.fetchedAhead s.no s.clk a then
      match fetchPa s a with
      | .ok pa => if badData s.pkg pa 32 then s.logMemue (slotCause .memue 15 0 a) else s
      | .error _ => s
    else s

/-- The end of a bundle that has issued: SPSET (R110), then the rotation (R111), then MTS writes, one to SPST among them, then the redirect (R102) and
TRET (R342). A bundle that issues without a fault ends the replay count (R331), and in single-step mode a bundle at level 0 is
followed by a park (R352). DESIGN CHOICE: log entry 74. -/
def endBundle (wr : Nat → Double → State → State) (b : Bundle) (s : State) : State :=
  let level := s.core.trp.level
  let pc := s.core.sca.pc
  let tret := s.core.sca.tretNow
  let s := s.modSca fun c => { c with spst := c.spNext.getD c.spst, spNext := none }
  let s := if b.srot then s.modSca fun c => { c with spst := rotateSpst c.spst } else s
  let s := applyLate wr s.core.sca.late s
  let s := logFetched pc s
  let s := s.modSca fun c => { c.advance with late := [], hwinHeld := false, flushHeld := false, cellNext := c.advance.pc }
  let s := if s.core.sca.tretNow then (s.modSca fun c => { c with tretNow := false }).returnFromTrap else s
  let s := s.modTrp fun t => { t with replays := 0 }
  let s := s.modTab fun t => { t with wait := none }
  let s := s.modLsu fun l => { l with walked := none }
  let s :=
    if s.core.trp.dbgmode = 1 ∧ level = 0 then s.modTrp fun t => { t with stepDue := true }
    else if s.core.trp.dbgmode = 2 ∧ level = 0 then
      match s.core.sca.callRet with
      | some r => if pc = r then (s.modSca fun c => { c with callRet := none }).modTrp fun t => { t with stepDue := true } else s
      | none => s.modTrp fun t => { t with stepDue := true }
    else s
  (if tret then s else stayAt pc s).perf 0 1

/-- A precise cause is taken before the bundle at pc (R64): the bundle has no effect. -/
def State.precise (s : State) (c : CauseInfo) : State :=
  let s := (s.modTab fun t => { t with wait := none }).modSca fun x => { x with hwinHeld := false, flushHeld := false }
  let s := s.modLsu fun l => { l with walked := none }
  (s.logMemue c).takeCause c s.core.sca.pc

/-- R167: a clk of a shift-change wait adds 1 to SWSTALL. -/
def Tab.waitClk (t : Tab) : Tab :=
  match t.wait with
  | some w => if w.released then t else { t with swstall := t.swstall + 1 }
  | none => t

/-- A clk in which a bundle is due and stalls (R346 counter 3 and the counters of the stall, R167). -/
def State.stallClk (s : State) (counters : List Nat) : State :=
  let s := s.modTab Tab.waitClk
  counters.eraseDups.foldl (fun s k =>
    if k = cbStallNo then s.modVec fun v => { v with cbstall := v.cbstall + 1 } else if cbStallNo < k then s else s.perf k 1) (s.perf 3 1)

/-- The issue of a bundle that waits for nothing: all of it, or a precise trap (R64). -/
def issueNow (sem : Instr → SlotSem) (wr : Nat → Double → State → State) (b : Bundle) (s p : State) : State :=
  match runOps sem (bundleOps b) p p with
  | .ok t => if queuesOver b p t then s.stallClk [4] else endBundle wr b t
  | .trap c => s.precise c

/-- R148: the 3-clk stall before all 64 buffered writes are applied has to be served. -/
def ingressStall (b : Bundle) (s : State) : Bool :=
  applies b s && decide (64 ≤ s.core.lsu.ingress.length) && !s.core.sca.hwinHeld

/-- The bundle due at pc has its turn. `arrive` is the shift change of R165 for a bundle that holds TSWAP, which comes before what its
operations wait for: `none` where the bundle may issue, or the state of a wait or a trap. -/
def issueBundle (sem : Instr → SlotSem) (wr : Nat → Double → State → State) (arrive : Bundle → State → State → Option State)
    (b : Bundle) (s : State) : State :=
  let q := openBundle false b s
  let waits (t : State) : State := match earlyTrap sem b q with | some c => s.precise c | none => t
  if ingressStall b s then
    waits ((s.modSca fun c => { c with hold := s.clk + 3, hwinHeld := true }).stallClk (8 :: bankStalls (opWaits sem b q)))
  else match joinWaits (baseWaits b q) with
    | .stall k => waits (s.stallClk (k ++ bankStalls (opWaits sem b q)))
    | _ =>
      match arrive b s q with
      | some t => t
      | none =>
        match bundleWait sem b q with
        | .stall k => s.stallClk k
        | .trap c => s.precise c
        | .go => issueNow sem wr b s (beginBundle b s)

/-! ### A core's turn -/

/-- R337: a report is due: the level is 0 and no shift-change wait holds it. -/
def reportDue (s : State) : Option Report :=
  if s.core.trp.level = 0 ∧ s.core.tab.wait.isNone then firstReport s.core.trp.reports else none

/-- R352: the park of single-stepping, which takes the place of the bundle due. -/
def stepPark (s : State) : State :=
  (s.modTrp fun t => { t with stepDue := false }).startPark
    { cause := Cause.step.no, slot := 15, gmask := 0, reason := 0, tl := 0, eng := 7, tlnum := 0, tstat := 0 } s.core.sca.pc

/-- R300: a fault found for an instruction that was in flight at a trap entry is taken at the landing of its result after re-injection. -/
def landFor (r : Report) (s : State) : State :=
  match s.core.trp.reentry with
  | some k =>
    if r.deferred ∧ r.info.eng = 5 then
      let mine (x : Pending) : Bool := x.due == 0 && x.tbun == r.tbun
      (k.recs.filter mine).foldl (fun s x => applyEff x.iss x.eff s)
        (s.modTrp fun t => { t with reentry := some { k with recs := k.recs.filter fun x => !mine x } })
    else s
  | none => s

/-- R337: one reported cause is taken at this boundary, so that one that was held is accepted; the command that waited for it ends (R331). -/
def takeReport (s : State) (r : Report) : State :=
  let s := landFor r s
  let s := s.modTrp fun t => { t with reports := removeReport r t.reports }.acceptHeld
  let s := s.modEng fun e => { e with cmds := e.cmds.map fun c => if r.cmd ≠ 0 ∧ c.id = r.cmd then { c with st := .ended } else c }
  s.takeReported r.deferred r.info r.tbun

/-- A stall at a codebook bank, which is counted in every clk of a wait (R224). -/
def Wait.atBank (w : Wait) : Bool := match w with | .stall k => k.contains cbStallNo | _ => false

/-- What the bundle due waits for. A bundle whose shift change is still to come waits for nothing else but what every bundle does (R166), though
it counts the clk in which it lacks a codebook bank. -/
def dueWaits (sem : Instr → SlotSem) (b : Bundle) (s : State) : List Wait :=
  let q := openBundle false b s
  if swapAhead b q then baseWaits b q ++ (opWaits sem b q).filter Wait.atBank else baseWaits b q ++ opWaits sem b q

/-- The counters of a stall during which no cause may be taken before the bundle due (R337); `none` where one may, and where the check of an X
step ends the stall (R158). -/
def closedStall (sem : Instr → SlotSem) (b : Bundle) (s : State) : Option (List Nat) :=
  let ks := (waitStalls (dueWaits sem b s)).flatten
  if joinWaits (baseWaits b (openBundle false b s)) ≠ .go then
    (if (earlyTrap sem b (openBundle false b s)).isSome then none else some ks)
  else match joinWaits (dueWaits sem b s) with
    | .stall ks => if ks.all openStall then none else some ks
    | _ => none

/-- The counters that run while the core is held before the bundle due: those of its own waits (R218), or those a codebook bank causes (R224). -/
def heldCounters (sem : Instr → SlotSem) (get : State → Except CauseInfo Bundle) (s : State) : List Nat :=
  match get s with
  | .ok b =>
    let ks := (waitStalls (dueWaits sem b s)).flatten
    if s.core.trp.assay.isSome then ks else if s.core.sca.hwinHeld || s.core.sca.flushHeld then 8 :: ks.filter (· == cbStallNo) else []
  | .error _ => []

/-- Whether the boundary before the bundle due has been reached: a cause may be taken there, or the unit be pre-empted (R337, R347). -/
def atBoundary (sem : Instr → SlotSem) (get : State → Except CauseInfo Bundle) (s : State) : Bool :=
  s.core.trp.assay.isNone && s.core.trp.raised.isNone && decide (s.core.sca.hold ≤ s.clk) &&
    (match get s with | .ok b => (closedStall sem b s).isNone | .error _ => s.core.sca.cellStall.isNone)

/-- R158: the check of an X step that fails in a clk of the 3-clk stall of R148. -/
def heldTrap (sem : Instr → SlotSem) (get : State → Except CauseInfo Bundle) (s : State) : Option CauseInfo :=
  if s.core.trp.assay.isNone && (s.core.sca.hwinHeld || s.core.sca.flushHeld) then
    (match get s with | .ok b => earlyTrap sem b (openBundle false b s) | .error _ => none)
  else none

/-- The bundle boundary at which bundle `get` is due. No bundle issues before `hold` or while a step is replayed by the assay (R218). Once the
bundle is ready, or in a stall that allows it, a step park or a reported cause comes first; otherwise the bundle issues, waits or faults. A cause
that has been raised waits for its action entry (R330). -/
def boundary (sem : Instr → SlotSem) (wr : Nat → Double → State → State) (arrive : Bundle → State → State → Option State)
    (get : State → Except CauseInfo Bundle) (s : State) : State :=
  let first (go : State) : State :=
    if s.core.trp.stepDue then stepPark s else match reportDue s with | some r => takeReport s r | none => go
  match s.core.trp.raised with
  | some r => (s.raiseAgain r).getD (s.stallClk [])
  | none =>
  if s.core.trp.assay.isSome ∨ s.clk < s.core.sca.hold then
    match heldTrap sem get s with
    | some c => first (s.precise c)
    | none => s.stallClk (heldCounters sem get s)
  else
    match get s with
    | .error c => if s.core.sca.cellStall.isSome then s.stallClk [cellStallNo] else first (s.precise c)
    | .ok b =>
      match closedStall sem b s with
      | some ks => s.stallClk ks
      | none => first (issueBundle sem wr arrive b s)

end Sys2Proof.Machine
end

