-- ==== Sys2Proof/Machine/Single.lean ====
section
/-! DEFINITION. What a slot operation does by itself: the bundle that holds it alone has its turn on the current core. A
fetched bundle is issued by the same `boundary`, so the two agree (see Issue.lean). Also the writes MTS makes (R343). -/

namespace Sys2Proof.Machine

/-- R343, R344: what an MTS to special register `n` writes, reserved bits as zero (R8). Registers that are read-only to programs
ignore it. A write of zero to RNGS stores 1 (R41). -/
def mtsWrite (n : Nat) (v : Double) (s : State) : State :=
  let x := v.toNat
  let bank (l : Nat) (f : TrapBank → TrapBank) : State := s.modTrp fun t => t.setBank l (f (t.bank l))
  let addr : Double := BitVec.ofNat 64 (x % 2 ^ 56 / 32 * 32)
  if n = 0x000 then s.modVec fun c => { c with vmode := BitVec.ofNat 1 x }
  else if n = 0x001 then s.modVec fun c => { c with pbase := BitVec.ofNat 22 x }
  else if n = 0x002 then s.modSca fun c => { c with spst := BitVec.ofNat 40 x }
  else if 0x004 ≤ n ∧ n ≤ 0x006 then s.modSca fun c => { c with lc := fset 0 c.lc (n - 4) v }
  else if 0x008 ≤ n ∧ n ≤ 0x00F then
    s.modVec fun c => { c with rngs := fset 1 c.rngs (n - 8) (if x % 2 ^ 32 = 0 then 1 else BitVec.ofNat 32 x) }
  else if n = 0x021 then bank 1 fun b => { b with tcause := v }
  else if n = 0x022 then bank 1 fun b => { b with tepc := addr }
  else if n = 0x023 then bank 1 fun b => { b with tstat := v }
  else if n = 0x024 then bank 1 fun b => { b with tsave := BitVec.ofNat 64 (x % 2 ^ 56) }
  else if n = 0x025 then bank 1 fun b => { b with tbun := addr }
  else if n = 0x029 then bank 2 fun b => { b with tcause := v }
  else if n = 0x02A then bank 2 fun b => { b with tepc := addr }
  else if n = 0x02B then bank 2 fun b => { b with tstat := v }
  else if n = 0x02C then bank 2 fun b => { b with tsave := BitVec.ofNat 64 (x % 2 ^ 56) }
  else if n = 0x02D then bank 2 fun b => { b with tbun := addr }
  else s

/-- An entry without a result. -/
def QEntry.plain (id : Nat) (op : QOp) (sq : Bool) (tbun slot : Nat) (far : Bool) : QEntry :=
  { id, op, res := false, chain := .s1, wbs := true, dst := 0, sq, tbun, slot, dead := false, far, bank := none, since := 0 }

/-- Puts an entry at the tail of a queue. It takes the next issue number. -/
def State.enqueue (store : Bool) (e : QEntry) (s : State) : State :=
  let e := { e with id := s.core.sca.seq, tbun := s.core.sca.pc }
  let s := s.modSca fun c => { c with seq := c.seq + 1 }
  s.modLsu fun l => if store then { l with storeQ := l.storeQ ++ [e] } else { l with loadQ := l.loadQ ++ [e] }

/-- Enqueues an operation without a result. -/
def State.enqPlain (s : State) (store : Bool) (h : Head) (far : Bool) (op : QOp) : State :=
  s.enqueue store (.plain 0 op h.sq 0 1 far)

/-- What follows the turn of the current core. -/
def finishTurn (s : State) : Host.Outcome State Fault Refusal := .next s.endTurn

/-- R371, R379: the package runs no work once it is FAILED or HALTED. -/
def stopped (s : State) : Bool := decide (2 ≤ s.pkg.mgmt.pstate)

/-- A bundle that holds one operation has its turn on the current core. A core that runs no unit issues nothing, nor
does a stopped package. `arrive` is the shift change, for TSWAP. -/
def issueSingleWith (arrive : Bundle → State → State → Option State) (i : Instr) (m : SlotSem) (s : State) :
    Host.Outcome State Fault Refusal :=
  if stopped s then .next s
  else if s.core.un.st = .running then finishTurn (boundary (fun _ => m) mtsWrite arrive (fun _ => .ok (Bundle.single i)) s)
  else finishTurn s

/-- A bundle of one operation that is not TSWAP. -/
def issueSingle (i : Instr) (m : SlotSem) (s : State) : Host.Outcome State Fault Refusal :=
  issueSingleWith (fun _ _ _ => none) i m s

end Sys2Proof.Machine
end

