-- ==== Sys2Proof/Machine/Control.lean ====
section
/-! DEFINITION. Branches, counted loops, stage predicates and stream loops (R102 to R113). -/

namespace Sys2Proof.Machine

/-- R102: the branch of this bundle is taken. -/
def State.take (s : State) (target : Nat) : State := s.modSca fun c => { c with taken := some target }

/-- R103: the target OFF bundles from the branch's own bundle. -/
def relTarget {w : Nat} (pc : Nat) (off : BitVec w) : Nat := (tr 56 ((pc : Int) + 32 * off.toInt)).toNat

/-- R103: an indirect target, bits 63:56 and 4:0 cleared. -/
def indTarget (a : Int) : Nat := (tr 56 a).toNat / 32 * 32

def semBr (h : Head) (off : BitVec 24) : SlotSem :=
  { op := fun p s => guarded h p s fun s => .ok (s.take (relTarget p.core.sca.pc off)), wait := noWait }

/-- R103: BRL also writes the link value pc + 96. With DBGCTL.MODE 2 the step park waits for the call's return (R352); a BRL
at the link value awaited begins the next call. -/
def semBrl (h : Head) (dst : BitVec 5) (wbs : Bool) (off : BitVec 21) : SlotSem :=
  { op := fun p s => guarded h p s fun s =>
      let link := va56 (p.core.sca.pc + 96)
      let s := if p.core.trp.dbgmode = 2 ∧ p.core.trp.level = 0 ∧ (p.core.sca.callRet.isNone ∨ p.core.sca.callRet = some p.core.sca.pc) then
          s.modSca fun c => { c with callRet := some link } else s
      .ok ((s.take (relTarget p.core.sca.pc off)).land .s0 h dst wbs (BitVec.ofNat 64 link) 1)
    wait := noWait }

def semBri (h : Head) (a : BitVec 6) (imm : BitVec 15) : SlotSem :=
  { op := fun p s => guarded h p s fun s => .ok (s.take (indTarget ((p.core.src .s0 false a).toNat + 32 * imm.toInt)))
    wait := noWait }

def semRet (h : Head) (a : BitVec 6) : SlotSem :=
  { op := fun p s => guarded h p s fun s => .ok (s.take (indTarget ((p.core.src .s0 false a).toNat))), wait := noWait }

/-! ### Loop counters (R107, R108) -/

def Core.lcReg (c : Core) (n : Nat) : Double := fget 0 c.sca.lc n
/-- R107: COUNT and RELOAD of a loop counter. -/
def Core.lcCount (c : Core) (n : Nat) : Nat := fld (c.lcReg n).toNat 0 32
def Core.lcReload (c : Core) (n : Nat) : Nat := fld (c.lcReg n).toNat 32 32

/-- R108: LOOP counts at issue. -/
def semLoop (h : Head) (lc : BitVec 2) (off : BitVec 24) : SlotSem :=
  { op := fun p s => guarded h p s fun s =>
      let n := lc.toNat
      let c := p.core.lcCount n
      let r := p.core.lcReload n
      let set (k : Nat) : State := s.modSca fun x => { x with lc := fset 0 x.lc n (BitVec.ofNat 64 (r * 2 ^ 32 + k)) }
      if 1 < c then .ok ((set (c - 1)).take (relTarget p.core.sca.pc off)) else .ok (set r)
    wait := noWait }

/-- R108: LOOP.SET lands after 1 clk, over what an MTS of its bundle wrote to the counter. DESIGN CHOICE: log entry 94. -/
def semLoopSet (h : Head) (lc : BitVec 2) (a : BitVec 6) : SlotSem :=
  { op := fun p s => guarded h p s fun s => .ok (s.putEff h.sq 1 (.lcSet lc.toNat ((p.core.src .s0 false a).setWidth 32)))
    wait := noWait }

/-- R110: the predicates and the feed count change at the end of the bundle. -/
def semSpset (h : Head) (mask : BitVec 8) (a : BitVec 6) : SlotSem :=
  { op := fun p s => guarded h p s fun s =>
      let feed := fld (p.core.src .s0 false a).toNat 0 32
      .ok (s.modSca fun c => { c with spNext := some (BitVec.ofNat 40 (mask.toNat + feed * 2 ^ 8)) })
    wait := noWait }

/-! ### Stream loops (R113) -/

/-- R254: the entries of an input queue, oldest first. -/
def Core.iqueue (c : Core) (n : Nat) : List QVal := fget [] c.eng.iq n

def State.setIqueue (s : State) (n : Nat) (q : List QVal) : State := s.modEng fun e => { e with iq := fset [] e.iq n q }

/-- A token's pop acts as a FENCE.acq.sys placed just after it (R254). -/
def semSloop (h : Head) (iq : BitVec 2) (xg : BitVec 5) (xb : BitVec 6) (off : BitVec 14) : SlotSem :=
  { op := fun p s => guarded h p s fun s =>
      match p.core.iqueue iq.toNat with
      | .eos :: rest =>
        .ok (((s.setIqueue iq.toNat rest).land .s0 h xg false (p.core.greg xg.toNat ||| (1#64 <<< xb.toNat)) 1).enqPlain false h false
          (.acqTok 3 none))
      | _ => .ok (s.take (relTarget p.core.sca.pc off))
    wait := fun p => activeWait h p (if (p.core.iqueue iq.toNat).isEmpty then .stall [6] else .go) }

/-- BR (R103). Relative branch with two delay bundles. -/
def execBr (h : Head) (off : BitVec 24) (s : State) : Host.Outcome State Fault Refusal :=
  issueSingle (.br h off) (semBr h off) s

/-- BRL (R103). Relative branch that writes the link value pc + 96. -/
def execBrl (h : Head) (dst : BitVec 5) (wbs : Bool) (off : BitVec 21) (s : State) : Host.Outcome State Fault Refusal :=
  issueSingle (.brl h dst wbs off) (semBrl h dst wbs off) s

/-- BRI (R103). Indirect branch to a register plus an immediate. -/
def execBri (h : Head) (a : BitVec 6) (imm : BitVec 15) (s : State) : Host.Outcome State Fault Refusal :=
  issueSingle (.bri h a imm) (semBri h a imm) s

/-- RET (R103). Indirect branch to a register; ends a call. -/
def execRet (h : Head) (a : BitVec 6) (s : State) : Host.Outcome State Fault Refusal :=
  issueSingle (.ret h a) (semRet h a) s

/-- LOOP (R108). Counts a loop counter down and branches while the count exceeds 1, else reloads it. -/
def execLoop (h : Head) (lc : BitVec 2) (off : BitVec 24) (s : State) : Host.Outcome State Fault Refusal :=
  issueSingle (.loop h lc off) (semLoop h lc off) s

/-- LOOP_SET (R108). Sets COUNT and RELOAD of a loop counter. -/
def execLoopSet (h : Head) (lc : BitVec 2) (a : BitVec 6) (s : State) : Host.Outcome State Fault Refusal :=
  issueSingle (.loopSet h lc a) (semLoopSet h lc a) s

/-- SPSET (R110). Sets the stage predicates and the feed count. -/
def execSpset (h : Head) (mask : BitVec 8) (a : BitVec 6) (s : State) : Host.Outcome State Fault Refusal :=
  issueSingle (.spset h mask a) (semSpset h mask a) s

/-- SLOOP (R113). Waits on an input queue, and branches or pops an end-of-stream token and sets the exit bit. -/
def execSloop (h : Head) (iq : BitVec 2) (xg : BitVec 5) (xb : BitVec 6) (off : BitVec 14) (s : State) : Host.Outcome State Fault Refusal :=
  issueSingle (.sloop h iq xg xb off) (semSloop h iq xg xb off) s

end Sys2Proof.Machine
end

