-- ==== Sys2Proof/Machine/Regs.lean ====
section
/-! DEFINITION. Device registers (R358): the submission and completion rings (R359 to R361), discovery (R362), links (R368) and
the management mailbox (R374, R375). The host and device programs reach them by the same reads and writes. -/

namespace Sys2Proof.Machine

/-! ### Rings -/

def ringOf (p : Pkg) (q : Nat) : Ring := fget .reset p.rings q

def State.modRing (s : State) (q : Nat) (f : Ring → Ring) : State :=
  s.modPkg fun p => { p with rings := fset .reset p.rings q (f (ringOf p q)) }

/-- R361: an event of a ring: its completion entry waits for room. -/
def State.ringEvent (s : State) (q seq lslot kind d1 : Nat) : State :=
  s.modRing q fun r => { r with events := r.events ++ [((seq % 2 ^ 32) * 2 ^ 32 + (lslot % 2 ^ 16) * 2 ^ 16 + kind * 2 ^ 8, d1)] }

/-- R332: the error-log entry of an H cause. -/
def State.logH (s : State) (phjob lslot : Nat) (i : CauseInfo) : State :=
  s.logGroup [logDoubles s.pkg.gts (logD1 phjob lslot 0 0 2047) (causeWord i).toNat i.tstat]

/-- The cause word of SUBMIT: no slot; the system raises it. -/
def submitCause (seq : Nat) : CauseInfo :=
  { cause := Cause.submit.no, slot := 15, gmask := 0, reason := 0, tl := 0, eng := 7, tlnum := 0, tstat := seq }

/-- R360, R332: SUBMIT on ring `q`: the ring stops and the host is notified. -/
def State.raiseSubmit (s : State) (q : Nat) : State :=
  let r := ringOf s.pkg q
  let i := submitCause r.head
  ((s.modRing q fun r => { r with stop := true, first := none, got := none }).ringEvent q r.head 0 4 (causeWord i).toNat).logH 0 0 i

/-- R359: a write to SQCFG. -/
def State.writeSqcfg (s : State) (q v : Nat) : State :=
  s.modRing q fun r =>
    let lg := fld v 0 4
    let r := if r.en then r else { r with logsz := if 4 ≤ lg ∧ lg ≤ 12 then lg else 4 }
    let r := { r with job := fld v 16 16, en := bit v 4 }
    if bit v 4 then { r with head := 0, tail := 0, cqhead := 0, cqtail := 0, stop := false, first := none, got := none, events := [] } else r

/-- Difference of two 32-bit counts. -/
def sub32 (a b : Nat) : Nat := (a + 2 ^ 32 - b % 2 ^ 32) % 2 ^ 32

/-- R360: a doorbell. One that moves TAIL back to HEAD ends the wait for card HEAD: the next begins a fresh window. -/
def State.writeSqtail (s : State) (q v : Nat) : State :=
  let r := ringOf s.pkg q
  let t := fld v 0 32
  if !r.en then s
  else if 2 ^ r.logsz < sub32 t r.head then s.raiseSubmit q
  else s.modRing q fun r => if t = r.head then { r with tail := t, first := none, got := none } else { r with tail := t }

/-- R359: a write to SQHEAD clears STOP where it writes 1 to it, and the fetcher starts again with a fresh window. -/
def State.writeSqhead (s : State) (q v : Nat) : State :=
  if bit v 32 ∧ (ringOf s.pkg q).stop then s.modRing q fun r => { r with stop := false, first := none } else s

/-- R361: the host advances CQHEAD. -/
def State.writeCqhead (s : State) (q v : Nat) : State := s.modRing q fun r => { r with cqhead := fld v 0 32 }

/-- The value of ring register `k` (R359): WO fields read zero. -/
def ringReg (r : Ring) (k : Nat) : Nat :=
  match k with
  | 0 => r.base
  | 1 => r.job * 2 ^ 16 + b2n r.en * 2 ^ 4 + r.logsz
  | 3 => b2n r.stop * 2 ^ 32 + r.head
  | 4 => r.cqbase
  | 5 => r.cqhead
  | 6 => r.cqtail
  | _ => 0

/-- R359: a write to ring register `k`. -/
def State.writeRing (s : State) (q k v : Nat) : State :=
  match k with
  | 0 => s.modRing q fun r => if r.en then r else { r with base := fld v 6 46 * 64 }
  | 1 => s.writeSqcfg q v
  | 2 => s.writeSqtail q v
  | 3 => s.writeSqhead q v
  | 4 => s.modRing q fun r => { r with cqbase := v % 2 ^ 64 }
  | 5 => s.writeCqhead q v
  | _ => s

/-! ### Discovery (R362) -/

/-- The keys, their values and flags, in the order of R362. -/
def discovery (p : Pkg) : List (String × Nat × Nat) :=
  [("core.count", p.live.length * 64, 1), ("die.count", p.live.length, 1), ("group.count", 8, 0), ("group.lanes", 64, 0),
   ("tile.bytes", 2048, 0), ("tile.regs", 32, 0), ("scratch.max", 3145728, 0), ("table.entries", 1024, 0), ("tl.count", 8, 0),
   ("hbm.bytes", 1649267441664, 0), ("clk.hz", p.mgmt.mhz * 1000000, 2), ("isa.rev", 1, 0), ("fver", 1, 0),
   ("fuse.mask", 1, 0), ("link.ports", 16, 0), ("pkg.number", p.mgmt.pkgNo, 0), ("stepping", 0xB1, 0)]

/-- The bytes of an ASCII string. -/
def asciiBytes (k : String) : List Nat := k.toList.map Char.toNat

/-- A byte of the discovery records. -/
def discoveryByte (p : Pkg) (off : Nat) : Nat :=
  match (discovery p).drop (off / 64) with
  | [] => 0
  | (k, v, f) :: _ =>
    let b := off % 64
    if b < 48 then nth (asciiBytes k) b
    else if b < 56 then fld v (8 * (b - 48)) 8
    else if b = 56 then f
    else 0

/-- A double of the discovery records. -/
def discoveryDouble (p : Pkg) (off : Nat) : Nat :=
  ((List.range 8).map fun i => discoveryByte p (off + i) * 2 ^ (8 * i)).sum

/-! ### Links and management -/

/-- R368: GTSCTL. -/
def gtsCtl (p : Pkg) : Nat :=
  let m := p.mgmt
  b2n m.gtsSync + b2n m.gtsMaster * 2 + b2n (m.gtsLocked && (m.gtsMaster || !pkgLost p p.env.gtsMaster)) * 4

/-- R374: MBSTAT. -/
def mbStat (m : Mgmt) : Nat :=
  m.mbseq.toNat * 2 ^ 32 + m.mbstatus.toNat * 2 ^ 16 + m.pstate * 2 + b2n m.busy

/-- R375: the end of a command: results in doubles 16 on, then MBSTAT, then vector 16. DESIGN CHOICE: log entry 134
(MBADDR written meanwhile). -/
def State.endCommand (s : State) (status : Nat) (results : List Nat) : State :=
  let s := s.modPkg fun p => writeBytes p (p.mgmt.mbaddr + 128) ((results.map fun v => leBytes 8 v).flatten)
  s.modMgmt fun m => { m with mbseq := m.cmdSeq, mbstatus := BitVec.ofNat 8 status, busy := false, unmapping := [], msix := m.msix ++ [16] }

/-- R375: a write to MBGO. The block is read once. -/
def State.writeMbgo (s : State) (v : Nat) : State :=
  if s.pkg.mgmt.busy then s
  else
    let blk := readNat s.pkg s.pkg.mgmt.mbaddr 128
    let s := s.modMgmt fun m => { m with busy := true, cmdSeq := BitVec.ofNat 32 v, block := BitVec.ofNat 1024 blk }
    if fld blk 32 32 ≠ fld v 0 32 then s.endCommand 33 [] else s

/-- The double at a device-register offset, a multiple of 8. DESIGN CHOICE: log entry 133 (the places of MBGO and MBSTAT). -/
def readReg (s : State) (off : Nat) : Nat :=
  let p := s.pkg
  if 0x10000 ≤ off ∧ off < 0x10400 then ringReg (ringOf p ((off - 0x10000) / 64)) ((off - 0x10000) % 64 / 8)
  else if 0x10_0000 ≤ off ∧ off < 0x20_0000 then discoveryDouble p (off - 0x10_0000)
  else if off = 0x20_0000 then p.mgmt.linksUp.toNat
  else if off = 0x20_0008 then gtsCtl p
  else if 0x20_1000 ≤ off ∧ off < 0x20_2000 then (fget 0 p.mgmt.peertab ((off - 0x20_1000) / 8)).toNat
  else if off = 0x100_0000 then p.mgmt.mbaddr
  else if off = 0x100_0010 then mbStat p.mgmt
  else 0

/-- A write of a double to the device register at `off`, a multiple of 8. The fields of PEERTAB and GTSCTL are
RW (R368). -/
def State.writeReg (s : State) (off v : Nat) : State :=
  if 0x10000 ≤ off ∧ off < 0x10400 then s.writeRing ((off - 0x10000) / 64) ((off - 0x10000) % 64 / 8) v
  else if off = 0x20_0008 then s.modMgmt fun m => { m with gtsSync := bit v 0, gtsMaster := bit v 1,
                                                            gtsLocked := bit v 0 && (bit v 1 || (m.gtsLocked && !m.gtsMaster)) }
  else if 0x20_1000 ≤ off ∧ off < 0x20_2000 then
    s.modMgmt fun m => { m with peertab := fset 0 m.peertab ((off - 0x20_1000) / 8) (BitVec.ofNat 16 (b2n (bit v 15) * 2 ^ 15 + fld v 0 9)) }
  else if off = 0x100_0000 then s.modMgmt fun m => { m with mbaddr := fld v 8 44 * 256 }
  else if off = 0x100_0008 then s.writeMbgo v
  else s

/-- Bytes read at a device-register offset. -/
def readRegBytes (s : State) (off n : Nat) : List Byte :=
  (List.range n).map fun i => BitVec.ofNat 8 (fld (readReg s ((off + i) / 8 * 8)) (8 * ((off + i) % 8)) 8)

/-- The double written where `n` bytes of value `v` at `off` change one register; the other bytes keep what the register reads as,
and a bit that clears on writing 1 is written 0 there. -/
def mergeReg (s : State) (off n v : Nat) : Nat :=
  let r := off / 8 * 8
  let old : BitVec 64 := BitVec.ofNat 64 (readReg s r)
  let old := if 0x10000 ≤ r ∧ r < 0x10400 ∧ (r - 0x10000) % 64 = 0x18 then putFld old 32 1 0 else old
  (putFld old (8 * (off % 8)) (8 * n) v).toNat

/-- A write of `n` bytes at `off`. A doorbell or a command is started by the low word of its register, and EN of SQCFG is written by
byte 0 only. -/
def State.writeRegBytes (s : State) (off n v : Nat) : State :=
  let r := off / 8 * 8
  let ring := decide (0x10000 ≤ r) && decide (r < 0x10400)
  let starts := decide (r = 0x100_0008) || (ring && decide ((r - 0x10000) % 64 = 0x10))
  if starts ∧ 4 ≤ off % 8 then s
  else if ring ∧ (r - 0x10000) % 64 = 0x08 ∧ 0 < off % 8 then
    s.modRing ((r - 0x10000) / 64) fun x => { x with job := fld (mergeReg s off n v) 16 16 }
  else s.writeReg r (mergeReg s off n v)

end Sys2Proof.Machine
end

