-- ==== Sys2Proof/Machine/Cells.lean ====
section
/-! DEFINITION. Records, queues, launches and cells (R301 to R327): how a record, a card and a cell are laid out, and what the dispatchers do with
them, as operations. -/

namespace Sys2Proof.Machine

/-- The bytes of a load as its result (R124). -/
def loadValue (size : Nat) (signed : Bool) (v : Nat) : Double :=
  if signed then tr 64 (sx v (8 * size)) else BitVec.ofNat 64 v

/-! ### Records (R301) -/

def recPrio (r : Rec) : Nat := fld (recWord r 0) 29 3
def recKind (r : Rec) : Nat := fld (recWord r 0) 27 2
def recLive (r : Rec) : Nat := fld (recWord r 0) 23 4
def recJoin (r : Rec) : Nat := fld (recWord r 0) 17 6
def recSxt (r : Rec) : Bool := bit (recWord r 0) 16
def recLslot (r : Rec) : Nat := fld (recWord r 0) 0 16
def recHandle (r : Rec) : Nat := recWord r 1
def recEntry (r : Rec) : Nat := recWord r 2
def recPhjob (r : Rec) : Nat := recWord r 3
def recPhase (r : Rec) : Nat := fld (recPhjob r) 16 16
def recJob (r : Rec) : Nat := fld (recPhjob r) 0 16

/-- Replaces word `i`. -/
def putRec (r : Rec) (i v : Nat) : Rec := putFld r (32 * i) 32 v

/-- Words at or beyond 4 + LIVE read as zero. -/
def recTrim (r : Rec) : Rec := BitVec.ofNat 512 (fld r.toNat 0 (32 * (4 + recLive r)))

/-- A record with a reserved field. -/
def recReserved (r : Rec) : Bool :=
  recKind r == 3 || decide (12 < recLive r) || (recKind r == 1 && (fld (recLslot r) 2 14 != 0 || fld (recLslot r) 0 2 == 3))

/-- The record with another launch slot, and another PHJOB. -/
def recOwned (r : Rec) (slot phjob : Nat) : Rec :=
  putRec (putRec r 0 (recWord r 0 / 2 ^ 16 * 2 ^ 16 + slot % 2 ^ 16)) 3 phjob

def recWithKind (r : Rec) (k : Nat) : Rec := putFld r 27 2 k

def recAt (p : Pkg) (pa : Nat) : Rec := recTrim (BitVec.ofNat 512 (readNat p pa 64))

/-! ### Queues (R309, R313) -/

/-- A queued record without a history. -/
def QRec.fresh (r : Rec) : QRec :=
  { recd := r, since := 0, deliver := none, evalOf := none, pool := 0, argIdx := none, self := false, saved := none }

def dieQueue (p : Pkg) (die prio : Nat) : List QRec := fget [] p.queues (8 * die + prio)

/-- Puts a record at the tail of a priority queue of a die. -/
def State.pushQueue (s : State) (die prio : Nat) (q : QRec) : State :=
  s.modPkg fun p => { p with queues := fset [] p.queues (8 * die + prio) (dieQueue p die prio ++ [{ q with since := p.clk }]) }

/-- At its own priority. -/
def State.queueUnit (s : State) (die : Nat) (q : QRec) : State := s.pushQueue die (recPrio q.recd) q

/-- R350: a saved context joins its core's run list at its priority. -/
def insertRun (q : QRec) : List QRec → List QRec
  | [] => [q]
  | x :: xs => if recPrio x.recd < recPrio q.recd then q :: x :: xs else x :: insertRun q xs

def Core.modUnit (c : Core) (f : UnitSt → UnitSt) : Core := { c with un := f c.un }

/-- All cores whose state is not the reset state, and the current one. -/
def State.cores (s : State) : List (Nat × Core) := (s.no, s.core) :: s.others

/-! ### Launches (R307, R311, R316) -/

def cardFld (c : BitVec 512) (off n : Nat) : Nat := fld c.toNat (8 * off) n
def Launch.narg (l : Launch) : Nat := cardFld l.card 24 32
def Launch.asize (l : Launch) : Nat := cardFld l.card 28 8
def Launch.flags (l : Launch) : Nat := cardFld l.card 29 8
def Launch.rerun (l : Launch) : Bool := bit l.flags 0
def Launch.isSelf (l : Launch) : Bool := bit l.flags 1
def Launch.args (l : Launch) : Nat := cardFld l.card 16 64
def Launch.mask (l : Launch) : Nat := cardFld l.card 34 9
def Launch.waitc (l : Launch) : Nat := fld (cardFld l.card 34 16) 9 6
def Launch.fut (l : Launch) : Nat := cardFld l.card 48 64

def launchAt (p : Pkg) (slot : Nat) : Option Launch := fget none p.launches slot

def State.modLaunch (s : State) (slot : Nat) (f : Launch → Launch) : State :=
  s.modPkg fun p => match launchAt p slot with
    | some l => { p with launches := fset none p.launches slot (some (f l)) }
    | none => p

def State.launchAdd (s : State) (slot : Nat) (d : Int) : State := s.modLaunch slot fun l => { l with counter := l.counter + d }

/-- R307: the live dies a mask allows; a mask of 0 covers all. -/
def maskDies (p : Pkg) (mask : Nat) : List Nat := p.live.filter fun d => mask == 0 || bit mask d

/-- The live dies of the launch in a slot. -/
def slotDies (p : Pkg) (slot : Nat) : List Nat := maskDies p (match launchAt p slot with | some l => l.mask | none => 0)

/-- R312: P. -/
def Launch.par (p : Pkg) (l : Launch) : Nat :=
  let all := 64 * (maskDies p l.mask).length
  let cap := cardFld l.card 32 16
  if cap = 0 then all else min cap all

/-- R308. -/
def graphAt (p : Pkg) (g : Nat) : Option Graph := fget none p.graphs g
def State.modGraph (s : State) (g : Nat) (f : Graph → Graph) : State :=
  s.modPkg fun p => match graphAt p g with
    | some x => { p with graphs := fset none p.graphs g (some (f x)) }
    | none => p

def phaseKey (job phase : Nat) : Nat := job * 65536 + phase
def LevelSt.fresh : LevelSt := { counter := 0, cancelled := false, complete := false }

def State.modPhase (s : State) (job phase : Nat) (f : LevelSt → LevelSt) : State :=
  s.modPkg fun p => match fget none p.phases (phaseKey job phase) with
    | some x => { p with phases := fset none p.phases (phaseKey job phase) (some (f x)) }
    | none => p

/-- R316: a graph begins in a phase, and a phase in its job, when its first member does. -/
def State.openPhase (s : State) (job phase : Nat) : State :=
  let one (j : Job) : Job :=
    { j with level := if j.level.complete then { LevelSt.fresh with counter := 1 } else { j.level with counter := j.level.counter + 1 } }
  match fget none s.pkg.phases (phaseKey job phase) with
  | some x => if x.complete then (s.modPhase job phase fun _ => LevelSt.fresh).modJob job one else s
  | none => (s.modPkg fun p => { p with phases := fset none p.phases (phaseKey job phase) (some LevelSt.fresh) }).modJob job one

/-- DEDUCED: log entry 42. -/
def State.openGraph (s : State) (g job phase ring seq : Nat) : State :=
  let fresh : Graph := { job, phase, dc := [], counter := 0, cancelled := false, complete := false, ring, seq }
  let new := match graphAt s.pkg g with | some x => x.complete | none => true
  if new then
    let s := s.openPhase job phase
    let leave (x : SpecFrom) : SpecFrom := if x.graph = some g then { x with graph := none } else x
    (s.modPkg fun p => { p with graphs := fset none p.graphs g (some fresh), pool := p.pool.map fun e => (e.1, e.2.map fun x => { x with spec := x.spec.map leave }) }).modPhase job phase fun x =>
      { x with counter := x.counter + 1 }
  else s

/-- The first launch slot that is free, from a number on. DESIGN CHOICE: log entry 46. -/
def freeSlot (p : Pkg) : Nat :=
  ((List.range 65536).map fun i => (p.nextSlot + i) % 65536).find? (fun k =>
    match launchAt p k with | some l => l.complete | none => true) |>.getD (p.nextSlot % 65536)

/-- R308: a card that waits on a counter another card of the graph awaits. -/
def waitTaken (p : Pkg) (graph : Nat) (card : BitVec 512) : Bool :=
  bit (cardFld card 29 8) 2 &&
    p.launches.any fun e => match e.2 with
      | some l => l.graph == graph && l.waits && !l.cancelled && l.waitc == fld (cardFld card 34 16) 9 6 &&
          (match graphAt p graph with | some g => !g.complete | none => false)
      | none => false

/-- R307: reserved bits of a card. `phjob` is checked by nobody. -/
def cardReserved (card : BitVec 512) : Bool :=
  let t := cardFld card 0 32
  fld t 27 2 != 0 || fld t 0 16 != 0 || decide (12 < fld t 23 4) || fld (cardFld card 29 8) 3 5 != 0 || bit (cardFld card 34 16) 15

/-- R311: the checks of a card. -/
def cardOk (p : Pkg) (graph : Nat) (card : BitVec 512) : Bool :=
  (p.objs.any fun o => o.handle == cardFld card 4 32) && decide (cardFld card 28 8 ≤ 12) && !cardReserved card &&
    !waitTaken p graph card

/-- A new launch joins a graph (R308, R316). The launches whose parent had the slot before have none any more, and
a speculative evaluation is no longer one of the launch that had it. DESIGN CHOICE: log entry 128 (every slot in use). -/
def State.addLaunch (s : State) (slot : Nat) (l : Launch) : State :=
  let p := s.pkg
  let n : Nat := if l.isSelf then l.par p else l.narg
  let l := { l with counter := (n : Int) }
  let leave (x : SpecFrom) : SpecFrom := if x.slot = some slot then { x with slot := none } else x
  let s := s.modPkg fun p => { p with
    pool := p.pool.map fun e => (e.1, e.2.map fun x => { x with spec := x.spec.map leave }),
    launches := fset none (p.launches.map fun e => (e.1, e.2.map fun x => if x.parent = some slot then { x with parent := none } else x)) slot (some l),
    nextSlot := slot + 1 }
  s.modGraph l.graph fun g =>
    { g with counter := g.counter + 1,
             dc := if l.waits then fset 0 g.dc l.waitc (fget 0 g.dc l.waitc + (cardFld l.card 36 16 : Nat)) else g.dc }

/-- A launch of a card; `phjob`: word 3 of its units' records, that of a host card or of the unit that launches it (R307, R311). -/
def Launch.ofCard (card : BitVec 512) (job phjob graph ring seq : Nat) (host : Bool) : Launch :=
  { card, job, phase := fld phjob 16 16, graph, next := 0, selfDealt := false, counter := 0, status := none, cancelled := false, complete := false,
    stopped := false, chunks := [], again := [], phjob, parent := none, waits := bit (cardFld card 29 8) 2, deps := 0, dependents := [], nconv := 0, dispatched := false, argWords := [], trange := 0,
    table := 0, replays := 0, lost := none, raised := none, grants := [], ring, seq, host }

/-- R305, R331: the launch's status, if it has none. -/
def State.setStatus (s : State) (slot v : Nat) : State :=
  s.modLaunch slot fun l => if l.status.isNone then { l with status := some (BitVec.ofNat 32 v) } else l

/-- R316: a unit is counted out of its launch; a dealt one out of its grant, a SELF unit out of its chunks. -/
def State.unitDone (s : State) (slot : Nat) (argIdx : Option Nat) : State :=
  s.modLaunch slot fun l =>
    { l with counter := l.counter - 1,
             chunks := match argIdx with | some i => l.chunks.filter fun g => g.2.1 ≠ i | none => l.chunks,
             grants := match argIdx with
               | some i => (l.grants.map fun g => (g.1, g.2.filter fun k => k ≠ i)).filter fun g => !g.2.isEmpty
               | none => l.grants }

/-! ### Host notification (R332, R361) -/

/-- R332: an H cause of a launch: a completion entry of KIND 5 and an error-log entry. -/
def State.notifyH (s : State) (slot phjob : Nat) (i : CauseInfo) : State :=
  let s := match launchAt s.pkg slot with
    | some l => s.ringEvent l.ring l.seq slot 5 (causeWord i).toNat
    | none => s
  s.logH phjob slot i

def hostCause (c : Cause) (eng tstat : Nat) : CauseInfo :=
  { cause := c.no, slot := 15, gmask := 0, reason := 0, tl := 0, eng, tlnum := 0, tstat }

/-! ### Cells (R319 to R327) -/

def lineOf (pa : Nat) : Nat := pa / 64 * 64
def cellDouble (p : Pkg) (pa k : Nat) : Nat := readNat p (lineOf pa + 8 * k) 8
def cellEvid (p : Pkg) (pa : Nat) : Nat := cellDouble p pa 0 / 2 ^ 32
def cellHead (p : Pkg) (pa : Nat) : Nat := cellDouble p pa 0 % 2 ^ 32
def cellTail (p : Pkg) (pa : Nat) : Nat := cellDouble p pa 1 / 2 ^ 32
def cellNwait (p : Pkg) (pa : Nat) : Nat := cellDouble p pa 1 % 2 ^ 32
def cellElslot (p : Pkg) (pa : Nat) : Nat := cellDouble p pa 2 / 2 ^ 48
def cellSdone (p : Pkg) (pa : Nat) : Bool := bit (cellDouble p pa 2) 1
def cellSpec (p : Pkg) (pa : Nat) : Bool := bit (cellDouble p pa 2) 0

/-- R319: the state word of a PENDING cell. -/
def writePending (p : Pkg) (pa evid head tail n elslot : Nat) (sdone spec : Bool) : Pkg :=
  setCell (writeBytes p (lineOf pa) (leBytes 64
    ((evid * 2 ^ 32 + head) + (tail * 2 ^ 32 + n) * 2 ^ 64 + (elslot * 2 ^ 48 + b2n sdone * 2 + b2n spec) * 2 ^ 128))) pa .pending

/-- A VALUE cell. -/
def writeValue (p : Pkg) (pa v : Nat) : Pkg := setCell (writeBytes p (lineOf pa) (leBytes 64 v)) pa .value

def writeSuspended (p : Pkg) (pa : Nat) (r : Rec) : Pkg := setCell (writeBytes p (lineOf pa) (leBytes 64 r.toNat)) pa .suspended

/-! ### The record pool (R319) -/

def poolAt (p : Pkg) (ref : Nat) : Option PoolEntry := fget none p.pool ref

/-- The first number from `nextRef` on whose reference on a die is not zero and names no entry. -/
def refStep (p : Pkg) (die : Nat) : Nat :=
  let ref (i : Nat) : Nat := die * 2 ^ 28 + (p.nextRef + i) % 2 ^ 28
  ((List.range (p.pool.length + 2)).find? fun i => ref i != 0 && (poolAt p (ref i)).isNone).getD 0

/-- A new reference: a nonzero word that names no entry; bits 31 to 28 give the die. -/
def State.newRef (s : State) (die : Nat) : Nat × State :=
  let i := refStep s.pkg die
  (die * 2 ^ 28 + (s.pkg.nextRef + i) % 2 ^ 28, s.modPkg fun p => { p with nextRef := p.nextRef + i + 1 })

def setPool (p : Pkg) (ref : Nat) (e : Option PoolEntry) : Pkg := { p with pool := fset none p.pool ref e }

def PoolEntry.fresh (r : Rec) (die : Nat) : PoolEntry :=
  { recd := r, next := 0, cell := none, wait := none, die, evalOf := none, evalPool := 0, argIdx := none, self := false, ready := true,
    got := none, held := none, region := none, spec := none, gone := false }

/-- R319: the chain of a cell: a link that does not name an entry parked on the cell ends the walk. -/
def chainRefs (p : Pkg) (pa : Nat) : Nat → Nat → List Nat
  | 0, _ => []
  | fuel + 1, ref =>
    match poolAt p ref with
    | some e => if e.cell = some (lineOf pa) then ref :: chainRefs p pa fuel e.next else []
    | none => []

def chainOf (p : Pkg) (pa : Nat) : List Nat := chainRefs p pa (p.pool.length + 1) (cellHead p pa)

/-- Links references in order. -/
def linkChain : List Nat → Pkg → Pkg
  | [], p => p
  | r :: rs, p =>
    let next := rs.headD 0
    linkChain rs (match poolAt p r with | some e => setPool p r (some { e with next }) | none => p)

/-- Rebuilds the chain of a PENDING cell. A cell in another state has none: an entry that a damaged chain has left behind changes nothing there (R7). -/
def relink (p : Pkg) (pa : Nat) (refs : List Nat) : Pkg :=
  if cellAt p pa = .pending then
    writePending (linkChain refs p) pa (cellEvid p pa) (refs.headD 0) (refs.getLastD 0) refs.length (cellElslot p pa) (cellSdone p pa) (cellSpec p pa)
  else p

/-- R319, R327: the record copy of a cell's evaluation: what EVID names is taken only where it is this cell's. DEDUCED: log entry 86. -/
def copyAt (p : Pkg) (pa ref : Nat) : Option PoolEntry :=
  match poolAt p ref with
  | some e => if e.evalOf = some (lineOf pa) ∧ e.cell.isNone ∧ e.wait.isNone then some e else none
  | none => none

/-- R321, R325: appends an entry at the tail of a PENDING cell's chain. -/
def State.appendChain (s : State) (pa die : Nat) (e : PoolEntry) : Nat × State :=
  let (ref, s) := s.newRef die
  let s := s.modPkg fun p => setPool p ref (some { e with cell := some (lineOf pa), die })
  (ref, s.modPkg fun p => relink p pa (chainOf p pa ++ [ref]))

/-! ### Evaluations (R327) -/

/-- R327: the die an evaluator of a launch is queued on. DESIGN CHOICE: log entry 40. -/
def State.placeDie (s : State) (place pa trig slot : Nat) : Nat × State :=
  let dies := slotDies s.pkg slot
  if place = 1 then
    match homeDie s.pkg pa with
    | some d => (if dies.contains d then d else trig, s)
    | none => (trig, s)
  else if place = 2 then
    let (k, s) := s.takeFree
    (if dies.isEmpty then trig else nth dies (Config.choice k % dies.length), s)
  else (trig, s)

/-- Queues an evaluator made from copy `ref` of cell `pa`. It counts in the launch. -/
def State.queueEval (s : State) (pa ref slot phjob trig : Nat) (spec : Bool) : State :=
  match poolAt s.pkg ref with
  | none => s
  | some e =>
    let (die, s) := s.placeDie (fld (recLslot e.recd) 0 2) pa trig slot
    let r := recOwned e.recd slot phjob
    let q : QRec := { QRec.fresh r with evalOf := some (lineOf pa), pool := ref }
    (s.pushQueue die (if spec then 0 else recPrio r) q).launchAdd slot 1

/-- R326: where a speculative evaluation of launch `slot` is started. -/
def specFrom (p : Pkg) (slot : Nat) : Option SpecFrom :=
  (launchAt p slot).map fun l => { slot := some slot, graph := some l.graph, phase := phaseKey l.job l.phase, job := l.job }

/-- R327: a SUSPENDED cell becomes PENDING with an evaluator in launch `slot`. -/
def State.startEval (s : State) (pa slot phjob trig : Nat) (region : Option (Nat × Nat)) : State :=
  let r := recAt s.pkg (lineOf pa)
  let (ref, s) := s.newRef trig
  let e : PoolEntry := { PoolEntry.fresh r trig with evalOf := some (lineOf pa), region, spec := if region.isSome then specFrom s.pkg slot else none }
  let s := s.modPkg fun p => writePending (setPool p ref (some e)) pa ref 0 0 0 slot false region.isSome
  s.queueEval pa ref slot phjob trig region.isSome

/-- R326: what is left of a speculative evaluation that is over while its evaluator still runs: the bounds on what it may write. -/
def PoolEntry.bounds (e : PoolEntry) : Option PoolEntry := if e.region.isSome then some { e with evalOf := none, held := none } else none

/-- The evaluator has ended, and so have its bounds. -/
def State.dropBounds (s : State) (ref : Nat) : State :=
  match poolAt s.pkg ref with
  | some e => if e.region.isSome ∧ e.evalOf.isNone then s.modPkg fun p => setPool p ref none else s
  | none => s

/-- R369: what a dispatcher has to do at a cell is done where the cell can be reached; else it is still to be done. -/
def State.orFar (s : State) (pa ref : Nat) (op : FarOp) (now : State → State) : State :=
  if peerLost s.pkg pa then s.modPkg fun p => { p with farCells := p.farCells ++ [{ pa, ref, op, since := p.clk }] } else now s

/-- R327: the evaluation of cell `pa` from copy `ref` fails: the cell returns to its record, and where its chain is not empty it is evaluated
again at once. -/
def failEvalHere (pa ref : Nat) (s : State) : State :=
  if cellAt s.pkg pa ≠ .pending ∨ cellEvid s.pkg pa ≠ ref then s
  else match copyAt s.pkg pa ref with
    | none => s
    | some e =>
      match (chainOf s.pkg pa).find? fun r => match poolAt s.pkg r with | some w => !w.gone | none => false with
      | none => s.modPkg fun p => writeSuspended (setPool p ref e.bounds) pa e.recd
      | some h =>
        match poolAt s.pkg h with
        | none => s
        | some w =>
          let slot := recLslot w.recd
          let s := s.modPkg fun p =>
            let refs := chainOf p pa
            writePending (setPool p ref (some { e with region := none })) pa ref (refs.headD 0) (refs.getLastD 0) refs.length slot
              false false
          s.queueEval pa ref slot (recPhjob w.recd) w.die false

def State.failEval (s : State) (pa ref : Nat) : State := s.orFar pa ref .failed (failEvalHere pa ref)

/-- R327: an evaluator ends, or is lost: its evaluation fails where the cell still waits for it; a result held aside stands (R326). -/
def evalFailHere (pa ref : Nat) (s : State) : State := (if cellSdone s.pkg pa then s else failEvalHere pa ref s).dropBounds ref

def State.evalFail (s : State) (pa ref : Nat) : State := s.orFar pa ref .ended (evalFailHere pa ref)

/-- R326, R327: SPECOUT: the speculative evaluation of the running unit fails. -/
def State.failSpec (s : State) : State :=
  match s.core.un.evalOf with
  | some pa => s.failEval pa s.core.un.pool
  | none => s

/-- An entry of the pool leaves the chain of its cell. -/
def unlinkHere (pa ref : Nat) (s : State) : State :=
  s.modPkg fun p => setPool (relink p pa ((chainOf p pa).filter fun r => r ≠ ref)) ref none

/-- The same; until the cell can be reached the entry stands in its chain as that of no unit. -/
def State.unlink (s : State) (pa ref : Nat) : State :=
  let ghost (p : Pkg) : Pkg := match poolAt p ref with | some e => setPool p ref (some { e with gone := true }) | none => p
  (s.modPkg ghost).orFar pa ref .unlinked (unlinkHere pa ref)

/-- R323: delivers to one entry of the chain. -/
def State.deliver (s : State) (ref val : Nat) : State :=
  match poolAt s.pkg ref with
  | none => s
  | some e =>
    if e.gone then s.modPkg fun p => setPool p ref none else
    match e.wait with
    | some w =>
      let v := loadValue w.size w.signed (fld val (8 * w.off) (8 * w.size))
      if e.ready then
        (s.modPkg fun p => setPool p ref none).queueUnit e.die
          { QRec.fresh e.recd with deliver := some { dst := w.dst, wbs := w.wbs, v, line := w.line }, evalOf := e.evalOf, pool := e.evalPool, argIdx := e.argIdx, self := e.self }
      else s.modPkg fun p => setPool p ref (some { e with cell := none, next := 0, got := some v })
    | none =>
      let r := putRec (putRec e.recd 4 (fld val 0 32)) 5 (fld val 32 32)
      (s.modPkg fun p => setPool p ref none).queueUnit e.die (QRec.fresh r)

/-- R323, R324: a PENDING cell takes a value and its chain is walked. -/
def State.makeValue (s : State) (pa val : Nat) : State :=
  let refs := chainOf s.pkg pa
  let evid := cellEvid s.pkg pa
  let s := s.modPkg fun p => writeValue (match copyAt p pa evid with | some e => setPool p evid e.bounds | none => p) pa val
  refs.foldl (fun s r => s.deliver r val) s

/-- R324: RESOLVE. `own`: the copy whose evaluator resolves. The answer says whether the cell could be resolved. -/
def State.resolveCell (s : State) (pa val : Nat) (own : Option Nat) : State × Bool :=
  match cellAt s.pkg pa with
  | .value => (s, false)
  | .suspended => (s.modPkg fun p => writeValue p pa val, true)
  | .pending =>
    let evid := cellEvid s.pkg pa
    if cellSpec s.pkg pa ∧ own = some evid ∧ evid ≠ 0 then
      (s.modPkg fun p =>
        let p := match copyAt p pa evid with | some e => setPool p evid (some { e with held := some val }) | none => p
        writePending p pa evid (cellHead p pa) (cellTail p pa) (cellNwait p pa) (cellElslot p pa) true true, true)
    else (s.makeValue pa val, true)

/-- R326: demand on a SPECULATIVE cell: a held value is committed, else the evaluation becomes an ordinary one. -/
def State.demand (s : State) (pa : Nat) : State :=
  if cellAt s.pkg pa = .pending ∧ cellSpec s.pkg pa then
    let evid := cellEvid s.pkg pa
    match copyAt s.pkg pa evid with
    | some e =>
      (match e.held with
       | some v => if cellSdone s.pkg pa then (s.modPkg fun p => setPool p evid (some { e with region := none })).makeValue pa v else s
       | none => s.modPkg fun p =>
         writePending (setPool p evid (some { e with region := none })) pa evid (cellHead p pa) (cellTail p pa) (cellNwait p pa)
           (cellElslot p pa) false false)
    | none => s
  else s

/-- R326: the speculative evaluation of cell `pa` from copy `ref` is discarded, if nothing has demanded it. -/
def discardHere (pa ref : Nat) (s : State) : State :=
  match copyAt s.pkg pa ref with
  | some e =>
    if e.region.isSome ∧ cellAt s.pkg pa = .pending ∧ cellEvid s.pkg pa = ref ∧ cellSpec s.pkg pa then
      s.modPkg fun p => writeSuspended (setPool p ref e.bounds) pa e.recd
    else s
  | none => s

/-- R326: the speculative evaluations that come from where `dead` says are discarded. -/
def State.discardSpec (s : State) (dead : SpecFrom → Bool) : State :=
  s.pkg.pool.foldl (fun s x =>
    match x.2 with
    | some e =>
      (match e.evalOf, e.spec with
       | some pa, some f => if e.cell.isNone ∧ e.region.isSome ∧ e.wait.isNone ∧ dead f then s.orFar pa x.1 .discarded (discardHere pa x.1) else s
       | _, _ => s)
    | none => s) s

/-- R369: what the dispatchers have still to do at cells is done at those that can be reached; where a peer has not been reached for 2^26 clk the write is
never performed, and its MEMUE is logged. DEDUCED: log entry 136. -/
def farStep (s : State) : State :=
  s.pkg.farCells.foldl (fun s f =>
    let drop (s : State) : State := s.modPkg fun p => { p with farCells := p.farCells.filter fun x => x ≠ f }
    if !peerLost s.pkg f.pa then
      (match f.op with
       | .failed => failEvalHere f.pa f.ref | .ended => evalFailHere f.pa f.ref
       | .discarded => discardHere f.pa f.ref | .unlinked => unlinkHere f.pa f.ref) (drop s)
    else if isPeer f.pa ∧ f.since + 2 ^ 26 ≤ s.clk then (drop s).logH 0 0 (hostCause .memue 7 (f.pa % 2 ^ 52))
    else s) s

end Sys2Proof.Machine
end

