-- ==== Sys2Proof/Machine/Memory.lean ====
section
/-! DEFINITION. Scalar memory access, atomics, the core cache, the carve-out, ordering (R114 to R147) and the tag accesses of
R288: what an operation enqueues, what leaves the two queues, and what is performed. -/

namespace Sys2Proof.Machine

/-! ### The two queues (R125, R139) -/

/-- The accesses of the load queue that read a value. -/
def QOp.isLoad : QOp → Bool
  | .load .. | .loadBefore .. | .tlread _ | .tagget .. | .pcnt _ | .mlook _ | .chunk | .cntrd _ _ => true
  | _ => false

/-- The accesses that write. -/
def QOp.isWrite : QOp → Bool
  | .store .. | .atomic .. | .tagset .. => true
  | _ => false

/-- The physical address an access names. -/
def QOp.place : QOp → Option Nat
  | .load _ pa .. | .loadBefore _ pa .. | .store _ pa .. | .atomic _ _ pa .. | .tagget _ pa | .tagset _ pa _ => some pa
  | .cellmk _ pa .. | .resolve _ pa _ | .resolveOn _ pa _ _ | .freg _ pa _ | .specev _ pa _ => some pa
  | _ => none

/-- R140, R287: the location an access reads or writes: whether it is a tag, its first unit and how many units it has. A tag is a location of
its own for each slot; of the bytes a unit is 8, and a cell operation, like a cell load, takes the whole line. -/
def QOp.span : QOp → Option (Bool × Nat × Nat)
  | .load _ pa _ _ cell _ _ | .loadBefore _ pa _ _ cell .. => some (false, if cell then (pa / 64 * 8, 8) else (pa / 8, 1))
  | .store _ pa .. | .atomic _ _ pa .. | .pcnt pa => some (false, pa / 8, 1)
  | .tagget _ pa | .tagset _ pa _ => some (true, pa / 2048, 1)
  | .cellmk _ pa .. | .resolve _ pa _ | .resolveOn _ pa _ _ | .freg _ pa _ | .specev _ pa _ => some (false, pa / 64 * 8, 8)
  | _ => none

/-- R140: whether two accesses are to one location. -/
def QOp.meets (a b : QOp) : Bool :=
  match a.span, b.span with
  | some (t, i, n), some (u, j, m) => t == u && decide (i < j + m) && decide (j < i + n)
  | _, _ => false

/-- R140: whether an access may be performed before those dispatched before it, `es`: near accesses of one queue keep their order, and so do
accesses to one location. DISPATCH is near. DESIGN CHOICE: log entry 127. -/
def QEntry.ahead (e : QEntry) (es : List QEntry) : Bool :=
  es.all fun f => (f.far || e.far || f.op.isLoad != e.op.isLoad) && !f.op.meets e.op

/-- R125: a full queue stalls issue. -/
def queueWait (store : Bool) (p : State) : Wait :=
  if 64 ≤ qCount (if store then p.core.lsu.storeQ else p.core.lsu.loadQ) then .stall [4] else .go

/-- R119: the 64 KiB page of an address. -/
def pageNo (a : Nat) : Nat := va56 a / 65536

/-- R119: an access whose translation the micro-TLB does not hold waits until the walk ends. DESIGN CHOICE: log entry 47. -/
def tlbWait (a : Nat) (p : State) : Wait :=
  if localBase ≤ va56 a then .go
  else if p.core.lsu.utlb.contains (pageNo a) || p.core.lsu.walked == some (pageNo a) then .go
  else .stall [4]

/-- The waits of an access at `a` that enters a queue. A misaligned access waits for nothing: it faults. -/
def accessWait (h : Head) (store : Bool) (align a : Nat) (p : State) : Wait :=
  activeWait h p (if a % align ≠ 0 then .go else joinWaits [tlbWait a p, queueWait store p])

/-- R116, R138: whether a target is far from the current core. -/
def State.far (s : State) (pa : Nat) : Bool := homeDie s.pkg pa != some (s.no / 64)

/-- Enqueues an operation whose result lands in `dst` and enters the chain of `sl`. -/
def State.enqResult (s : State) (store : Bool) (sl : SSlot) (h : Head) (dst : BitVec 5) (wbs : Bool) (far : Bool) (op : QOp) : State :=
  s.enqueue store { id := 0, op, res := true, chain := sl, wbs, dst, sq := h.sq, tbun := 0, slot := sl.pos.idx, dead := false,
                    far, bank := none, since := 0 }

/-! ### Loads and stores (R123 to R127) -/

/-- R124: the effective address, and the base update of PI. -/
def effAddr (a : Double) (pi : Bool) (ofs : BitVec 14) : Double := if pi then a else a + imm64 ofs

def State.postInc (s : State) (h : Head) (srcA : BitVec 6) (pi : Bool) (a : Double) (ofs : BitVec 14) : State :=
  if pi then s.putEff h.sq 1 (.base (srcA.setWidth 5) (a + imm64 ofs)) else s

/-- R127, R131: whether the core cache may hold the line of a physical address. DEDUCED: log entry 12. -/
def cacheable (dev nc cell : Bool) (pa : Nat) : Bool :=
  !dev && !nc && !cell && (match regionOf pa with | .hbm | .host _ => true | _ => false)

/-- A load. One of a cell page is an acquire at pkg scope (R150), and the bundle after it waits for it (R321). -/
def loadForm (size : Nat) (signed : Bool) (h : Head) (o : LoadOps) : SlotSem :=
  { op := fun p s => guarded h p s fun s =>
      let a := p.core.src .s1 false o.srcA
      let ea := (effAddr a o.pi o.ofs).toNat
      if ea % size ≠ 0 then .trap (slotCause .align 1 0 ea)
      else match translate p p.root .load size ea with
        | .error e => .trap (xerrCause e 1 ea)
        | .ok x =>
          let s := s.postInc h o.srcA o.pi a o.ofs
          let id := s.core.sca.seq
          let s := s.enqResult false .s1 h o.dst o.wbs (p.far x.pa)
            (.load ea x.pa size signed x.cell x.dev (!cacheable x.dev x.nc x.cell x.pa))
          .ok (if x.cell then (s.enqPlain false h false (.acqTok 2 (some id))).modSca fun c => { c with cellStall := some id } else s)
    wait := fun p => accessWait h false size (effAddr (p.core.src .s1 false o.srcA) o.pi o.ofs).toNat p }

def storeForm (size : Nat) (h : Head) (o : StoreOps) : SlotSem :=
  { op := fun p s => guarded h p s fun s =>
      let a := p.core.src .s1 false o.srcA
      let ea := (effAddr a o.pi o.ofs).toNat
      if ea % size ≠ 0 then .trap (slotCause .align 1 0 ea)
      else match translate p p.root .store size ea with
        | .error e => .trap (xerrCause e 1 ea)
        | .ok x =>
          let s := s.postInc h o.srcA o.pi a o.ofs
          .ok (s.enqPlain true h (p.far x.pa) (.store ea x.pa size (p.core.src .s1 true o.srcB) x.dev))
    wait := fun p => accessWait h true size (effAddr (p.core.src .s1 false o.srcA) o.pi o.ofs).toNat p }

def semLdb := loadForm 1 true
def semLdbu := loadForm 1 false
def semLdh := loadForm 2 true
def semLdhu := loadForm 2 false
def semLdw := loadForm 4 true
def semLdwu := loadForm 4 false
def semLdd := loadForm 8 false
def semStb := storeForm 1
def semSth := storeForm 2
def semStw := storeForm 4
def semStd := storeForm 8

/-! ### Atomics (R128 to R130) -/

/-- R144: a release placed just before, an acquire just after. ACAS reads its expected value as SEL reads its condition; with
WBS = 1 it is 0. -/
def atomForm (op : Nat) (h : Head) (o : AtomOps) : SlotSem :=
  { op := fun p s => guarded h p s fun s =>
      let size := if o.sz then 8 else 4
      let ea := (p.core.src .s1 false o.srcA).toNat
      if ea % size ≠ 0 then .trap (slotCause .align 1 0 ea)
      else match translate p p.root .atomic size ea with
        | .error e => .trap (xerrCause e 1 ea)
        | .ok x =>
          let expect : Double := if o.wbs then 0 else dstValue p o.dst
          let s := if o.ord.getLsbD 1 then s.enqPlain true h false (.relTok o.scp) else s
          let id := s.core.sca.seq
          let s := s.enqResult true .s1 h o.dst o.wbs (p.far x.pa)
            (.atomic (BitVec.ofNat 4 op) ea x.pa o.sz (p.core.src .s1 true o.srcB) expect o.ord o.scp)
          .ok (if o.ord.getLsbD 0 then s.enqPlain false h false (.acqTok o.scp (some id)) else s)
    wait := fun p => accessWait h true (if o.sz then 8 else 4) (p.core.src .s1 false o.srcA).toNat p }

def semAadd := atomForm 0
def semAmin := atomForm 1
def semAminu := atomForm 2
def semAmax := atomForm 3
def semAmaxu := atomForm 4
def semAand := atomForm 5
def semAor := atomForm 6
def semAxor := atomForm 7
def semAswap := atomForm 8
def semAcas := atomForm 9

/-- R129: m′ from m, b and the expected value. -/
def atomNew {n : Nat} (op : Nat) (m b e : BitVec n) : BitVec n :=
  match op with
  | 0 => m + b
  | 1 => if m.toInt ≤ b.toInt then m else b
  | 2 => if m.toNat ≤ b.toNat then m else b
  | 3 => if m.toInt ≤ b.toInt then b else m
  | 4 => if m.toNat ≤ b.toNat then b else m
  | 5 => m &&& b
  | 6 => m ||| b
  | 7 => m ^^^ b
  | 8 => b
  | _ => if m = e then b else m

/-! ### RINV, tag accesses, fences (R132, R142, R143, R288) -/

def semRinv (h : Head) (a b : BitVec 6) : SlotSem :=
  { op := fun p s => guarded h p s fun s =>
      .ok (s.enqPlain false h false (.rinv (p.core.src .s1 false a).toNat (p.core.src .s1 true b).toNat))
    wait := fun p => activeWait h p (queueWait false p) }

/-- R289: DEV pages refuse both tag accesses as a byte access; cell pages are allowed. -/
def semTagget (h : Head) (dst : BitVec 5) (wbs : Bool) (a : BitVec 6) : SlotSem :=
  { op := fun p s => guarded h p s fun s =>
      let ea := (p.core.src .s1 false a).toNat
      match translate p p.root .load 1 ea with
      | .error e => .trap (xerrCause e 1 ea)
      | .ok x => .ok (s.enqResult false .s1 h dst wbs (p.far x.pa) (.tagget ea x.pa))
    wait := fun p => accessWait h false 1 (p.core.src .s1 false a).toNat p }

def semTagset (h : Head) (a b : BitVec 6) : SlotSem :=
  { op := fun p s => guarded h p s fun s =>
      let ea := (p.core.src .s1 false a).toNat
      match translate p p.root .store 1 ea with
      | .error e => .trap (xerrCause e 1 ea)
      | .ok x => .ok (s.enqPlain true h (p.far x.pa) (.tagset ea x.pa ((p.core.src .s1 true b).setWidth 16)))
    wait := fun p => accessWait h true 1 (p.core.src .s1 false a).toNat p }

/-- R143: acq 1, rel 2, ar 3. A FENCE never stalls issue. -/
def semFence (h : Head) (ord scp : BitVec 2) : SlotSem :=
  { op := fun p s => guarded h p s fun s =>
      let id := s.core.sca.seq
      .ok (if ord = 1 then s.enqPlain false h false (.acqTok scp none)
        else if ord = 2 then s.enqPlain true h false (.relTok scp)
        else if ord = 3 then
          ((s.modLsu fun l => { l with loadQ := l.loadQ ++ [.plain id (.arTok false scp) h.sq s.core.sca.pc 1 false],
                                       storeQ := l.storeQ ++ [.plain id (.arTok true scp) h.sq s.core.sca.pc 1 false] }).modSca
            fun c => { c with seq := c.seq + 1 })
        else s)
    wait := noWait }

def semQalign (h : Head) : SlotSem :=
  { op := fun p s => guarded h p s fun s =>
      let id := s.core.sca.seq
      .ok ((s.modLsu fun l => { l with loadQ := l.loadQ ++ [.plain id (.alignTok false) h.sq s.core.sca.pc 1 false],
                                       storeQ := l.storeQ ++ [.plain id (.alignTok true) h.sq s.core.sca.pc 1 false] }).modSca
            fun c => { c with seq := c.seq + 1 })
    wait := noWait }

/-! ### Timelines (R147) -/

/-- The value of a timeline counter. -/
def Core.tlValue (c : Core) (n : Nat) : Nat := fget 0 c.eng.tl n

def semTlwait (h : Head) (tl : BitVec 3) (a : BitVec 6) : SlotSem :=
  { op := fun p s => guarded h p s fun s => .ok s
    wait := fun p => activeWait h p (if (p.core.src .s1 false a).toNat ≤ p.core.tlValue tl.toNat then .go else .stall [7]) }

def semTlread (h : Head) (dst : BitVec 5) (wbs : Bool) (tl : BitVec 3) : SlotSem :=
  { op := fun p s => guarded h p s fun s => .ok (s.enqResult false .s1 h dst wbs false (.tlread tl.toNat))
    wait := fun p => activeWait h p (queueWait false p) }

/-! ### The precision counters a program reads (R277, R278) -/

/-- R277: the precise faults of a core-array offset that must be a multiple of `align`. -/
def offsetFault (c : Core) (align slot off : Nat) : Option CauseInfo :=
  if off % align ≠ 0 then some (slotCause .align slot 0 off)
  else if arraySize ≤ off then some (slotCause .xlate slot 7 (localBase + off))
  else if c.carved off then some (slotCause .xlate slot 4 (localBase + off))
  else none

/-- A core-array offset given in a register: a[31:0]. -/
def offsetOf (a : Double) : Nat := fld a.toNat 0 32

/-- R277: the value of double 0, read at its dispatch, then an acquire at sys scope. -/
def semPcnt (sl : SSlot) (h : Head) (dst : BitVec 5) (wbs : Bool) (a : BitVec 6) : SlotSem :=
  { op := fun p s => guarded h p s fun s =>
      let off := offsetOf (p.core.src sl false a)
      match offsetFault p.core 16 sl.pos.idx off with
      | some c => .trap c
      | none =>
        let id := s.core.sca.seq
        .ok ((s.enqResult false sl h dst wbs false (.pcnt (arrayBase p.no + off))).enqPlain false h false (.acqTok 3 (some id)))
    wait := fun p => activeWait h p (queueWait false p) }

/-- R272: the counter word at an offset of the own array. -/
def State.counterWord (s : State) (off : Nat) : Nat := readNat s.pkg (arrayBase s.no + off) 8

/-- R278: a command of a collective context that has not yet written its initial counter words. -/
def Cmd.counting (c : Cmd) : Bool :=
  match c.op with
  | .coll _ _ => c.st == .marker || c.st == .ready
  | _ => false

/-- R278, R353: the faults of PWAIT: those of PCNT, the data error of its counter word among them. -/
def State.pwaitFault (s : State) (off : Nat) : Option CauseInfo :=
  match offsetFault s.core 16 0 off with
  | some c => some c
  | none => if badData s.pkg (arrayBase s.no + off) 8 then some (slotCause .memue 0 0 (localBase + off)) else none

/-- R278: its faults are raised when the bundle is reached; its wait is a permitted point for traps and pre-emption. -/
def semPwait (h : Head) (a b : BitVec 6) : SlotSem :=
  { op := fun p s => guarded h p s fun s =>
      match p.pwaitFault (offsetOf (p.core.src .s0 false a)) with
      | some c => .trap c
      | none => .ok (s.enqPlain false h false (.acqTok 3 none))
    wait := fun p => activeWait h p (
      let off := offsetOf (p.core.src .s0 false a)
      match p.pwaitFault off with
      | some c => .trap c
      | none =>
        let w := p.counterWord off
        if p.core.eng.cmds.any Cmd.counting then .stall [pwaitStallNo]
        else if fld (p.core.src .s0 true b).toNat 0 8 ≤ fld w 0 8 || bit w 8 || bit w 9 then .go else .stall [pwaitStallNo]) }

/-! ### The carve-out (R133 to R137) -/

/-- The capacity of the core cache in lines. Banks in transit hold none. DESIGN CHOICE: log entry 13. -/
def Lsu.cacheLines (l : Lsu) : Nat :=
  2048 * (match l.move with | some m => min m.fromCode m.toCode | none => l.size)

/-- R131: the lines in departing banks are discarded. Which lines lie there is a free choice. DESIGN CHOICE: log entry 13. -/
def discardLines (keep free : Nat) (m : FMap (Option (Nat × BitVec 1024))) : FMap (Option (Nat × BitVec 1024)) :=
  if keep = 0 then [] else (m.filter fun e => Config.cacheVictim (free + e.1) % 2 = 0).take keep

/-- R136: the banks from `lo` up to `hi` read as zeros, empty, with tag 0x0000. -/
def State.clearBanks (s : State) (lo hi : Nat) : State :=
  let a := arrayBase s.no + lo * 65536
  let b := arrayBase s.no + hi * 65536
  s.modPkg fun p => { p with mem := fclear p.mem a b, full := fclear p.full (a / 128) (b / 128),
                             tags := fclear p.tags (a / 2048) (b / 2048) }

/-- R134: a move to size code `c` starts. -/
def State.startMove (s : State) (c : Nat) : State :=
  let old := s.core.lsu.size
  if c = old then s
  else
    let d := if c < old then old - c else c - old
    let s := s.modLsu fun l => { l with size := c, move := some { fromCode := old, toCode := c, fin := s.clk + 640 * d } }
    if c < old then
      let (n, s) := s.takeFree
      s.modLsu fun l => { l with cache := discardLines l.cacheLines n l.cache }
    else s.clearBanks (48 - 4 * c) (48 - 4 * old)

/-- R134: Move. DEDUCED: log entry 79. -/
def State.moveTo (s : State) (c : Nat) : State :=
  if s.core.lsu.move.isSome then s.modLsu fun l => { l with moveNext := some c } else s.startMove c

def semPhase (h : Head) (a : BitVec 6) : SlotSem :=
  { op := fun p s => guarded h p s fun s =>
      let v := (p.core.src .s1 false a).toNat
      .ok ((s.modLsu fun l => { l with phaseno := BitVec.ofNat 16 (fld v 48 16), adapt := false }).moveTo (min (fld v 0 3) 4))
    wait := noWait }

/-- R134, R135: a CARVE that leaves ADAPT 1 begins a new sampling interval. -/
def semCarve (h : Head) (a : BitVec 6) : SlotSem :=
  { op := fun p s => guarded h p s fun s =>
      let v := (p.core.src .s1 false a).toNat
      let lo := min (fld v 0 3) 4
      .ok (s.modLsu fun l => { l with minc := lo, maxc := max (min (fld v 4 3) 4) lo, grow := BitVec.ofNat 8 (fld v 16 8),
                                      shrink := BitVec.ofNat 8 (fld v 24 8), adapt := bit v 8, adaptFrom := s.clk })
    wait := noWait }

/-- R135: the step at the end of a sampling interval: a size outside MIN to MAX moves toward it; else the cache grows, or
shrinks, by one step. DESIGN CHOICE: log entry 14. -/
def adaptStep (l : Lsu) (n more top : Nat) : Nat :=
  if l.size < l.minc then l.size + 1
  else if l.maxc < l.size then l.size - 1
  else if l.grow.toNat * n ≤ 256 * more ∧ l.size < l.maxc then l.size + 1
  else if 256 * top < l.shrink.toNat * n ∧ l.minc < l.size then l.size - 1
  else l.size

/-! ### The core cache (R131) -/

/-- The line a load would hit. -/
def Lsu.hit (l : Lsu) (va pa : Nat) : Option (BitVec 1024) :=
  match fget none l.cache (va56 va / 128) with
  | some (pl, v) => if pl = pa / 128 then some v else none
  | none => none

/-- Writes bytes of a physical location into the resident lines that hold it. -/
def Lsu.touch (l : Lsu) (pa size v : Nat) : Lsu :=
  { l with cache := l.cache.map fun e =>
      match e.2 with
      | some (pl, w) => if pl = pa / 128 then (e.1, some (pl, putFld w (8 * (pa % 128)) (8 * size) v)) else e
      | none => e }

/-- Resident lines of the physical line that holds `pa` take what it holds now. -/
def State.refreshLine (s : State) (pa : Nat) : State :=
  let pl := pa / 128
  if badData s.pkg (pl * 128) 128 then s
  else
    let line : BitVec 1024 := BitVec.ofNat 1024 (readNat s.pkg (pl * 128) 128)
    s.modLsu fun l =>
      { l with cache := l.cache.map fun e => match e.2 with | some (k, _) => if k = pl then (e.1, some (pl, line)) else e | none => e }

/-- A line is allocated; where the cache is full, another leaves it. Resident lines of the same physical line hold what it holds now, so that
the loads of one location never run backward (R141). -/
def State.fillLine (s : State) (va pa : Nat) : State :=
  let cap := s.core.lsu.cacheLines
  let pl := pa / 128
  if cap = 0 ∨ badData s.pkg (pl * 128) 128 then s
  else
    let vl := va56 va / 128
    let (n, s) := if s.core.lsu.cache.length < cap then (0, s) else s.takeFree
    let line : BitVec 1024 := BitVec.ofNat 1024 (readNat s.pkg (pl * 128) 128)
    s.modLsu fun l =>
      let m := (ferase l.cache vl).map fun e => match e.2 with | some (k, _) => if k = pl then (e.1, some (pl, line)) else e | none => e
      let m := if m.length < cap then m else ferase m (nth (fkeys m) (Config.cacheVictim n % m.length))
      { l with cache := fset none m vl (some (pl, line)) }

/-! ### Dispatch (R139 to R144) -/

/-- The accesses dispatched and not performed, and those still queued, that issued before `id`. -/
def Lsu.before (l : Lsu) (id : Nat) : List QEntry :=
  (l.loadQ ++ l.storeQ ++ l.outst).filter fun e => decide (e.id < id)

/-- R143: every earlier load has been performed. -/
def Lsu.loadsDone (l : Lsu) (id : Nat) : Bool := (l.before id).all fun e => !e.op.isLoad

/-- R150: a cell operation is a write for the releases that follow it. -/
def QOp.writes (o : QOp) : Bool :=
  o.isWrite || (match o with | .cellmk .. | .resolve .. | .specev .. | .freg .. => true | _ => false)

/-- R144: whether a write counts in a scope. -/
def QEntry.inScope (s : State) (scp : BitVec 2) (e : QEntry) : Bool :=
  if scp = 0 then (match e.op.place with | some pa => regionOf pa == .array s.no (pa - arrayBase s.no) | none => false)
  else if scp = 1 then !e.far
  else true

/-- R183: an array write of a table entry counts as a near store issued at the entry's issue. -/
def Effect.isArray : Effect → Bool
  | .array .. | .tag .. | .full .. => true
  | _ => false

/-- R143, R144: every earlier store and atomic in scope has been performed; at pkg and sys scope ACKCNT is 0. -/
def State.writesDone (s : State) (id : Nat) (scp : BitVec 2) : Bool :=
  ((s.core.lsu.before id).all fun e => !(e.op.writes && e.inScope s scp)) &&
  (s.core.landings.all fun x => !(x.eff.isArray && decide (x.iss < id))) &&
  (decide (scp.toNat < 2) || s.core.lsu.ackcnt == 0)

/-! ### Levels as CNTRD and CANCEL name them (R317) -/

def State.mySlot (s : State) : Nat := recLslot s.core.un.recd

/-- R317: the level an identity names; bit 31 set: the issuing unit's own. -/
def levelId (s : State) (a : Double) (lvl : Nat) : Option (Level × Nat) :=
  let own := a.getLsbD 31
  let id := fld a.toNat 0 16
  let job := s.core.un.job
  match lvl with
  | 0 => some (.launch, if own then s.mySlot else id)
  | 1 => some (.graph, if own then (match launchAt s.pkg s.mySlot with | some l => l.graph | none => 0) else id)
  | 2 => some (.phase, phaseKey job (if own then recPhase s.core.un.recd else id))
  | 3 => some (.job, if own then job else id)
  | _ => none

/-- R317: counter, COMPLETE and CANCELLED of a level; one that does not exist has counter 0 and neither. DEDUCED: log entry 44. -/
def levelValue (p : Pkg) (lvl : Level) (id : Nat) : Double :=
  let mk (c : Int) (done canc : Bool) : Double := BitVec.ofNat 64 (b2n done * 2 ^ 63 + b2n canc * 2 ^ 62 + (tr 32 c).toNat)
  match lvl with
  | .launch => (match launchAt p id with | some l => mk l.counter l.complete l.cancelled | none => 0)
  | .graph => (match graphAt p id with | some g => mk g.counter g.complete g.cancelled | none => 0)
  | .phase => (match fget none p.phases id with | some x => mk x.counter x.complete x.cancelled | none => 0)
  | .job => (match fget none p.jobs id with | some j => mk j.level.counter j.level.complete j.level.cancelled | none => 0)

/-- R317: what a CNTRD would return now. -/
def State.levelNow (s : State) (a : Double) (lvl : Nat) : Double :=
  match levelId s a lvl with
  | some (l, id) => levelValue s.pkg l id
  | none => 0

/-- What a CNTRD that later accesses have passed would have returned then. -/
def Lsu.passed (l : Lsu) (id : Nat) : Option Double := (l.seen.find? fun x => x.1 == id).map Prod.snd

def Lsu.forget (l : Lsu) (id : Nat) : Lsu := { l with seen := l.seen.filter fun x => x.1 ≠ id }

/-- Whether an entry is the acquire placed after access `id`. -/
def QOp.follows (o : QOp) (id : Nat) : Bool := match o with | .acqTok _ (some k) => k == id | _ => false

/-- R317: the CNTRD that an acquire follows, where its level lacks COMPLETE, or did when a later access passed it: the acquire orders nothing. The
answer is its issue number and what it would return. DEDUCED: log entry 85. -/
def State.openRead (s : State) (o : QOp) : Option (Nat × Double) :=
  match o with
  | .acqTok _ (some k) =>
    match (s.core.lsu.loadQ ++ s.core.lsu.outst).find? fun e => e.id == k with
    | some e =>
      (match e.op with
       | .cntrd a lvl =>
         let v := (s.core.lsu.passed k).getD (s.levelNow a lvl)
         if v.getLsbD 63 then none else some (k, v)
       | _ => none)
    | none => none
  | _ => none

/-- R143: an acquire still in the load queue holds later stores. -/
def State.acquirePending (s : State) (id : Nat) : Bool :=
  s.core.lsu.loadQ.any fun e => (match e.op with | .acqTok _ _ => true | _ => false) && decide (e.id < id) && (s.openRead e.op).isNone

/-- R317: the CNTRDs whose acquire is passed by the dispatch of entry `e`. -/
def State.notePassed (s : State) (store : Bool) (e : QEntry) : State :=
  let held := !e.op.isToken && (match e.op with | .marker _ => false | _ => true)
  let new := (if !store then [e] else if held then s.core.lsu.loadQ.filter fun x => decide (x.id < e.id) else []).filterMap fun x => s.openRead x.op
  s.modLsu fun l => { l with seen := l.seen ++ new.filter fun x => (l.passed x.1).isNone }

/-- Whether the head of a queue may be dispatched. A marker follows the earlier stores to the own array (R146), and a load that hits, like PCNT
(R277), is performed at its dispatch, so it follows what the order of R140 puts before it. DEDUCED: log entry 11. -/
def State.mayDispatch (s : State) (store : Bool) (e : QEntry) : Bool :=
  let l := s.core.lsu
  let ok :=
    match e.op with
    | .acqTok _ after =>
      (s.openRead e.op).isSome || (l.loadsDone e.id && (match after with | some k => (l.before e.id).all fun x => x.id != k | none => true))
    | .relTok scp => l.loadsDone e.id && s.writesDone e.id scp
    | .arTok st scp =>
      (match (if st then l.loadQ else l.storeQ) with | y :: _ => y.id == e.id | [] => false) &&
        l.loadsDone e.id && s.writesDone e.id scp
    | .alignTok st => match (if st then l.loadQ else l.storeQ) with | y :: _ => y.id == e.id | [] => false
    | .marker _ => (l.before e.id).all fun x => !(x.op.writes && x.inScope s 0)
    | .rinv _ _ => (match l.rinvHeld with | some (id, t) => id != e.id || decide (t ≤ s.clk) | none => true)
    | .load va pa _ _ cell dev nc =>
      (!dev || (l.before e.id).all fun x => !(l.loadQ ++ l.storeQ).contains x) &&
        (nc || cell || (l.hit va pa).isNone || e.ahead l.outst)
    | .loadBefore _ _ _ _ _ dev _ _ _ | .store _ _ _ _ dev => !dev || (l.before e.id).all fun x => !(l.loadQ ++ l.storeQ).contains x
    | .pcnt _ => e.ahead l.outst
    | _ => true
  ok && (!store || e.op.isToken || (match e.op with | .marker _ => true | _ => false) || !s.acquirePending e.id) &&
    !(e.far && e.op.isWrite && decide (0xFFFF ≤ l.ackcnt))

/-! ### Returned values (R124, R338) -/

/-- The value an access returns lands at once. An access killed after dispatch returns nothing (R126). One that was in the
queues at a trap entry joins the bank as a record with r = 0 (R338), and one that returns while a step is replayed lands as the stop ends, behind what was
in flight before it (R218). -/
def State.returnValue (s : State) (e : QEntry) (v : Double) : State :=
  if e.dead ∨ !e.res then s
  else
    let x : Pending := { due := s.clk, ord := e.id, iss := e.id, sq := e.sq, tbun := e.tbun, eff := .reg e.chain e.wbs e.dst v }
    match e.bank with
    | some 0 => s.modTrp fun t => { t with bank0recs := t.bank0recs ++ [{ x with due := 0 }] }
    | some b => s.modTrp fun t => let k := t.bank b; t.setBank b { k with recs := k.recs ++ [{ x with due := 0 }] }
    | none =>
      if s.core.trp.assay.isSome then s.modTrp fun t => { t with assayRecs := t.assayRecs ++ [{ x with due := 0 }] }
      else s.modSca fun c => { c with inflight := insPending x c.inflight }

/-- Removes an entry from the accesses in progress. -/
def State.dropOutst (s : State) (id : Nat) : State :=
  s.modLsu fun l => { l with outst := l.outst.filter fun e => e.id ≠ id }

/-- R353: an access whose data or tag fails ECC delivers nothing and raises MEMUE as a D cause. It waits while the reports are
full. DEDUCED: log entry 15. Of a killed access the fault is suppressed, though the MEMUE is logged (R105, R331). -/
def State.accessMemue (s : State) (e : QEntry) (va : Nat) : State :=
  let i := slotCause .memue e.slot 0 va
  if e.dead then (s.logMemue i).dropOutst e.id
  else
    let (s', ok) := s.report i e.tbun 0 0
    if ok then s'.dropOutst e.id else s

/-- The marker of a command has been dispatched (R146). -/
def State.markerOut (s : State) (cmd : Nat) : State :=
  s.modEng fun g => { g with cmds := g.cmds.map fun c => if c.id = cmd then { c with st := .ready } else c }

/-- What leaves the head of a queue, and where it goes. -/
def State.dispatchHead (s : State) (e : QEntry) : State :=
  match e.op with
  | .acqTok _ _ | .relTok _ => s
  | .arTok st _ | .alignTok st =>
    s.modLsu fun l => if st then { l with loadQ := l.loadQ.drop 1 } else { l with storeQ := l.storeQ.drop 1 }
  | .marker c => s.markerOut c
  | .rinv _ _ => s.modLsu fun l => { l with rinvHeld := none }
  | .tlread n => s.returnValue e (BitVec.ofNat 64 (s.core.tlValue n))
  | .pcnt pa =>
    if badData s.pkg pa 8 then s.modLsu fun l => { l with outst := l.outst ++ [e] } else s.returnValue e (BitVec.ofNat 64 (readNat s.pkg pa 8))
  | .load va pa size signed cell _ nc =>
    match (if nc || cell then none else s.core.lsu.hit va pa) with
    | some line => (s.perf 9 1).returnValue e (loadValue size signed (fld line.toNat (8 * (pa % 128)) (8 * size)))
    | none =>
      (if nc || cell then s else s.perf 10 1).modLsu fun l => { l with outst := l.outst ++ [e] }
  | .store _ pa size data _ =>
    s.modLsu fun l => { l.touch pa size data.toNat with outst := l.outst ++ [e], ackcnt := l.ackcnt + b2n e.far }
  | .atomic .. | .tagset .. =>
    s.modLsu fun l => { l with outst := l.outst ++ [e], ackcnt := l.ackcnt + b2n e.far }
  | _ => s.modLsu fun l => { l with outst := l.outst ++ [e] }

/-- R132: the dispatch of a RINV: the lines that overlap its range leave the cache. -/
def Lsu.invalidate (l : Lsu) (a b : Nat) : Lsu :=
  let gone (k : Nat) : Bool :=
    decide (2 ^ 20 ≤ b) || (decide (0 < b) && decide (k * 128 < va56 a + b) && decide (va56 a < k * 128 + 128))
  { l with cache := l.cache.filter fun x => !gone x.1 }

/-- R132: how long a RINV that has not been dispatched will hold the head of the load queue. -/
def Lsu.rinvHold (l : Lsu) (e : QEntry) : Option (Nat × Nat × Nat) :=
  match e.op with
  | .rinv a b => if (match l.rinvHeld with | some (id, _) => id == e.id | none => false) then none else some (a, b, cdiv (min b (2 ^ 20)) 16384)
  | _ => none

/-- QUEUE_DISPATCH: the head of a queue, if it may leave. A RINV is dispatched at the head and leaves it when its clk have passed. -/
def queueStep (store : Bool) (s : State) : State :=
  match (if store then s.core.lsu.storeQ else s.core.lsu.loadQ) with
  | [] => s
  | e :: rest =>
    match s.core.lsu.rinvHold e with
    | some (a, b, n) => s.modLsu fun l => { l.invalidate a b with rinvHeld := some (e.id, s.clk + n) }
    | none =>
      if s.mayDispatch store e then
        ((s.notePassed store e).modLsu fun l => if store then { l with storeQ := rest } else { l with loadQ := rest }).dispatchHead { e with since := s.clk }
      else s

/-! ### Performance (R138, R140) -/

/-- R140: whether an access in progress may be performed now. -/
def mayPerform (e : QEntry) (es : List QEntry) : Bool :=
  es.any (fun f => f.id == e.id) && e.ahead (es.takeWhile fun f => f.id != e.id)

/-- The bytes read at a physical address by a scalar access. -/
def State.readPhys (s : State) (pa n : Nat) : Nat :=
  match regionOf pa with
  | .device off => leNat (readRegBytes s off n)
  | _ => readNat s.pkg pa n

/-- The write of a scalar access at a physical address. -/
def State.writePhys (s : State) (pa n v : Nat) : State :=
  match regionOf pa with
  | .device off => s.writeRegBytes off n v
  | _ => s.modPkg fun p => writeNat p pa n v

/-- A far write that is performed will be acknowledged (R140). -/
def State.performedFar (s : State) (e : QEntry) : State :=
  if e.far then s.modLsu fun l => { l with acks := l.acks ++ [e.id] } else s

/-- The register value of an atomic (R129): a word is sign-extended. -/
def atomReturn (dbl : Bool) (m : Nat) : Double := loadValue (if dbl then 8 else 4) (!dbl) m

/-- R129: an atomic at its point of coherence. -/
def atomStep (op : Nat) (dbl : Bool) (m : Nat) (b e : Double) : Nat :=
  if dbl then (atomNew op (BitVec.ofNat 64 m) b e).toNat
  else (atomNew op (BitVec.ofNat 32 m) (b.setWidth 32) (e.setWidth 32)).toNat

/-- R326: whether a write of the running unit leaves the private region of its speculative evaluation. -/
def State.outside (s : State) (va pa : Nat) : Bool :=
  match fget none s.pkg.pool s.core.un.pool with
  | some x =>
    match x.region with
    | some (base, len) => s.core.un.evalOf.isSome && !(decide (base ≤ va56 va) && decide (va56 va < base + len)) &&
        s.core.un.evalOf != some (pa / 64 * 64)
    | none => false
  | none => false

/-- Removes the write of an access that SPECOUT refuses, and reports it; the evaluation fails (R326, R327). That of a killed access is refused and no
more (R105). DESIGN CHOICE: log entry 139. -/
def State.specOut (s : State) (e : QEntry) (va : Nat) : State :=
  let drop (s : State) : State := (s.dropOutst e.id).performedFar e
  if e.dead then drop s
  else
    let info : CauseInfo := { cause := Cause.specout.no, slot := e.slot, gmask := 0, reason := 0, tl := 0, eng := 5, tlnum := 0, tstat := va }
    let (s', ok) := s.report info e.tbun 8 0
    if ok then (drop s').failSpec else s

/-- ACCESS_PERFORMED for loads, stores, atomics and tag accesses. -/
def performAccess (e : QEntry) (s : State) : State :=
  match e.op with
  | .load va pa size signed cell _ nc =>
    if cell then s
    else if badData s.pkg pa size then s.accessMemue e va
    else
      let m := s.readPhys pa size
      let v := loadValue size signed m
      let s := if nc then s.modLsu fun l => l.touch pa size m else s.fillLine va pa
      (s.dropOutst e.id).returnValue e v
  | .loadBefore va pa size signed cell _ bad was now =>
    if cell then s
    else if bad || badData s.pkg pa size then s.accessMemue e va
    else (s.dropOutst e.id).returnValue e (loadValue size signed (beforeBytes size (readNat s.pkg pa size) was now))
  | .store va pa size data _ =>
    if s.outside va pa then s.specOut e va
    else (((s.dropOutst e.id).writePhys pa size (data.toNat % 2 ^ (8 * size))).modLsu fun l => l.touch pa size data.toNat).performedFar e
  | .atomic op va pa dbl b ex _ _ =>
    let size := if dbl then 8 else 4
    if s.outside va pa then s.specOut e va
    else if badData s.pkg pa size then
      let s' := s.accessMemue e va
      if s'.core.lsu.outst.length < s.core.lsu.outst.length then s'.performedFar e else s
    else
      let m := readNat s.pkg pa size
      let m' := atomStep op.toNat dbl m b ex
      let s := (s.dropOutst e.id).modPkg fun p => writeNat p pa size m'
      ((s.modLsu fun l => l.touch pa size m').performedFar e).returnValue e (atomReturn dbl m)
  | .tagget va pa =>
    if badTag s.pkg pa then s.accessMemue e va
    else
      let v : Half := match regionOf pa with | .host _ => 0 | _ => tagAt s.pkg pa
      (s.dropOutst e.id).returnValue e (v.setWidth 64)
  | .tagset va pa v =>
    if s.outside va pa then s.specOut e va
    else
      let s := match regionOf pa with
        | .host _ => s
        | _ => s.modPkg fun p => setTag p pa v
      (s.dropOutst e.id).performedFar e
  | .pcnt pa => s.accessMemue e (localBase + (pa - arrayBase s.no))
  | _ => s

/-! ### The events -/

/-- An event between bundles: it takes no clk. -/
def event (f : State → State) (s : State) : Host.Outcome State Fault Refusal := .next (if stopped s then s else f s)

/-- WRITE_ACKNOWLEDGEMENT (R140). -/
def execWriteAcknowledgement (s : State) : Host.Outcome State Fault Refusal :=
  event (fun s => if s.core.lsu.acks.isEmpty then s
    else s.modLsu fun l => { l with acks := l.acks.drop 1, ackcnt := l.ackcnt - 1 }) s

/-- R136: the banks that left the cache return empty; a move that waited starts. -/
def moveEnd (s : State) : State :=
  match s.core.lsu.move with
  | some m =>
    if m.fin ≤ s.clk then
      let s := s.modLsu fun l => { l with move := none }
      let s := if m.toCode < m.fromCode then s.clearBanks (48 - 4 * m.fromCode) (48 - 4 * m.toCode) else s
      match s.core.lsu.moveNext with
      | some c => (s.modLsu fun l => { l with moveNext := none }).startMove c
      | none => s
    else s
  | none => s

/-- CARVE_MOVE_END (R136). -/
def execCarveMoveEnd (s : State) : Host.Outcome State Fault Refusal := event moveEnd s

/-- R135: the end of an interval; what the sampled sets showed is free. Its step is a Move: while one drains it waits, in the place of the target that waited
(R134), and the next interval begins where it will have ended. DESIGN CHOICE: log entry 14. -/
def intervalEnd (s : State) : State :=
  let l := s.core.lsu
  if l.adapt ∧ l.adaptFrom + 65536 ≤ s.clk then
    let (k, s) := s.takeFree
    let (n, more, top) := Config.samples k
    let c := adaptStep l n (more % (n + 1)) (top % (n + 1))
    let s := s.modLsu fun x => { x with adaptFrom := x.adaptFrom + 65536 }
    if c = l.size then s
    else
      let s := s.moveTo c
      match s.core.lsu.move with
      | some m => s.modLsu fun x => { x with adaptFrom := if l.move.isSome then m.fin + 640 else m.fin }
      | none => s
  else s

/-- ADAPTIVE_INTERVAL_END (R135). -/
def execAdaptiveIntervalEnd (s : State) : Host.Outcome State Fault Refusal := event intervalEnd s

/-- R148: a buffer that has been full for 2^20 clk is applied at the next bundle boundary, in a stall as well, as though the bundle due had HWIN = 1, with
the stall of 3 clk; where the unit is leaving it stands at its boundary. -/
def ingressFlush (s : State) : State :=
  if !flushDue s then s
  else match s.core.un.st with
    | .running =>
      if s.core.trp.assay.isNone ∧ s.core.sca.hold ≤ s.clk then (s.applyHwin 64).modSca fun c => { c with hold := s.clk + 3, hwinHeld := false, flushHeld := true } else s
    | _ => s.applyHwin 64

/-- INGRESS_FLUSH (R148). -/
def execIngressFlush (s : State) : Host.Outcome State Fault Refusal := event ingressFlush s

/-- LDB (R124). Loads a signed byte. -/
def execLdb (h : Head) (o : LoadOps) (s : State) : Host.Outcome State Fault Refusal :=
  issueSingle (.ldb h o) (semLdb h o) s

/-- LDBU (R124). Loads an unsigned byte. -/
def execLdbu (h : Head) (o : LoadOps) (s : State) : Host.Outcome State Fault Refusal :=
  issueSingle (.ldbu h o) (semLdbu h o) s

/-- LDH (R124). Loads a signed half. -/
def execLdh (h : Head) (o : LoadOps) (s : State) : Host.Outcome State Fault Refusal :=
  issueSingle (.ldh h o) (semLdh h o) s

/-- LDHU (R124). Loads an unsigned half. -/
def execLdhu (h : Head) (o : LoadOps) (s : State) : Host.Outcome State Fault Refusal :=
  issueSingle (.ldhu h o) (semLdhu h o) s

/-- LDW (R124). Loads a signed word. -/
def execLdw (h : Head) (o : LoadOps) (s : State) : Host.Outcome State Fault Refusal :=
  issueSingle (.ldw h o) (semLdw h o) s

/-- LDWU (R124). Loads an unsigned word. -/
def execLdwu (h : Head) (o : LoadOps) (s : State) : Host.Outcome State Fault Refusal :=
  issueSingle (.ldwu h o) (semLdwu h o) s

/-- LDD (R124). Loads a double. -/
def execLdd (h : Head) (o : LoadOps) (s : State) : Host.Outcome State Fault Refusal :=
  issueSingle (.ldd h o) (semLdd h o) s

/-- STB (R124). Stores a byte. -/
def execStb (h : Head) (o : StoreOps) (s : State) : Host.Outcome State Fault Refusal :=
  issueSingle (.stb h o) (semStb h o) s

/-- STH (R124). Stores a half. -/
def execSth (h : Head) (o : StoreOps) (s : State) : Host.Outcome State Fault Refusal :=
  issueSingle (.sth h o) (semSth h o) s

/-- STW (R124). Stores a word. -/
def execStw (h : Head) (o : StoreOps) (s : State) : Host.Outcome State Fault Refusal :=
  issueSingle (.stw h o) (semStw h o) s

/-- STD (R124). Stores a double. -/
def execStd (h : Head) (o : StoreOps) (s : State) : Host.Outcome State Fault Refusal :=
  issueSingle (.std h o) (semStd h o) s

/-- RINV (R132). Invalidates core-cache lines that overlap a range. -/
def execRinv (h : Head) (a b : BitVec 6) (s : State) : Host.Outcome State Fault Refusal :=
  issueSingle (.rinv h a b) (semRinv h a b) s

/-- AADD (R129). Atomic add. -/
def execAadd (h : Head) (o : AtomOps) (s : State) : Host.Outcome State Fault Refusal :=
  issueSingle (.aadd h o) (semAadd h o) s

/-- AMIN (R129). Atomic signed minimum. -/
def execAmin (h : Head) (o : AtomOps) (s : State) : Host.Outcome State Fault Refusal :=
  issueSingle (.amin h o) (semAmin h o) s

/-- AMINU (R129). Atomic unsigned minimum. -/
def execAminu (h : Head) (o : AtomOps) (s : State) : Host.Outcome State Fault Refusal :=
  issueSingle (.aminu h o) (semAminu h o) s

/-- AMAX (R129). Atomic signed maximum. -/
def execAmax (h : Head) (o : AtomOps) (s : State) : Host.Outcome State Fault Refusal :=
  issueSingle (.amax h o) (semAmax h o) s

/-- AMAXU (R129). Atomic unsigned maximum. -/
def execAmaxu (h : Head) (o : AtomOps) (s : State) : Host.Outcome State Fault Refusal :=
  issueSingle (.amaxu h o) (semAmaxu h o) s

/-- AAND (R129). Atomic AND. -/
def execAand (h : Head) (o : AtomOps) (s : State) : Host.Outcome State Fault Refusal :=
  issueSingle (.aand h o) (semAand h o) s

/-- AOR (R129). Atomic OR. -/
def execAor (h : Head) (o : AtomOps) (s : State) : Host.Outcome State Fault Refusal :=
  issueSingle (.aor h o) (semAor h o) s

/-- AXOR (R129). Atomic XOR. -/
def execAxor (h : Head) (o : AtomOps) (s : State) : Host.Outcome State Fault Refusal :=
  issueSingle (.axor h o) (semAxor h o) s

/-- ASWAP (R129). Atomic swap. -/
def execAswap (h : Head) (o : AtomOps) (s : State) : Host.Outcome State Fault Refusal :=
  issueSingle (.aswap h o) (semAswap h o) s

/-- ACAS (R129). Atomic compare and swap. -/
def execAcas (h : Head) (o : AtomOps) (s : State) : Host.Outcome State Fault Refusal :=
  issueSingle (.acas h o) (semAcas h o) s

/-- PHASE (R134). Sets the phase number and moves the carve-out to a fixed size. -/
def execPhase (h : Head) (a : BitVec 6) (s : State) : Host.Outcome State Fault Refusal :=
  issueSingle (.phase h a) (semPhase h a) s

/-- CARVE (R134). Sets the adaptive carve-out limits and thresholds. -/
def execCarve (h : Head) (a : BitVec 6) (s : State) : Host.Outcome State Fault Refusal :=
  issueSingle (.carve h a) (semCarve h a) s

/-- FENCE (R143). Places acquire, release or acquire-release tokens in the queues. -/
def execFence (h : Head) (ord : BitVec 2) (scp : BitVec 2) (s : State) : Host.Outcome State Fault Refusal :=
  issueSingle (.fence h ord scp) (semFence h ord scp) s

/-- QALIGN (R142). Places a token in both queues so earlier accesses dispatch first. -/
def execQalign (h : Head) (s : State) : Host.Outcome State Fault Refusal :=
  issueSingle (.qalign h) (semQalign h) s

/-- TLWAIT (R147). Stalls until a timeline counter reaches a value. -/
def execTlwait (h : Head) (tl : BitVec 3) (a : BitVec 6) (s : State) : Host.Outcome State Fault Refusal :=
  issueSingle (.tlwait h tl a) (semTlwait h tl a) s

/-- TLREAD (R147). Reads a timeline counter through the load queue. -/
def execTlread (h : Head) (dst : BitVec 5) (wbs : Bool) (tl : BitVec 3) (s : State) : Host.Outcome State Fault Refusal :=
  issueSingle (.tlread h dst wbs tl) (semTlread h dst wbs tl) s

/-- TAGGET (R288). Reads a tile slot's tag. -/
def execTagget (h : Head) (dst : BitVec 5) (wbs : Bool) (a : BitVec 6) (s : State) : Host.Outcome State Fault Refusal :=
  issueSingle (.tagget h dst wbs a) (semTagget h dst wbs a) s

/-- TAGSET (R288). Writes a tile slot's tag. -/
def execTagset (h : Head) (a b : BitVec 6) (s : State) : Host.Outcome State Fault Refusal :=
  issueSingle (.tagset h a b) (semTagset h a b) s

/-- PCNT (R277). Reads a precision counter word with an implied acquire. -/
def execPcnt (sl : SSlot) (h : Head) (dst : BitVec 5) (wbs : Bool) (a : BitVec 6) (s : State) : Host.Outcome State Fault Refusal :=
  issueSingle (.pcnt sl h dst wbs a) (semPcnt sl h dst wbs a) s

/-- PWAIT (R278). Stalls until a precision counter reaches a threshold or freezes. -/
def execPwait (h : Head) (a b : BitVec 6) (s : State) : Host.Outcome State Fault Refusal :=
  issueSingle (.pwait h a b) (semPwait h a b) s

end Sys2Proof.Machine
end

