-- ==== Sys2Proof/Machine/Special.lean ====
section
/-! DEFINITION. The special functions of R192 and the powers of two of R193 and R194, correctly rounded. The exact value is
enclosed between two rationals; where both round alike, that is the result. Where they do not (which no enclosure of this width
is expected to meet), the result is the opaque `Config.specialTie`. -/

namespace Sys2Proof.Machine

/-- The precision of the enclosures, in bits. -/
def spBits : Nat := 256

/-- floor(ln 2 · 2^256); ln 2 lies between this and one more. -/
def ln2Fix : Nat := 0xb17217f7d1cf79abc9e3b39803f2f6af40f343267298b62d8a0d175b8baafa2b

/-- A lower and an upper bound. -/
abbrev Enc := Rat × Rat

def fixRat (n : Nat) : Rat := mkRat n (2 ^ spBits)
def fixFloor (r : Rat) : Nat := (r.num.natAbs * 2 ^ spBits) / r.den
def fixCeil (r : Rat) : Nat := cdiv (r.num.natAbs * 2 ^ spBits) r.den

/-- Terms of e^x from term `k`, each rounded down: `t` is term k in fixed point. -/
def expDown (x : Nat) : Nat → Nat → Nat → Nat
  | 0, _, _ => 0
  | fuel + 1, k, t => t + expDown x fuel (k + 1) (t * x / (2 ^ spBits * (k + 1)))

/-- The same, each rounded up; the last term stands for the rest of the series. -/
def expUp (x : Nat) : Nat → Nat → Nat → Nat
  | 0, _, t => 2 * t
  | fuel + 1, k, t => t + expUp x fuel (k + 1) (cdiv (t * x) (2 ^ spBits * (k + 1)))

/-- e^x for x between the bounds, 0 ≤ x < 1. -/
def encExp (x : Enc) : Enc :=
  (fixRat (expDown (fixFloor x.1) 80 0 (2 ^ spBits)), fixRat (expUp (fixCeil x.2) 80 0 (2 ^ spBits)))

/-- 2^r. The exponent is bounded by the callers. -/
def encExp2 (r : Rat) : Enc :=
  let n : Int := r.floor
  let f := r - n
  if f = 0 then (pow2 n, pow2 n)
  else
    let e := encExp (f * fixRat ln2Fix, f * fixRat (ln2Fix + 1))
    (e.1 * pow2 n, e.2 * pow2 n)

/-- Terms of atanh z from exponent 2k + 1: `p` is z^(2k+1) in fixed point, rounded down. -/
def atanhDown (z2 : Nat) : Nat → Nat → Nat → Nat
  | 0, _, _ => 0
  | fuel + 1, k, p => p / (2 * k + 1) + atanhDown z2 fuel (k + 1) (p * z2 / 2 ^ spBits)

def atanhUp (z2 : Nat) : Nat → Nat → Nat → Nat
  | 0, _, p => 2 * p
  | fuel + 1, k, p => cdiv p (2 * k + 1) + atanhUp z2 fuel (k + 1) (cdiv (p * z2) (2 ^ spBits))

/-- ln m for 1 ≤ m < 2. -/
def encLn (m : Rat) : Enc :=
  let z := (m - 1) / (m + 1)
  let d := fixFloor z
  let u := fixCeil z
  (2 * fixRat (atanhDown (d * d / 2 ^ spBits) 120 0 d), 2 * fixRat (atanhUp (cdiv (u * u) (2 ^ spBits)) 120 0 u))

/-- log2 a for a > 0. -/
def encLog2 (a : Rat) : Enc :=
  let e := ilog2 a
  let m := a / pow2 e
  if m = 1 then ((e : Rat), (e : Rat))
  else
    let l := encLn m
    ((e : Rat) + l.1 / fixRat (ln2Fix + 1), (e : Rat) + l.2 / fixRat ln2Fix)

/-- e^(−x) for 0 < x ≤ 1024: x / ln 2 is enclosed first. -/
def encExpNeg (x : Rat) : Enc :=
  ((encExp2 (-(x / fixRat ln2Fix))).1, (encExp2 (-(x / fixRat (ln2Fix + 1)))).2)

/-- Rounds an enclosed value of sign `neg` and magnitude between the bounds to an encoding of the format. DESIGN CHOICE: log entry 25. -/
def roundEnc (f : FF) (neg : Bool) (tie : Nat) (e : Enc) : Nat :=
  let lo := roundNE f (.fin neg e.1)
  if lo = roundNE f (.fin neg e.2) then lo else tie % 2 ^ f.width

/-- 2^r rounded: r is an exact real, an infinity or NaN. -/
def exp2Round (f : FF) (tie : Nat) : XR → Nat
  | .nan => f.nanBits
  | .inf n => if n then roundNE f (.fin false 0) else f.infBits false
  | .fin n m =>
    let r := if n then -m else m
    roundEnc f false tie (if 1024 < r then (pow2 1024, pow2 1024) else if r < -1024 then (pow2 (-1024), pow2 (-1024)) else encExp2 r)

/-- The integer square root of `n`, from the highest bit `2^k` down. -/
def isqrtFrom (n : Nat) : Nat → Nat → Nat
  | 0, r => r
  | k + 1, r => let c := r + 2 ^ k; isqrtFrom n k (if c * c ≤ n then c else r)

/-- 1/√a for a > 0: exact where it is rational, else between two neighbours. -/
def encRsq (a : Rat) : Enc :=
  let e : Int := 64 + (ilog2 a) / 2
  let x := (1 / a) * pow2 (2 * e)
  let n := x.floor.toNat
  let r := isqrtFrom n (n.log2 / 2 + 1) 0
  if (r * r : Nat) = x then ((r : Rat) * pow2 (-e), (r : Rat) * pow2 (-e))
  else ((r : Rat) * pow2 (-e) + pow2 (-e - 100), ((r + 1 : Nat) : Rat) * pow2 (-e) - pow2 (-e - 100))

/-- tanh a for a > 0. -/
def encTanh (a : Rat) : Enc :=
  if a < pow2 (-40) then (a - a * a * a, a - a * a * a / 4)
  else if 64 < a then (1 - pow2 (-80), 1)
  else
    let e := encExpNeg (2 * a)
    ((1 - e.2) / (1 + e.2), (1 - e.1) / (1 + e.1))

/-- |a / (1 + e^(−a))| for a ≠ 0 of sign `neg` and magnitude `a`. -/
def encSilu (neg : Bool) (a : Rat) : Enc :=
  if a < pow2 (-40) then
    if neg then (a / 2 - a * a / 4, a / 2 - a * a / 4 + a * a * a * a) else (a / 2 + a * a / 4 - a * a * a * a, a / 2 + a * a / 4)
  else if 1024 < a then (if neg then (pow2 (-1024), pow2 (-1024)) else (a - a * pow2 (-200), a))
  else
    let e := encExpNeg a
    if neg then (a * e.1 / (1 + e.1), a * e.2 / (1 + e.2)) else (a / (1 + e.2), a / (1 + e.1))

/-- R192: the function with code `op` (0 VEXP2, 1 VLOG2, 2 VRCP, 3 VRSQ, 4 VTANH, 5 VSILU) of an exact value, rounded to format `f`.
`key` is the operand's encoding. -/
def special (op : Nat) (f : FF) (key : Nat) (x : XR) : Nat :=
  let tie := Config.specialTie op f.width key
  let zero (n : Bool) : Nat := roundNE f (.fin n 0)
  match x with
  | .nan => f.nanBits
  | .inf n =>
    match op with
    | 0 => if n then zero false else f.infBits false
    | 1 => if n then f.nanBits else f.infBits false
    | 2 => zero n
    | 3 => if n then f.nanBits else zero false
    | 4 => roundNE f (.fin n 1)
    | _ => if n then zero true else f.infBits false
  | .fin n m =>
    if m = 0 then
      match op with
      | 0 => roundNE f (.fin false 1)
      | 1 => f.infBits true
      | 2 | 3 => f.infBits n
      | _ => zero n
    else
      match op with
      | 0 => exp2Round f tie x
      | 1 =>
        if n then f.nanBits
        else
          let e := encLog2 m
          if m < 1 then roundEnc f true tie (-e.2, -e.1) else roundEnc f false tie e
      | 2 => roundNE f (.fin n (1 / m))
      | 3 => if n then f.nanBits else roundEnc f false tie (encRsq m)
      | 4 => roundEnc f n tie (encTanh m)
      | _ => roundEnc f n tie (encSilu n m)

end Sys2Proof.Machine
end

