-- ==== Sys2Proof/Machine/Entry.lean ====
section
/-! DEFINITION. Table entries (R69, R70, and the operand layouts of R173, R174, R178, R182 to R199, R204 to R211): their syntax,
their 64-bit encoding and the table checker. Tables hold the 64-bit words; XEX decodes them. -/

namespace Sys2Proof.Machine

/-- R155: the latency classes. -/
inductive LClass where | nop | x1 | v8 | v16 | m8 | m16 | m32 | l8 | d8 | t16 | q16
  deriving DecidableEq, Repr

def LClass.code : LClass → Nat
  | .nop => 0 | .x1 => 1 | .v8 => 2 | .v16 => 3 | .m8 => 4 | .m16 => 5 | .m32 => 6 | .l8 => 7 | .d8 => 8 | .t16 => 9 | .q16 => 10

/-- The class of a code; codes 11 to 15 are reserved and never stored. -/
def LClass.ofCode : Nat → LClass
  | 1 => .x1 | 2 => .v8 | 3 => .v16 | 4 => .m8 | 5 => .m16 | 6 => .m32 | 7 => .l8 | 8 => .d8 | 9 => .t16 | 10 => .q16 | _ => .nop

/-- R155: the issue interval. -/
def LClass.interval : LClass → Nat
  | .nop => 0 | .x1 => 1 | .v8 => 8 | .v16 => 16 | .m8 => 8 | .m16 => 16 | .m32 => 32 | .l8 => 8 | .d8 => 8 | .t16 => 16 | .q16 => 16

/-- R155: the result latency. -/
def LClass.latency : LClass → Nat
  | .nop => 0 | .x1 => 2 | .v8 => 12 | .v16 => 24 | .m8 => 14 | .m16 => 22 | .m32 => 38 | .l8 => 16 | .d8 => 10 | .t16 => 20
  | .q16 => 24

/-- R187: the element-wise operations, EOP 0x10 to 0x18. -/
inductive VOp where | add | sub | mul | fma | fms | min | max | abs | neg
  deriving DecidableEq, Repr
/-- R188: the bitwise operations, EOP 0x19 to 0x1C. -/
inductive BOp where | and | or | xor | not
  deriving DecidableEq, Repr
/-- R188: the shifts, EOP 0x1D to 0x1F. -/
inductive ShOp where | shl | shr | sar
  deriving DecidableEq, Repr
/-- R189: the compares, EOP 0x20 to 0x23. -/
inductive COp where | eq | ne | lt | le
  deriving DecidableEq, Repr
/-- R190: the reductions, EOP 0x28 to 0x2A. -/
inductive ROp where | rsum | rmax | csum
  deriving DecidableEq, Repr
/-- R192: the special functions, EOP 0x30 to 0x35. -/
inductive FOp where | exp2 | log2 | rcp | rsq | tanh | silu
  deriving DecidableEq, Repr
/-- R204: the step entries, EOP 0x40 to 0x43. -/
inductive MOp where | step | stepq | steps | stepi
  deriving DecidableEq, Repr
/-- R182, R184: TLD, TST, TLDQ and TSTQ, EOP 0x08 to 0x0B. -/
inductive LOp where | tld | tst | tldq | tstq
  deriving DecidableEq, Repr

def VOp.eop : VOp → Nat
  | .add => 0x10 | .sub => 0x11 | .mul => 0x12 | .fma => 0x13 | .fms => 0x14 | .min => 0x15 | .max => 0x16 | .abs => 0x17
  | .neg => 0x18
def BOp.eop : BOp → Nat
  | .and => 0x19 | .or => 0x1A | .xor => 0x1B | .not => 0x1C
def ShOp.eop : ShOp → Nat
  | .shl => 0x1D | .shr => 0x1E | .sar => 0x1F
def COp.eop : COp → Nat
  | .eq => 0x20 | .ne => 0x21 | .lt => 0x22 | .le => 0x23
def ROp.eop : ROp → Nat
  | .rsum => 0x28 | .rmax => 0x29 | .csum => 0x2A
def FOp.eop : FOp → Nat
  | .exp2 => 0x30 | .log2 => 0x31 | .rcp => 0x32 | .rsq => 0x33 | .tanh => 0x34 | .silu => 0x35
def MOp.eop : MOp → Nat
  | .step => 0x40 | .stepq => 0x41 | .steps => 0x42 | .stepi => 0x43
def LOp.eop : LOp → Nat
  | .tld => 0x08 | .tst => 0x09 | .tldq => 0x0A | .tstq => 0x0B

/-- R182: the operands of the tile moves. -/
structure TileOps where
  t : BitVec 5
  pn : BitVec 3
  ps : BitVec 3
  pi : Bool
  tt : Bool
  sp : Bool
  deriving DecidableEq, Repr

/-- R204: the operands of a step. -/
structure StepOps where
  ad : BitVec 2
  ta : BitVec 5
  tb : BitVec 5
  tc : BitVec 5
  ka : BitVec 2
  kb : BitVec 2
  z : Bool
  deriving DecidableEq, Repr

/-- R210: the operands of MRET (RM is zero). -/
structure MretOps where
  acc : BitVec 2
  td : BitVec 5
  kn : BitVec 3
  ks : Bool
  c : Bool
  e : Bool
  em : BitVec 5
  en : BitVec 5
  deriving DecidableEq, Repr

/-- A table entry. `f` is the FMT field. -/
inductive Entry where
  | nop
  | pset (pn : BitVec 3) (b : Bool) (ptr : BitVec 22) (str : BitVec 21)
  | padd (pn : BitVec 3) (m : Bool) (imm : BitVec 21)
  | dsh (td ts : BitVec 5) (k : BitVec 3)
  | dbc (td ts : BitVec 5) (sg : BitVec 3)
  | move (o : LOp) (a : TileOps)
  | tldp (f td : BitVec 5) (pn pc : BitVec 3) (mid : Bool)
  | tmov (td ta : BitVec 5)
  | vfill (f td : BitVec 5) (imm : BitVec 32)
  | viota (f td : BitVec 5) (imm : BitVec 32)
  | elem (o : VOp) (f td ta tb tc : BitVec 5)
  | bits (o : BOp) (td ta tb : BitVec 5)
  | shift (o : ShOp) (f td ta tb : BitVec 5) (h : Bool) (sh : BitVec 5)
  | cmp (o : COp) (f td ta tb : BitVec 5)
  | vsel (f td tm ta tb : BitVec 5)
  | red (o : ROp) (f td ta : BitVec 5)
  | bcast (col : Bool) (f td ta : BitVec 5) (h : Bool)
  | fn (o : FOp) (f td ta : BitVec 5)
  | vsmxm (f tm ts : BitVec 5)
  | vsmxs (f tp ts tm tl : BitVec 5)
  | vcvt (f td ta : BitVec 5) (rm : BitVec 3)
  | vqnt (f td ta : BitVec 5) (kn : BitVec 3) (gs : BitVec 2)
  | vdq (f td ta : BitVec 5) (kn : BitVec 3)
  | vscl (f td ta : BitVec 5) (kn : BitVec 3) (mode : BitVec 2)
  | mstep (o : MOp) (f : BitVec 5) (a : StepOps)
  | mzero (mask : BitVec 4) (int : Bool)
  | mret (f : BitVec 5) (a : MretOps)
  | mchk
  deriving DecidableEq, Repr

/-! ### Formats an entry accepts -/

/-- R187: the arithmetic formats. -/
def arithFmt (f : Nat) : Bool := [1, 2, 3, 8, 9, 0xA, 0x11].contains f
/-- R188: the integer formats of shifts. -/
def shiftFmt (f : Nat) : Bool := [8, 9, 0xA, 0x11].contains f
/-- R192: the wide floating formats. -/
def wideFmt (f : Nat) : Bool := [1, 2, 3].contains f
/-- R186, R196, R210: every format with one value per element and no scale. -/
def plainFmt (f : Nat) : Bool := [1, 2, 3, 4, 5, 8, 9, 0xA, 0x11].contains f
/-- R197, R198: the quantised formats. -/
def quantFmt (f : Nat) : Bool := [6, 7, 0xA, 0xB, 0xC, 0xD].contains f

/-- R203: the FMT values of the step entries. -/
def stepFmt (o : MOp) (f : Nat) : Bool :=
  match o with
  | .step => [2, 3, 4, 5, 6, 7].contains f
  | .stepi => [0xA, 0xB, 0x11].contains f
  | .stepq => [0xC, 0xD].contains f
  | .steps => [2, 3, 4, 5, 0xA, 0xB, 0x11].contains f

/-- R70: the class of a step by its FMT. -/
def stepClass (f : Nat) : LClass :=
  if f = 2 ∨ f = 3 then .m32
  else if [4, 5, 7, 0xA, 0x11, 0xC].contains f then .m16
  else .m8

/-! ### Encoding (R69) -/

def Entry.eop : Entry → Nat
  | .nop => 0x00
  | .pset .. => 0x01
  | .padd .. => 0x02
  | .dsh .. => 0x03
  | .dbc .. => 0x04
  | .move o _ => o.eop
  | .tldp .. => 0x0C
  | .tmov .. => 0x0D
  | .vfill .. => 0x0E
  | .viota .. => 0x0F
  | .elem o .. => o.eop
  | .bits o .. => o.eop
  | .shift o .. => o.eop
  | .cmp o .. => o.eop
  | .vsel .. => 0x24
  | .red o .. => o.eop
  | .bcast col .. => if col then 0x2C else 0x2B
  | .fn o .. => o.eop
  | .vsmxm .. => 0x36
  | .vsmxs .. => 0x37
  | .vcvt .. => 0x38
  | .vqnt .. => 0x39
  | .vdq .. => 0x3A
  | .vscl .. => 0x3B
  | .mstep o .. => o.eop
  | .mzero .. => 0x44
  | .mret .. => 0x45
  | .mchk => 0x46

/-- R70: the class of an entry. -/
def Entry.cls : Entry → LClass
  | .nop => .nop
  | .pset .. | .padd .. | .mzero .. => .x1
  | .dsh .. | .dbc .. => .d8
  | .move .. | .tldp .. => .l8
  | .tmov .. | .vfill .. | .viota .. | .elem .. | .bits .. | .shift .. | .cmp .. | .vsel .. | .bcast .. | .vcvt .. | .vscl .. => .v8
  | .red .. | .fn .. | .vsmxm .. | .vsmxs .. => .v16
  | .vqnt .. | .vdq .. => .q16
  | .mstep _ f _ => stepClass f.toNat
  | .mret .. | .mchk => .t16

/-- The FMT field. -/
def Entry.fmt : Entry → Nat
  | .tldp f .. | .vfill f .. | .viota f .. | .elem _ f .. | .shift _ f .. | .cmp _ f .. | .vsel f .. | .red _ f ..
  | .bcast _ f .. | .fn _ f .. | .vsmxm f .. | .vsmxs f .. | .vcvt f .. | .vqnt f .. | .vdq f .. | .vscl f .. | .mstep _ f _
  | .mret f _ => f.toNat
  | _ => 0

/-- The operand fields: lowest bit, width, value. -/
def Entry.ops : Entry → List Field
  | .nop | .mchk => []
  | .pset pn b ptr str => [(44, 3, pn.toNat), (43, 1, b2n b), (21, 22, ptr.toNat), (0, 21, str.toNat)]
  | .padd pn m imm => [(44, 3, pn.toNat), (43, 1, b2n m), (0, 21, imm.toNat)]
  | .dsh td ts k => [(42, 5, td.toNat), (37, 5, ts.toNat), (34, 3, k.toNat)]
  | .dbc td ts sg => [(42, 5, td.toNat), (37, 5, ts.toNat), (34, 3, sg.toNat)]
  | .move _ a => [(42, 5, a.t.toNat), (39, 3, a.pn.toNat), (36, 3, a.ps.toNat), (35, 1, b2n a.pi), (34, 1, b2n a.tt), (33, 1, b2n a.sp)]
  | .tldp _ td pn pc mid => [(42, 5, td.toNat), (39, 3, pn.toNat), (36, 3, pc.toNat), (35, 1, b2n mid)]
  | .tmov td ta => [(42, 5, td.toNat), (37, 5, ta.toNat)]
  | .vfill _ td imm | .viota _ td imm => [(42, 5, td.toNat), (0, 32, imm.toNat)]
  | .elem _ _ td ta tb tc => [(42, 5, td.toNat), (37, 5, ta.toNat), (32, 5, tb.toNat), (27, 5, tc.toNat)]
  | .bits _ td ta tb => [(42, 5, td.toNat), (37, 5, ta.toNat), (32, 5, tb.toNat)]
  | .shift _ _ td ta tb h sh => [(42, 5, td.toNat), (37, 5, ta.toNat), (32, 5, tb.toNat), (21, 1, b2n h), (16, 5, sh.toNat)]
  | .cmp _ _ td ta tb => [(42, 5, td.toNat), (37, 5, ta.toNat), (32, 5, tb.toNat)]
  | .vsel _ td tm ta tb => [(42, 5, td.toNat), (37, 5, tm.toNat), (32, 5, ta.toNat), (27, 5, tb.toNat)]
  | .red _ _ td ta | .fn _ _ td ta => [(42, 5, td.toNat), (37, 5, ta.toNat)]
  | .bcast _ _ td ta h => [(42, 5, td.toNat), (37, 5, ta.toNat), (21, 1, b2n h)]
  | .vsmxm _ tm ts => [(42, 5, tm.toNat), (37, 5, ts.toNat)]
  | .vsmxs _ tp ts tm tl => [(42, 5, tp.toNat), (37, 5, ts.toNat), (32, 5, tm.toNat), (27, 5, tl.toNat)]
  | .vcvt _ td ta rm => [(42, 5, td.toNat), (37, 5, ta.toNat), (24, 3, rm.toNat)]
  | .vqnt _ td ta kn gs => [(42, 5, td.toNat), (37, 5, ta.toNat), (24, 3, kn.toNat), (22, 2, gs.toNat)]
  | .vdq _ td ta kn => [(42, 5, td.toNat), (37, 5, ta.toNat), (24, 3, kn.toNat)]
  | .vscl _ td ta kn mode => [(42, 5, td.toNat), (37, 5, ta.toNat), (24, 3, kn.toNat), (22, 2, mode.toNat)]
  | .mstep _ _ a => [(45, 2, a.ad.toNat), (40, 5, a.ta.toNat), (35, 5, a.tb.toNat), (30, 5, a.tc.toNat), (28, 2, a.ka.toNat),
      (26, 2, a.kb.toNat), (25, 1, b2n a.z)]
  | .mzero mask int => [(43, 4, mask.toNat), (42, 1, b2n int)]
  | .mret _ a => [(45, 2, a.acc.toNat), (40, 5, a.td.toNat), (37, 3, a.kn.toNat), (36, 1, b2n a.ks), (35, 1, b2n a.c), (34, 1, b2n a.e),
      (29, 5, a.em.toNat), (24, 5, a.en.toNat)]

/-- R69: the entry's fields, class and format before the operands. -/
def Entry.fields (e : Entry) : List Field := (56, 8, e.eop) :: (52, 4, e.cls.code) :: (47, 5, e.fmt) :: e.ops

/-- R69: the 64 bits of an entry. -/
def Entry.encode (e : Entry) : Double := BitVec.ofNat 64 (packFields e.fields)

/-! ### Well-formed entries -/

/-- The conditions on the fields of an entry that the table checker enforces beside zero bits (R69, R70 and the owning rules). VSEL, for which no
rule names the formats, takes the arithmetic formats of R187. DESIGN CHOICE: log entry 101. -/
def Entry.wf : Entry → Bool
  | .nop | .mchk | .dbc .. | .tmov .. => true
  | .pset _ _ ptr _ => decide (ptr.toNat < 0x30_0000)
  | .padd _ m imm => m || imm == 0
  | .dsh _ _ k => k != 0
  | .move o a => (match o with | .tld | .tldq => true | _ => !a.tt)
  | .tldp f .. => wideFmt f.toNat
  | .vfill f .. => plainFmt f.toNat
  | .viota f .. => shiftFmt f.toNat
  | .elem o f _ _ tb tc =>
    arithFmt f.toNat && (match o with | .fma | .fms => true | .abs | .neg => tb == 0 && tc == 0 | _ => tc == 0)
  | .bits o _ _ tb => (match o with | .not => tb == 0 | _ => true)
  | .shift _ f _ _ tb h sh => shiftFmt f.toNat && (if h then decide (sh.toNat < fmtBitsOf f.toNat) && tb == 0 else sh == 0)
  | .cmp _ f .. => arithFmt f.toNat
  | .vsel f .. => arithFmt f.toNat
  | .red _ f .. => arithFmt f.toNat
  | .bcast _ f .. => arithFmt f.toNat
  | .fn _ f .. => wideFmt f.toNat
  | .vsmxm f .. => wideFmt f.toNat
  | .vsmxs f .. => wideFmt f.toNat
  | .vcvt f _ _ rm => plainFmt f.toNat && decide (rm.toNat ≤ 4)
  | .vqnt f _ _ kn gs =>
    quantFmt f.toNat && (f == 0xA || f == 0xB || kn == 0) && (if f == 0xC || f == 0xD then gs != 3 else gs == 0)
  | .vdq f .. => wideFmt f.toNat
  | .vscl f _ _ _ mode => wideFmt f.toNat && mode != 3
  | .mstep o f a => stepFmt o f.toNat && (match o with | .steps => true | _ => a.tc == 0)
  | .mzero mask _ => mask != 0
  | .mret f a => plainFmt f.toNat && (a.ks || a.kn == 0) && (a.e || (a.em == 0 && a.en == 0))
where
  /-- The element width of an integer format. -/
  fmtBitsOf (f : Nat) : Nat := if f = 8 then 32 else if f = 9 then 16 else 8

/-! ### Decoding -/

/-- The entry whose fields stand in a word, by its EOP. -/
def Entry.read (w : Nat) : Option Entry :=
  let f : BitVec 5 := bfld w 47 5
  let td : BitVec 5 := bfld w 42 5
  let ta : BitVec 5 := bfld w 37 5
  let tb : BitVec 5 := bfld w 32 5
  let tc : BitVec 5 := bfld w 27 5
  let kn : BitVec 3 := bfld w 24 3
  let tile : TileOps := { t := td, pn := bfld w 39 3, ps := bfld w 36 3, pi := bit w 35, tt := bit w 34, sp := bit w 33 }
  let step : StepOps := { ad := bfld w 45 2, ta := bfld w 40 5, tb := bfld w 35 5, tc := bfld w 30 5, ka := bfld w 28 2,
                          kb := bfld w 26 2, z := bit w 25 }
  match fld w 56 8 with
  | 0x00 => some .nop
  | 0x01 => some (.pset (bfld w 44 3) (bit w 43) (bfld w 21 22) (bfld w 0 21))
  | 0x02 => some (.padd (bfld w 44 3) (bit w 43) (bfld w 0 21))
  | 0x03 => some (.dsh td ta (bfld w 34 3))
  | 0x04 => some (.dbc td ta (bfld w 34 3))
  | 0x08 => some (.move .tld tile)
  | 0x09 => some (.move .tst tile)
  | 0x0A => some (.move .tldq tile)
  | 0x0B => some (.move .tstq tile)
  | 0x0C => some (.tldp f td (bfld w 39 3) (bfld w 36 3) (bit w 35))
  | 0x0D => some (.tmov td ta)
  | 0x0E => some (.vfill f td (bfld w 0 32))
  | 0x0F => some (.viota f td (bfld w 0 32))
  | 0x10 => some (.elem .add f td ta tb tc)
  | 0x11 => some (.elem .sub f td ta tb tc)
  | 0x12 => some (.elem .mul f td ta tb tc)
  | 0x13 => some (.elem .fma f td ta tb tc)
  | 0x14 => some (.elem .fms f td ta tb tc)
  | 0x15 => some (.elem .min f td ta tb tc)
  | 0x16 => some (.elem .max f td ta tb tc)
  | 0x17 => some (.elem .abs f td ta tb tc)
  | 0x18 => some (.elem .neg f td ta tb tc)
  | 0x19 => some (.bits .and td ta tb)
  | 0x1A => some (.bits .or td ta tb)
  | 0x1B => some (.bits .xor td ta tb)
  | 0x1C => some (.bits .not td ta tb)
  | 0x1D => some (.shift .shl f td ta tb (bit w 21) (bfld w 16 5))
  | 0x1E => some (.shift .shr f td ta tb (bit w 21) (bfld w 16 5))
  | 0x1F => some (.shift .sar f td ta tb (bit w 21) (bfld w 16 5))
  | 0x20 => some (.cmp .eq f td ta tb)
  | 0x21 => some (.cmp .ne f td ta tb)
  | 0x22 => some (.cmp .lt f td ta tb)
  | 0x23 => some (.cmp .le f td ta tb)
  | 0x24 => some (.vsel f td ta tb tc)
  | 0x28 => some (.red .rsum f td ta)
  | 0x29 => some (.red .rmax f td ta)
  | 0x2A => some (.red .csum f td ta)
  | 0x2B => some (.bcast false f td ta (bit w 21))
  | 0x2C => some (.bcast true f td ta (bit w 21))
  | 0x30 => some (.fn .exp2 f td ta)
  | 0x31 => some (.fn .log2 f td ta)
  | 0x32 => some (.fn .rcp f td ta)
  | 0x33 => some (.fn .rsq f td ta)
  | 0x34 => some (.fn .tanh f td ta)
  | 0x35 => some (.fn .silu f td ta)
  | 0x36 => some (.vsmxm f td ta)
  | 0x37 => some (.vsmxs f td ta tb tc)
  | 0x38 => some (.vcvt f td ta kn)
  | 0x39 => some (.vqnt f td ta kn (bfld w 22 2))
  | 0x3A => some (.vdq f td ta kn)
  | 0x3B => some (.vscl f td ta kn (bfld w 22 2))
  | 0x40 => some (.mstep .step f step)
  | 0x41 => some (.mstep .stepq f step)
  | 0x42 => some (.mstep .steps f step)
  | 0x43 => some (.mstep .stepi f step)
  | 0x44 => some (.mzero (bfld w 43 4) (bit w 42))
  | 0x45 => some (.mret f { acc := bfld w 45 2, td := bfld w 40 5, kn := bfld w 37 3, ks := bit w 36, c := bit w 35, e := bit w 34,
                            em := bfld w 29 5, en := bfld w 24 5 })
  | 0x46 => some .mchk
  | _ => none

/-- R69, R70: the table checker on one entry. It accepts the entry whose fields stand in the word only where they are well formed
and the word is exactly that entry's encoding, so that every other bit, the class and the format are right. -/
def Entry.decode (w : Double) : Option Entry :=
  match Entry.read w.toNat with
  | some e => if e.wf && e.encode == w then some e else none
  | none => none

end Sys2Proof.Machine
end

