-- ==== Sys2Proof/Machine/Tile.lean ====
section
/-! DEFINITION. Tiles, descriptors and the checks of table entries (R175 to R182), the tile moves, drift and pointer entries
(R172 to R174, R182 to R186). An entry's meaning is a plan: what it checks and touches, what it changes at issue, and
the results that land. -/

namespace Sys2Proof.Machine

/-! ### Reading the groups' registers -/

def Core.tileOf (c : Core) (g t : Nat) : TileBits := fget 0 c.vec.tiles (32 * g + t)
def Core.sideOf (c : Core) (g t : Nat) : SideBits := fget 0 c.vec.sides (32 * g + t)
def Core.descOf (c : Core) (g t : Nat) : Nat := (fget 0 c.vec.descs (32 * g + t)).toNat
def Core.ptrOf (c : Core) (g p : Nat) : Nat := (fget 0 c.vec.ptrs (8 * g + p)).toNat
def Core.strideOf (c : Core) (g p : Nat) : Int := (fget 0 c.vec.strides (8 * g + p)).toInt
def Core.accOf (c : Core) (g a : Nat) : AccBits := fget 0 c.vec.acc (4 * g + a)
def Core.kreg (c : Core) (n : Nat) : Bits256 := fget 0 c.vec.kregs n
/-- R42: VMODE.VFTZ. -/
def Core.ftz (c : Core) : Bool := c.vec.vmode == 1

/-- Bytes of the current core's own array, as a number. -/
def State.own (s : State) (off n : Nat) : Nat := readNat s.pkg (arrayBase s.no + off) n

/-! ### Descriptors (R176, R177) -/

def dFmt (d : Nat) : Nat := fld d 27 5
def dSpar (d : Nat) : Nat := fld d 24 3
def dLay (d : Nat) : Nat := fld d 20 4
def dGs (d : Nat) : Nat := fld d 18 2
def dRows (d : Nat) : Nat := fld d 8 8 + 1
def dCols (d : Nat) : Nat := fld d 0 8 + 1

/-- A descriptor with VER 0. -/
def mkDesc (fmt spar lay gs rows cols : Nat) : Nat :=
  fmt * 2 ^ 27 + spar * 2 ^ 24 + lay * 2 ^ 20 + gs * 2 ^ 18 + (rows - 1) % 256 * 2 ^ 8 + (cols - 1) % 256

/-- R180: the descriptor derived from source A. -/
def derive (d fmt : Nat) : Nat := mkDesc fmt 0 (dLay d) 0 (dRows d) (dCols d)

/-- R175: the positions of a format; 0 where it has no elements of its own. -/
def npos (fmt : Nat) : Nat := if fmtBits fmt = 0 then 0 else 16384 / fmtBits fmt

/-- R179 reason 0. -/
def descReserved (d : Nat) : Bool :=
  decide (0x12 ≤ dFmt d) || decide (4 ≤ dSpar d) || decide (5 ≤ dLay d) || ((dFmt d == 0xC || dFmt d == 0xD) && dGs d == 3)

/-- R177: formats 0x00 and 0x10 carry no shape. -/
def shapeBad (d : Nat) : Bool :=
  dFmt d != 0 && dFmt d != 0x10 && decide (npos (dFmt d) < dRows d * dCols d)

/-- R179 reason 4. -/
def notDense (d : Nat) : Bool := (decide (1 ≤ dSpar d) && decide (dSpar d ≤ 3)) || dLay d == 4

/-- R177: the position of element (r, c). -/
def posOf (d r c : Nat) : Nat := if dLay d = 1 ∨ dLay d = 3 then c * dRows d + r else r * dCols d + c

/-! ### Elements -/

/-- R175: position `i` of a register of `b`-bit elements. -/
def elemAt (b x i : Nat) : Nat := fld x (b * i) b

/-- The first `n` positions. -/
def elems (b n x : Nat) : List Nat := (List.range n).map fun i => elemAt b x i

/-- A register made of its positions. -/
def packElems (b : Nat) (l : List Nat) : Nat := l.foldr (fun v acc => v + 2 ^ b * acc) 0

/-- R175: the scale-side bytes of a scaled format. -/
def sideBytes (fmt gs : Nat) : Nat :=
  if fmt = 6 ∨ fmt = 7 then npos fmt / 32
  else if fmt = 0xC ∨ fmt = 0xD then 4 * npos fmt / (32 * 2 ^ gs)
  else 0

/-! ### Plans -/

/-- What one group's entry does under one index: the reasons of R179 that hold; the byte ranges of the core array it touches
(R161); the 128-byte lines of its queue and whether it wants them full (R184); the change of state at issue; the results. -/
structure Plan where
  bad : List Nat
  reach : List (Nat × Nat)
  reads : List (Nat × Nat)
  tagRead : List Nat
  lines : List Nat
  wantFull : Bool
  now : State → State
  effs : List Effect

/-- A plan without checks. -/
def Plan.of (effs : List Effect) : Plan :=
  { bad := [], reach := [], reads := [], tagRead := [], lines := [], wantFull := false, now := id, effs }

/-- The reasons that hold. -/
def reasons (l : List (Nat × Bool)) : List Nat := (l.filter fun x => x.2).map fun x => x.1

/-- A plan that checks and writes registers only. -/
def Plan.checked (bad : List (Nat × Bool)) (effs : List Effect) : Plan := { Plan.of effs with bad := reasons bad }

/-- The lowest of the reasons. -/
def lowest : List Nat → Option Nat
  | [] => none
  | r :: rs => match lowest rs with | none => some r | some q => some (min r q)

/-- A tile and its whole descriptor. -/
def tileEffs (g t data d : Nat) : List Effect :=
  [.tile g t (BitVec.ofNat 16384 data), .desc g t 0xFFFFFFFF (BitVec.ofNat 32 d)]

/-! ### Pointers, drift, moves and fills (R173, R174, R186) -/

def planPset (g : Nat) (p : Core) (pn : BitVec 3) (b : Bool) (ptr : BitVec 22) (str : BitVec 21) : Plan :=
  .of [.ptr g pn.toNat (BitVec.ofNat 32 (ptr.toNat + (if b then p.vec.pbase.toNat else 0))), .stride g pn.toNat str]

def planPadd (g : Nat) (p : Core) (pn : BitVec 3) (m : Bool) (imm : BitVec 21) : Plan :=
  .of [.ptr g pn.toNat (tr 32 ((p.ptrOf g pn.toNat : Int) + (if m then imm.toInt else p.strideOf g pn.toNat)))]

/-- R174: the source is read at issue; only the data bytes move. -/
def planPull (g : Nat) (p : Core) (td ts src : Nat) : Plan := .of [.tile g td (p.tileOf src ts)]

def planTmov (g : Nat) (p : Core) (td ta : Nat) : Plan :=
  .of [.tile g td (p.tileOf g ta), .side g td (p.sideOf g ta), .desc g td 0xFFFFFFFF (BitVec.ofNat 32 (p.descOf g ta))]

/-- R186: every position, padding included; the layout and shape of tD's descriptor are kept. -/
def planFill (iota : Bool) (g : Nat) (p : Core) (f td imm : Nat) : Plan :=
  let d := p.descOf g td
  let b := fmtBits f
  let n := npos f
  .checked [(0, decide (5 ≤ dLay d)), (1, decide (n < dRows d * dCols d))]
    (tileEffs g td (packElems b ((List.range n).map fun i => (imm + (if iota then i else 0)) % 2 ^ b)) (derive d f))

/-! ### Tile loads and stores (R182, R184) -/

/-- R182: the governing format's code and group-size code. -/
def governing (o : LOp) (a : TileOps) (g off : Nat) (p : State) : Nat × Nat :=
  if a.tt ∧ (o = .tld ∨ o = .tldq) then
    let tag := (if off < arraySize then tagAt p.pkg (arrayBase p.no + off) else 0).toNat
    (fld tag 11 5, fld tag 2 2)
  else
    let d := p.core.descOf g a.t.toNat
    (dFmt d, dGs d)

/-- The lines of the 2,048 data bytes. -/
def tileLines (off : Nat) : List Nat := (List.range 16).map fun i => off / 128 + i

/-- R182: the post-increment, landing with the data. -/
def piEffs (a : TileOps) (g off : Nat) (p : Core) : List Effect :=
  if a.pi then [.ptr g a.pn.toNat (tr 32 ((off : Int) + p.strideOf g a.pn.toNat))] else []

/-- Little-endian bytes of a register. -/
def regBytes (n v : Nat) : List Byte := leBytes n v

/-- TLD, TST, TLDQ and TSTQ. A load without a tag checks FMT and GSIZE alone of its descriptor, the two it reads. DESIGN CHOICE: log entry 103. -/
def planMove (o : LOp) (a : TileOps) (g : Nat) (p : State) : Plan :=
  let c := p.core
  let t := a.t.toNat
  let off := c.ptrOf g a.pn.toNat
  let ps := c.ptrOf g a.ps.toNat
  let queue := o = .tldq ∨ o = .tstq
  let load := o = .tld ∨ o = .tldq
  let (fmt, gs) := governing o a g off p
  let scaled := fmt = 6 ∨ fmt = 7 ∨ fmt = 0xC ∨ fmt = 0xD
  let len := if (fmt = 0xC ∨ fmt = 0xD) ∧ gs = 3 then 0 else sideBytes fmt gs
  let align := if a.tt then 2048 else if queue then 128 else 64
  let reach := (off, 2048) :: (if scaled then [(ps, len)] else [])
  let bad := reasons [(0, !load && descReserved (c.descOf g t)), (0, decide (0x12 ≤ fmt) || ((fmt == 0xC || fmt == 0xD) && gs == 3)),
    (5, decide (off % align ≠ 0) || (decide scaled && a.sp && decide (ps % 64 ≠ 0))), (8, decide scaled && !a.sp)]
  let lines := if queue then tileLines off else []
  if load then
    let tagEff : List Effect :=
      if a.tt then [.desc g t 0xFFFF0000 (BitVec.ofNat 32 ((tagAt p.pkg (arrayBase p.no + off)).toNat * 2 ^ 16))] else []
    let sideEff : List Effect := if scaled then [.side g t (BitVec.ofNat 4096 (p.own ps len))] else []
    { bad, reach, reads := reach, tagRead := if a.tt then [off] else [], lines, wantFull := true,
      now := fun s => if queue then s.modPkg fun k => setFullN k (arrayBase s.no + off) 16 false else s,
      effs := .tile g t (BitVec.ofNat 16384 (p.own off 2048)) :: sideEff ++ tagEff ++ piEffs a g off c }
  else
    let sideEff : List Effect := if scaled then [.array g ps (regBytes len (c.sideOf g t).toNat)] else []
    let tagEff : List Effect :=
      if off % 2048 = 0 then [.tag g off (BitVec.ofNat 16 (c.descOf g t / 2 ^ 16))] else [.tag g off 0, .tag g (off + 2047) 0]
    { bad, reach, reads := [], tagRead := [], lines, wantFull := false,
      now := fun s => if queue then s.modLsu fun l => { l with claims := l.claims ++ tileLines off } else s,
      effs := .array g off (regBytes 2048 (c.tileOf g t).toNat) :: sideEff ++ tagEff ++
        (if queue then [.full off 16] else []) ++ piEffs a g off c }

/-! ### Plane-form views (R185, R274, R275) -/

/-- R265: the depth of a depth code; what a reserved code gives is open. DESIGN CHOICE: log entry 38. -/
def planeDepth (dcode : Nat) : Nat :=
  match dcode with
  | 0 => 8 | 1 => 12 | 2 => 16 | 3 => 24 | 4 => 32
  | n => Config.planeDepth n

/-- R274: the view of element `i` of a group: `hdr` its header, `plane q` the word of plane q, `c` the planes counted. Where they are more than the group
has, the words that follow count as planes, and the view as complete. DESIGN CHOICE: log entry 112. -/
def planeView (mid : Bool) (c hdr : Nat) (plane : Nat → Nat) (i : Nat) : XR :=
  let kind := fld hdr 30 2
  let depth := planeDepth (fld hdr 27 3)
  let e := sx hdr 16
  let neg := bit (plane 0) i
  let grid (first k : Nat) (complete : Bool) : XR :=
    let m := (List.range k).foldl (fun acc q => 2 * acc + b2n (bit (plane (first + q)) i)) 0
    let w := pow2 (e - k + 1)
    .fin neg ((m : Rat) * w + (if mid && !complete then w / 2 else 0))
  if c = 0 then .fin false 0
  else if kind = 0 then grid 1 (c - 1) (decide (depth ≤ c))
  else if kind = 1 then .fin neg 0
  else if kind = 2 then
    if c ≤ 2 then .nan
    else if bit (plane 1) i then .nan
    else if bit (plane 2) i then .inf neg
    else grid 3 (c - 3) (decide (depth ≤ c))
  else .nan

def planTldp (f : Nat) (td pn pc : Nat) (mid : Bool) (g : Nat) (p : State) : Plan :=
  let off := p.core.ptrOf g pn
  let ctr := p.core.ptrOf g pc
  let n := npos f
  let groups := n / 32
  let c := fld (p.own ctr 8) 0 8
  let hdr (j : Nat) : Nat := p.own (off + 4 * j) 4
  let plane (j q : Nat) : Nat := p.own (off + 128 * (1 + q) + 4 * j) 4
  let ff : FF := (fmtFF f).getD .fp32
  let value (i : Nat) : Nat :=
    flushOut p.core.ftz f (roundNE ff (planeView mid c (hdr (i / 32)) (plane (i / 32)) (i % 32)))
  let touched := if c = 0 then [] else (List.range (c + 1)).map fun q => (off + 128 * q, 4 * groups)
  { bad := reasons [(5, decide (off % 64 ≠ 0) || decide (ctr % 16 ≠ 0))], reach := (ctr, 8) :: touched, reads := (ctr, 8) :: touched,
    tagRead := [], lines := [], wantFull := false, now := id,
    effs := tileEffs g td (packElems (fmtBits f) ((List.range n).map value)) (mkDesc f 0 0 0 groups 32) ++
      [.psnap g (BitVec.ofNat 8 c)] }

end Sys2Proof.Machine
end

