-- ==== Sys2Proof/Machine/Vector.lean ====
section
/-! DEFINITION. The vector entries (R187 to R199): what each checks, computes and lands. -/

namespace Sys2Proof.Machine

/-! ### Sources -/

/-- The checks of one source register: reason 0, shape where `shape` asks for it, reason 4 where `dense` asks for it. The callers ask for the shape of the
sources whose rows and columns, or whose positions by them, the entry uses, and of tM and tL. DESIGN CHOICE: log entry 102. -/
def srcChecks (d : Nat) (shape dense : Bool) : List (Nat × Bool) :=
  [(0, descReserved d), (1, shape && shapeBad d), (4, dense && notDense d)]

/-- R187: a source that must have format `f` and be dense; only tA's shape is checked. -/
def sameFmt (d f : Nat) (shape : Bool) : List (Nat × Bool) := (3, dFmt d != f) :: srcChecks d shape true

/-- The positions of a tile in format `f`. -/
def Core.positions (c : Core) (g t f : Nat) : List Nat := elems (fmtBits f) (npos f) (c.tileOf g t).toNat

/-! ### Exact operations (R187) -/

/-- x < y with −0 below +0. -/
def xltZ (x y : XR) : Bool := xlt x y || (x.isZero && y.isZero && x.sign && !y.sign)

def xmin (x y : XR) : XR := if x.isNan || y.isNan then .nan else if xltZ y x then y else x
def xmax (x y : XR) : XR := if x.isNan || y.isNan then .nan else if xltZ x y then y else x

/-- The exact value of an element-wise operation. -/
def elemX (o : VOp) (a b c : XR) : XR :=
  match o with
  | .add => xadd a b
  | .sub => xsub a b
  | .mul => xmul a b
  | .fma => xadd (xmul a b) c
  | .fms => xsub (xmul a b) c
  | .min => xmin a b
  | .max => xmax a b
  | .abs => a.abs
  | .neg => a.neg

/-- The exact integer of an element-wise operation. -/
def elemI (o : VOp) (a b c : Int) : Int :=
  match o with
  | .add => a + b
  | .sub => a - b
  | .mul => a * b
  | .fma => a * b + c
  | .fms => a * b - c
  | .min => imin a b
  | .max => imax a b
  | .abs => imax a (-a)
  | .neg => -a

/-- R32, R187: one position. An integer result saturates to the range its format is written with, −127 to 127 for INT8. DEDUCED: log entry 89. -/
def elemOne (o : VOp) (ftz : Bool) (f a b c : Nat) : Nat :=
  match fmtFF f with
  | some ff => flushOut ftz f (roundNE ff (elemX o (flushIn ftz f a) (flushIn ftz f b) (flushIn ftz f c)))
  | none =>
    let v := elemI o (intValue f a) (intValue f b) (intValue f c)
    match intProduced f with
    | some (lo, hi) => (tr (fmtBits f) (imin hi (imax lo v))).toNat
    | none => 0

/-- Three lists position by position. -/
def map3 (fn : Nat → Nat → Nat → Nat) : List Nat → List Nat → List Nat → List Nat
  | a :: as, b :: bs, c :: cs => fn a b c :: map3 fn as bs cs
  | _, _, _ => []

/-- The source registers an element-wise entry names after tA. -/
def elemRest (o : VOp) (tb tc : Nat) : List Nat :=
  match o with
  | .fma | .fms => [tb, tc]
  | .abs | .neg => []
  | _ => [tb]

def planElem (o : VOp) (g : Nat) (p : Core) (f td ta tb tc : Nat) : Plan :=
  let d := p.descOf g ta
  let out := map3 (elemOne o p.ftz f) (p.positions g ta f) (p.positions g tb f) (p.positions g tc f)
  .checked (sameFmt d f true ++ ((elemRest o tb tc).map fun t => sameFmt (p.descOf g t) f false).flatten)
    (tileEffs g td (packElems (fmtBits f) out) (derive d f))

/-! ### Bits, shifts, compares and selection (R188, R189) -/

/-- R188: the whole register; the scale side and the descriptor are tA's. -/
def planBits (o : BOp) (g : Nat) (p : Core) (td ta tb : Nat) : Plan :=
  let a := p.tileOf g ta
  let b := p.tileOf g tb
  let v := match o with | .and => a &&& b | .or => a ||| b | .xor => a ^^^ b | .not => ~~~a
  let one := match o with | .not => true | _ => false
  .checked [(0, descReserved (p.descOf g ta) || (!one && descReserved (p.descOf g tb)))]
    [.tile g td v, .side g td (p.sideOf g ta), .desc g td 0xFFFFFFFF (BitVec.ofNat 32 (p.descOf g ta))]

/-- R188: one position of `b` bits. -/
def shiftOne (o : ShOp) (b a n : Nat) : Nat :=
  match o with
  | .shl => a * 2 ^ n % 2 ^ b
  | .shr => a / 2 ^ n
  | .sar => (tr b (sx a b / 2 ^ n)).toNat

def planShift (o : ShOp) (g : Nat) (p : Core) (f td ta tb : Nat) (h : Bool) (sh : Nat) : Plan :=
  let d := p.descOf g ta
  let b := fmtBits f
  let xs := p.positions g ta f
  let ns := if h then xs.map fun _ => sh else (p.positions g tb f).map fun x => x % b
  .checked (sameFmt d f true ++ (if h then [] else sameFmt (p.descOf g tb) f false))
    (tileEffs g td (packElems b ((xs.zip ns).map fun (a, n) => shiftOne o b a n)) (derive d f))

/-- R189: the format of a mask. -/
def maskFmt (f : Nat) : Nat := match fmtBits f with | 32 => 8 | 16 => 9 | _ => 0xA

/-- R189: whether the relation holds. −0 equals +0; NaN is unequal to everything. -/
def relHolds (o : COp) (a b : XR) : Bool :=
  match o with
  | .eq => xeq a b
  | .ne => !xeq a b
  | .lt => xlt a b
  | .le => xlt a b || xeq a b

def planCmp (o : COp) (g : Nat) (p : Core) (f td ta tb : Nat) : Plan :=
  let d := p.descOf g ta
  let ones := 2 ^ fmtBits f - 1
  let one (x : Nat × Nat) : Nat := if relHolds o (flushIn p.ftz f x.1) (flushIn p.ftz f x.2) then ones else 0
  .checked (sameFmt d f true ++ sameFmt (p.descOf g tb) f false)
    (tileEffs g td (packElems (fmtBits f) (((p.positions g ta f).zip (p.positions g tb f)).map one)) (derive d (maskFmt f)))

/-- R189: VSEL moves bits; its mask has an integer format of the entry's width. -/
def planVsel (g : Nat) (p : Core) (f td tm ta tb : Nat) : Plan :=
  let d := p.descOf g ta
  let dm := p.descOf g tm
  let mf := dFmt dm
  let okMask := (mf == 8 || mf == 9 || mf == 0xA || mf == 0x11) && fmtBits mf == fmtBits f
  .checked ((3, !okMask) :: (3, dFmt d != f) :: (3, dFmt (p.descOf g tb) != f) ::
      srcChecks dm false false ++ srcChecks d true false ++ srcChecks (p.descOf g tb) false false)
    (tileEffs g td (packElems (fmtBits f) (map3 (fun m a b => if m ≠ 0 then a else b) (p.positions g tm f) (p.positions g ta f)
      (p.positions g tb f))) (derive d f))

/-! ### Reductions and broadcasts (R190, R191) -/

/-- R190: an exact sum. −0 only where every term is −0. -/
def xsum : List XR → XR
  | [] => .fin false 0
  | x :: xs => xs.foldl xadd x

/-- R190: the largest element, unchanged after the source flush. -/
def rowMax (ftz : Bool) (f : Nat) : List Nat → Nat
  | [] => 0
  | x :: xs =>
    let bits (y : Nat) : Nat := flushOut ftz f y
    let val (y : Nat) : XR := flushIn ftz f y
    if (x :: xs).any fun y => (val y).isNan then (match fmtFF f with | some ff => ff.nanBits | none => 0)
    else xs.foldl (fun m y => if xltZ (val m) (val y) then bits y else m) (bits x)

/-- The rows of a tile, as lists of its positions' values. -/
def tileRows (d : Nat) (xs : List Nat) : List (List Nat) :=
  (List.range (dRows d)).map fun r => (List.range (dCols d)).map fun c => nth xs (posOf d r c)

/-- Its columns. -/
def tileCols (d : Nat) (xs : List Nat) : List (List Nat) :=
  (List.range (dCols d)).map fun c => (List.range (dRows d)).map fun r => nth xs (posOf d r c)

/-- R190: the sum of a row or a column, of its elements as they stand; the result is flushed (R43). -/
def lineSum (ftz : Bool) (f : Nat) (xs : List Nat) : Nat :=
  match fmtFF f with
  | some _ => flushOut ftz 1 (roundNE .fp32 (xsum (xs.map (flushIn false f))))
  | none => (tr 32 (satS ((xs.map (intValue f)).foldl (· + ·) 0) 32)).toNat

def planRed (o : ROp) (g : Nat) (p : Core) (f td ta : Nat) : Plan :=
  let d := p.descOf g ta
  let xs := p.positions g ta f
  let wide := if (fmtFF f).isSome then 1 else 8
  let eff (of : Nat) (vs : List Nat) (rows cols : Nat) : List Effect :=
    tileEffs g td (packElems (fmtBits of) vs) (mkDesc of 0 0 0 rows cols)
  .checked (sameFmt d f true)
    (match o with
     | .rsum => eff wide ((tileRows d xs).map (lineSum p.ftz f)) (dRows d) 1
     | .csum => eff wide ((tileCols d xs).map (lineSum p.ftz f)) 1 (dCols d)
     | .rmax => eff f ((tileRows d xs).map (rowMax p.ftz f)) (dRows d) 1)

/-- The row and column of a position of a shape and layout. -/
def rowCol (d i : Nat) : Nat × Nat :=
  if dLay d = 1 ∨ dLay d = 3 then (i % dRows d, i / dRows d) else (i / dCols d, i % dCols d)

/-- R191: the shape and layout are tD's own. -/
def planBcast (col : Bool) (g : Nat) (p : Core) (f td ta : Nat) (h : Bool) : Plan :=
  let da := p.descOf g ta
  let d := p.descOf g td
  let n := npos f
  let v := p.positions g ta f
  let from0 := if h then n / 2 else 0
  let len := if col then dRows d else dCols d
  let one (i : Nat) : Nat :=
    if dRows d * dCols d ≤ i then 0
    else let rc := rowCol d i; nth v (from0 + if col then rc.1 else rc.2)
  .checked ((3, dFmt da != f) :: (0, decide (5 ≤ dLay d)) :: (4, dLay d == 4) ::
      (1, decide (n < dRows d * dCols d) || decide ((if h then n / 2 else n) < len)) :: srcChecks da false false)
    (tileEffs g td (packElems (fmtBits f) ((List.range n).map one)) (mkDesc f 0 (dLay d) 0 (dRows d) (dCols d)))

/-! ### Special functions (R192) -/

def FOp.code : FOp → Nat
  | .exp2 => 0 | .log2 => 1 | .rcp => 2 | .rsq => 3 | .tanh => 4 | .silu => 5

def planFn (o : FOp) (g : Nat) (p : Core) (f td ta : Nat) : Plan :=
  let d := p.descOf g ta
  let one (x : Nat) : Nat :=
    match fmtFF f with
    | some ff => flushOut p.ftz f (special o.code ff (flushOut p.ftz f x) (flushIn p.ftz f x))
    | none => 0
  .checked (sameFmt d f true) (tileEffs g td (packElems (fmtBits f) ((p.positions g ta f).map one)) (derive d f))

/-! ### Online softmax (R193, R194) -/

/-- The value of an encoding of a wide floating format, flushed. -/
def fval (ftz : Bool) (f x : Nat) : XR := flushIn ftz f x

/-- R193: the new maximum and the rescale factor of a row, as FP32 encodings. -/
def smxmRow (ftz : Bool) (f mo : Nat) (scores : List Nat) : Nat × Nat :=
  let m := fval ftz 1 mo
  let x := fval false f (rowMax ftz f scores)
  let mn := xmax m x
  let a :=
    if mn.isNan then FF.nanBits .fp32
    else if xeq m mn then 0x3F800000
    else
      let d := xsub m mn
      exp2Round .fp32 (Config.specialTie 0 32 (roundNE .fp32 d)) d
  (roundNE .fp32 mn, flushOut ftz 1 a)

/-- A list of replacements as a mask and a value over 32-bit positions. -/
def wordMask (l : List (Nat × Nat)) : TileBits × TileBits :=
  (BitVec.ofNat 16384 (l.foldl (fun m x => m ||| (0xFFFFFFFF <<< (32 * x.1))) 0),
   BitVec.ofNat 16384 (l.foldl (fun m x => m ||| (x.2 <<< (32 * x.1))) 0))

/-- DEDUCED: log entry 28. -/
def planVsmxm (g : Nat) (p : Core) (f tm ts : Nat) : Plan :=
  let d := p.descOf g ts
  let dm := p.descOf g tm
  let old := p.positions g tm 1
  let rows := ((tileRows d (p.positions g ts f)).zip (List.range 256)).map fun (sc, r) => (r, smxmRow p.ftz f (nth old r) sc)
  let mv := wordMask (rows.map (fun x => (x.1, x.2.1)) ++ rows.map fun x => (256 + x.1, x.2.2))
  .checked (sameFmt d f true ++ (2, dFmt dm != 1) :: srcChecks dm true true) [.tileMask g tm mv.1 mv.2]

/-- R194: one score's p. −∞ − (−∞) is taken as −∞. -/
def smxsP (ftz : Bool) (f : Nat) (s mn : XR) : Nat :=
  let d : XR := if s = .inf true ∧ mn = .inf true then .inf true else xsub s mn
  match fmtFF f with
  | some ff => flushOut ftz f (exp2Round ff (Config.specialTie 0 ff.width (roundNE .fp32 d)) d)
  | none => 0

def planVsmxs (g : Nat) (p : Core) (f tp ts tm tl : Nat) : Plan :=
  let d := p.descOf g ts
  let sf := dFmt d
  let ftz := p.ftz
  let mv := p.positions g tm 1
  let lv := p.positions g tl 1
  let scores := p.positions g ts sf
  let mn (r : Nat) : XR := fval ftz 1 (nth mv r)
  let ps := (List.range (npos f)).map fun i =>
    if dRows d * dCols d ≤ i then 0 else smxsP ftz f (fval ftz sf (nth scores i)) (mn (rowCol d i).1)
  let newL (row : List Nat) (r : Nat) : Nat :=
    flushOut ftz 1 (roundNE .fp32 (xsum (xmul (fval ftz 1 (nth mv (256 + r))) (fval ftz 1 (nth lv r)) :: row.map (fval false f))))
  let w := wordMask (((tileRows d ps).zip (List.range 256)).map fun (row, r) => (r, newL row r))
  .checked ((2, !wideFmt sf) :: (1, decide (npos f < dRows d * dCols d)) :: (2, dFmt (p.descOf g tm) != 1) ::
      (2, dFmt (p.descOf g tl) != 1) :: srcChecks d true true ++ srcChecks (p.descOf g tm) true true ++
      srcChecks (p.descOf g tl) true true)
    (tileEffs g tp (packElems (fmtBits f) ps) (derive d f) ++ [.tileMask g tl w.1 w.2])

/-! ### Conversion and quantisation (R195 to R198) -/

/-- R195: the destination's shape: rows (LAYOUT 0 and 2) or columns are multiplied or divided by r. -/
def reshape (d f : Nat) (up : Bool) (r : Nat) : Nat :=
  let k (x : Nat) : Nat := if up then x * r else x / r
  if dLay d = 1 ∨ dLay d = 3 then mkDesc f 0 (dLay d) 0 (dRows d) (k (dCols d))
  else mkDesc f 0 (dLay d) 0 (k (dRows d)) (dCols d)

/-- The dimension a change of width divides or multiplies. -/
def longDim (d : Nat) : Nat := if dLay d = 1 ∨ dLay d = 3 then dCols d else dRows d

/-- R195: an unpadded tile. -/
def unpadded (d : Nat) : Bool := dRows d * dCols d == npos (dFmt d)

/-- The registers of a run that exist. -/
def runOf (t r : Nat) : List Nat := ((List.range r).map fun j => t + j).filter fun t => decide (t < 32)

/-- R195: the ratio of two widths. -/
def ratioOf (a b : Nat) : Nat := if a = 0 ∨ b = 0 then 1 else if b ≤ a then a / b else b / a

/-- R195: the conditions of a change of width from the source format to `f`. `ok` is the set of source formats. -/
def widthChecks (ok : Nat → Bool) (g : Nat) (p : Core) (f td ta : Nat) : List (Nat × Bool) :=
  let d := p.descOf g ta
  let sb := fmtBits (dFmt d)
  let db := fmtBits f
  let r := if ok (dFmt d) then ratioOf sb db else 1
  let narrow := decide (db ≤ sb)
  let srcs := if narrow then runOf ta r else [ta]
  let each (t : Nat) : List (Nat × Bool) :=
    let e := p.descOf g t
    (2, !ok (dFmt e)) :: srcChecks e true true ++
      (if 1 < r then [(1, ok (dFmt e) && !unpadded e),
        (3, dFmt e != dFmt d || dLay e != dLay d || dRows e != dRows d || dCols e != dCols d)] else [])
  (srcs.map each).flatten ++
    (if 1 < r then
      [(6, decide (32 < (if narrow then ta else td) + r)),
       (1, if narrow then decide (256 < longDim d * r) else longDim d % r != 0)] else [])

/-- Lists of `k` elements each, from the front. -/
def chunksOf (k : Nat) : Nat → List Nat → List (List Nat)
  | 0, _ => []
  | n + 1, l => l.take k :: chunksOf k n (l.drop k)

/-- The source positions of a change of width, in destination order. -/
def widthSource (g : Nat) (p : Core) (f ta : Nat) : List Nat :=
  let sf := dFmt (p.descOf g ta)
  let r := ratioOf (fmtBits sf) (fmtBits f)
  let srcs := if fmtBits f ≤ fmtBits sf then runOf ta r else [ta]
  (srcs.map fun t => p.positions g t sf).flatten

/-- The tiles of a change of width: the values in destination order fill the destinations in turn. -/
def widthTiles (g : Nat) (p : Core) (f td ta gs : Nat) (vals : List Nat) : List Effect :=
  let d := p.descOf g ta
  let sb := fmtBits (dFmt d)
  let db := fmtBits f
  let r := ratioOf sb db
  let nd := reshape d f (decide (db ≤ sb)) r + gs * 2 ^ 18
  let n := if db ≤ sb then 1 else r
  (((chunksOf (npos f) n vals).zip (List.range n)).map fun (vs, j) => tileEffs g (td + j) (packElems db vs) nd).flatten

/-- R196: the rounding mode of a field; stochastic rounding takes the draw `u`. -/
def rmode (rm u : Nat) : RMode :=
  match rm with
  | 0 => .rne | 1 => .rtz | 2 => .rup | 3 => .rdn | _ => .rsr u

/-- R41: the generator of a group. -/
def Core.rngOf (c : Core) (g : Nat) : Word32 := fget 1 c.vec.rngs g

def planVcvt (g : Nat) (p : Core) (f td ta rm : Nat) : Plan :=
  let sf := dFmt (p.descOf g ta)
  let src := widthSource g p f ta
  let dr := if rm = 4 then lfsrDraws src.length (p.rngOf g) else (src.map fun _ => 0, p.rngOf g)
  let vals := (src.zip dr.1).map fun (x, u) => flushOut p.ftz f (roundTo f (rmode rm u) (flushIn p.ftz sf x))
  { Plan.checked (widthChecks plainFmt g p f td ta) (widthTiles g p f td ta 0 vals) with
    now := fun s => if rm = 4 then s.modVec fun v => { v with rngs := fset 1 v.rngs g dr.2 } else s }

/-- R199, R43: the FP32 value in bits 31 to 0 of a scale register. -/
def Core.kFp32 (c : Core) (kn : Nat) : XR := flushIn c.ftz 1 (fld (c.kreg kn).toNat 0 32)

/-- R197: a group of QI8 (0x0C) or QI4: its group word and its elements. -/
def qiQuant (f : Nat) (xs : List XR) : Nat × List Nat :=
  let b := fmtBits f
  let qmin : Int := -2 ^ (b - 1)
  let qmax : Int := 2 ^ (b - 1) - 1
  if xs.any (fun x => match x with | .fin _ _ => false | _ => true) then (0x7E00, xs.map fun _ => 0)
  else
    let rs := xs.map XR.toRat
    let lo : Rat := rs.foldl (fun m x => if x < m then x else m) 0
    let hi : Rat := rs.foldl (fun m x => if m < x then x else m) 0
    if hi = lo then (0x3C00, xs.map fun _ => 0)
    else
      let sc0 := roundNE .fp16 (xr false ((hi - lo) / ((qmax - qmin : Int) : Rat)))
      let sc := if fld sc0 0 15 = 0 then 0x0001 else if 0x7C00 ≤ sc0 then 0x7BFF else sc0
      let s := (decodeF .fp16 sc).toRat
      let i32 (x : Rat) : Int := roundI (-2 ^ 31) (2 ^ 31 - 1) .rne (xr false x)
      let z := satS (i32 ((qmin : Rat) - lo / s)) b
      let word := (tr b z).toNat * 2 ^ 16 + sc
      (word, rs.map fun x => (tr b (satS (i32 (x / s + (z : Rat))) b)).toNat)

/-- R31, R197: the elements of every block or group, and their scale bytes in order. -/
def blockQuant (f gs : Nat) (xs : List XR) : List Nat × List Nat :=
  let mx := f = 6 ∨ f = 7
  let k := if mx then 32 else 32 * 2 ^ gs
  let parts := go k (xs.length / k) xs
  let q := parts.map fun b => if mx then mxQuant f (b.map fun _ => .rne) b else qiQuant f b
  ((q.map fun x => x.2).flatten, q.map fun x => x.1)
where
  go (k : Nat) : Nat → List XR → List (List XR)
    | 0, _ => []
    | n + 1, l => l.take k :: go k n (l.drop k)

def planVqnt (g : Nat) (p : Core) (f td ta kn gs : Nat) : Plan :=
  let d := p.descOf g ta
  let sf := dFmt d
  let src := widthSource g p f ta
  let xs := src.map (flushIn p.ftz sf)
  let run := if f = 6 ∨ f = 7 then 32 else 32 * 2 ^ gs
  let line := if dLay d = 1 ∨ dLay d = 3 then dRows d else dCols d
  let base := widthChecks wideFmt g p f td ta
  if f = 0xA ∨ f = 0xB then
    .checked base (widthTiles g p f td ta 0 (xs.map fun x => roundTo f .rne (xmul x (p.kFp32 kn))))
  else
    let q := blockQuant f gs xs
    let side := packElems (if f = 6 ∨ f = 7 then 8 else 32) q.2
    .checked ((1, line % run != 0) :: base) (widthTiles g p f td ta gs q.1 ++ [.side g td (BitVec.ofNat 4096 side)])

/-- R198: the exact value of position `i` of a quantised tile. An integer zero times a negative k is −0. DESIGN CHOICE: log entry 90. -/
def dqValue (c : Core) (f d side kn i x : Nat) : XR :=
  if f = 6 ∨ f = 7 then xmul (elemValue f x) (e8m0 (elemAt 8 side (i / 32)))
  else if f = 0xC ∨ f = 0xD then qiValue f (elemAt 32 side (i / (32 * 2 ^ dGs d))) x
  else xmul (xint (intValue f x)) (c.kFp32 kn)

/-- VDQ (R198). A KN that is not 0 beside a source with scales of its own is ignored. DESIGN CHOICE: log entry 91. -/
def planVdq (g : Nat) (p : Core) (f td ta kn : Nat) : Plan :=
  let d := p.descOf g ta
  let sf := dFmt d
  let side := (p.sideOf g ta).toNat
  let src := p.positions g ta sf
  let ff := (fmtFF f).getD .fp32
  let vals := (src.zip (List.range src.length)).map fun (x, i) => flushOut p.ftz f (roundNE ff (dqValue p sf d side kn i x))
  .checked (widthChecks quantFmt g p f td ta) (widthTiles g p f td ta 0 vals)

/-! ### Scaling (R199) -/

def planVscl (g : Nat) (p : Core) (f td ta kn mode : Nat) : Plan :=
  let d := p.descOf g ta
  let ff := (fmtFF f).getD .fp32
  let k16 (j : Nat) : XR := flushIn p.ftz 3 (fld (p.kreg kn).toNat (16 * (j % 16)) 16)
  let one (xi : Nat × Nat) : Nat :=
    let k : Option XR :=
      if mode = 0 then some (p.kFp32 kn)
      else if dRows d * dCols d ≤ xi.2 then none
      else let rc := rowCol d xi.2; some (k16 (if mode = 1 then rc.2 else rc.1))
    match k with
    | some v => flushOut p.ftz f (roundNE ff (xmul (flushIn p.ftz f xi.1) v))
    | none => 0
  let xs := p.positions g ta f
  .checked (sameFmt d f true) (tileEffs g td (packElems (fmtBits f) ((xs.zip (List.range xs.length)).map one)) (derive d f))

end Sys2Proof.Machine
end

