-- ==== Sys2Proof/Machine/Transform.lean ====
section
/-! DEFINITION. The E slot: the transform unit and the scale path (R220 to R232). -/

namespace Sys2Proof.Machine

/-! ### Codebook banks (R223, R224) -/

/-- R223: the fills of a bank that have issued and not ended. -/
def Core.cbPending (c : Core) (b : Nat) : Nat :=
  (c.eng.cmds.filter fun x => (match x.op with | .cbfill _ k _ => k == b | _ => false) && x.st != .ended).length

/-- R223: the state of a bank: 0 EMPTY, 1 FILLING, 2 VALID, 3 FAILED. -/
def Core.cbState (c : Core) (b : Nat) : Nat :=
  if c.cbPending b ≠ 0 then 1
  else if c.vec.cbMark.getLsbD b then 3
  else if c.vec.cbEver.getLsbD b then 2
  else 0

/-- R223: CBST. -/
def Core.cbst (c : Core) : Nat :=
  c.cbState 0 + c.cbState 1 * 4 + min (c.cbPending 0) 255 * 2 ^ 8 + min (c.cbPending 1) 255 * 2 ^ 16

/-- R224: the codebook stall. -/
def cbWait (h : Head) (b : Nat) (p : State) : Wait := activeWait h p (if p.core.cbState b = 1 then .stall [cbStallNo] else .go)

/-- R221: XFORM. -/
def xformCause (reason tstat : Nat) : CauseInfo := slotCause .xform 4 reason tstat

/-- R221: the tile and group of reasons 3 to 6. -/
def tileWhere (t g : Nat) : Nat := t + g * 2 ^ 8

/-- R222: the reasons of a byte range of the core array. -/
def arrayReasons (c : Core) (align off n : Nat) : List Nat :=
  reasons [(0, off % align != 0),
    (1, (List.range ((off + n - 1) / 65536 + 1 - off / 65536)).any fun i =>
      decide (c.lsu.carveBank ≤ off / 65536 + i) && decide (off / 65536 + i < 48)),
    (2, decide (arraySize < off + n))]

/-- R221, R353: the lowest of the reasons, or MEMUE where the bytes fail ECC. -/
def arrayFault (s : State) (rs : List Nat) (off n tileStat : Nat) : Option CauseInfo :=
  match lowest rs with
  | some r => some (xformCause r (if r ≤ 2 then off else tileStat))
  | none => if badData s.pkg (arrayBase s.no + off) n then some (slotCause .memue 4 0 (localBase + off)) else none

/-- The entry a codebook index selects. -/
def Core.cbEntry (c : Core) (bank slot j : Nat) : Nat := fld (fget 0 c.vec.cb (4 * bank + slot)).toNat (16 * j) 16

/-- `n` indices of a word expanded. -/
def Core.expand (c : Core) (bank slot : Nat) (cb4 : Bool) (n x : Nat) : Nat :=
  packElems 16 ((List.range n).map fun i => c.cbEntry bank slot (if cb4 then fld x (4 * i) 4 else fld x (3 * i) 3))

/-- Results in flight, one after another. -/
def State.putEffs (s : State) (sq : Bool) (n : Nat) (es : List Effect) : State := es.foldl (fun s e => s.putEff sq n e) s

/-- The selected groups. -/
def groupsOf (m : BitVec 8) : List Nat := (List.range 8).filter fun g => m.getLsbD g

/-- R225. -/
def semXpnd (h : Head) (o : XpndOps) : SlotSem :=
  { op := fun p s => guarded h p s fun s =>
      let b := o.bank.toNat
      let st := p.core.cbState b
      let off := offsetOf (p.core.src .s1 false o.a)
      let len := if o.w then 64 else 48
      let rs := arrayReasons p.core 16 off len ++ (if st = 0 ∨ st = 3 then [3] else [])
      match arrayFault p rs off len (tileWhere o.td.toNat ((groupsOf o.gmask).headD 0)) with
      | some c => .trap c
      | none =>
        let v := p.core.expand b o.slot.toNat o.w 128 (p.own off len)
        .ok (s.putEffs h.sq 6 ((groupsOf o.gmask).map fun g => .tileSeg g o.td.toNat (256 * o.blk.toNat) 256 v b))
    wait := cbWait h o.bank.toNat }

/-- R226. -/
def semXpndi (h : Head) (o : XpndiOps) : SlotSem :=
  { op := fun p s => guarded h p s fun s =>
      let b := o.bank.toNat
      let st := p.core.cbState b
      if st = 0 ∨ st = 3 then .trap (xformCause 3 (tileWhere o.td.toNat o.gd.toNat))
      else
        let v := p.core.expand b o.slot.toNat o.w 16 (p.core.src .s1 false o.a).toNat
        .ok (s.putEff h.sq 4 (.tileSeg o.gd.toNat o.td.toNat (32 * o.seg.toNat) 32 v b))
    wait := cbWait h o.bank.toNat }

/-! ### XPOS and XCVTW (R227, R228) -/

/-- R221 reasons 4 to 6 of a source descriptor; `ok`: the operation accepts its format. DEDUCED: log entry 26. -/
def xformReasons (d : Nat) (ok shape : Bool) : List Nat :=
  reasons [(4, decide (0x12 ≤ dFmt d) || decide (4 ≤ dSpar d) || decide (5 ≤ dLay d) || !ok), (5, shapeBad d || shape), (6, notDense d)]

def semXpos (h : Head) (gs : BitVec 3) (ts : BitVec 5) (gd : BitVec 3) (td : BitVec 5) : SlotSem :=
  { op := fun p s => guarded h p s fun s =>
      let d := p.core.descOf gs.toNat ts.toNat
      let f := dFmt d
      match lowest (xformReasons d (plainFmt f) false) with
      | some r => .trap (xformCause r (tileWhere ts.toNat gs.toNat))
      | none =>
        let nd := mkDesc f 0 (dLay d) 0 (dCols d) (dRows d)
        let xs := p.core.positions gs.toNat ts.toNat f
        let one (i : Nat) : Nat := let rc := rowCol nd i; nth xs (posOf d rc.2 rc.1)
        .ok (s.putEffs h.sq 16 (tileEffs gd.toNat td.toNat
          (packElems (fmtBits f) ((List.range (dRows d * dCols d)).map one)) nd))
    wait := noWait }

/-- R228: the source formats of a target. -/
def xcvtPair (src tgt : Nat) : Bool :=
  match tgt with
  | 0xA => src == 0xB
  | 9 => src == 0xA || src == 0x11
  | 8 => src == 9
  | 2 | 3 => src == 4 || src == 5
  | 1 => src == 2 || src == 3
  | _ => false

/-- R40: an exact widening of one value. -/
def widenOne (src tgt x : Nat) : Nat :=
  match fmtFF tgt with
  | some ff => roundNE ff (elemValue src x)
  | none => (tr (fmtBits tgt) (intValue src x)).toNat

def semXcvtw (h : Head) (o : XcvtwOps) : SlotSem :=
  { op := fun p s => guarded h p s fun s =>
      let d := p.core.descOf o.gs.toNat o.ts.toNat
      let f := dFmt d
      let tgt := o.fmt.toNat
      match lowest (xformReasons d (xcvtPair f tgt) (!unpadded d || longDim d % 2 != 0)) with
      | some r => .trap (xformCause r (tileWhere o.ts.toNat o.gs.toNat))
      | none =>
        let n := npos tgt
        let xs := (p.core.positions o.gs.toNat o.ts.toNat f).drop (if o.hi then n else 0)
        .ok (s.putEffs h.sq 4 (tileEffs o.gd.toNat o.td.toNat
          (packElems (fmtBits tgt) ((xs.take n).map (widenOne f tgt))) (reshape d tgt false 2)))
    wait := noWait }

/-! ### Scale registers (R229 to R232) -/

def semKld (h : Head) (kn : BitVec 3) (a : BitVec 6) (sz : Bool) (ofs : BitVec 13) : SlotSem :=
  { op := fun p s => guarded h p s fun s =>
      let off := (tr 32 ((offsetOf (p.core.src .s1 false a) : Int) + ofs.toInt)).toNat
      let n := if sz then 4 else 32
      match arrayFault p (arrayReasons p.core n off n) off n 0 with
      | some c => .trap c
      | none => .ok (s.putEff h.sq 6 (.kreg kn.toNat (BitVec.ofNat 256 (p.own off n))))
    wait := noWait }

def semKset (h : Head) (kn : BitVec 3) (a : BitVec 6) (mode : BitVec 2) (j : BitVec 3) : SlotSem :=
  { op := fun p s => guarded h p s fun s =>
      let v := (p.core.src .s1 false a).toNat
      let e : Effect :=
        if mode = 0 then .kword kn.toNat j.toNat (BitVec.ofNat 32 v)
        else if mode = 1 then .kreg kn.toNat (BitVec.ofNat 256 (packElems 16 ((List.range 16).map fun _ => fld v 0 16)))
        else .kreg kn.toNat (BitVec.ofNat 256 (packElems 32 ((List.range 8).map fun _ => fld v 0 32)))
      .ok (s.putEff h.sq 2 e)
    wait := noWait }

def semKmov (h : Head) (kd ks : BitVec 3) : SlotSem :=
  { op := fun p s => guarded h p s fun s => .ok (s.putEff h.sq 2 (.kreg kd.toNat (p.core.kreg ks.toNat)))
    wait := noWait }

/-- XPND (R225). Expands a CB3 or CB4 block from the core array into BF16 values. -/
def execXpnd (h : Head) (o : XpndOps) (s : State) : Host.Outcome State Fault Refusal :=
  issueSingle (.xpnd h o) (semXpnd h o) s

/-- XPNDI (R226). Expands 16 codebook indices held in a register. -/
def execXpndi (h : Head) (o : XpndiOps) (s : State) : Host.Outcome State Fault Refusal :=
  issueSingle (.xpndi h o) (semXpndi h o) s

/-- XPOS (R227). Transposes a tile register. -/
def execXpos (h : Head) (gs : BitVec 3) (ts : BitVec 5) (gd : BitVec 3) (td : BitVec 5) (s : State) : Host.Outcome State Fault Refusal :=
  issueSingle (.xpos h gs ts gd td) (semXpos h gs ts gd td) s

/-- XCVTW (R228). Widens half of a tile exactly. -/
def execXcvtw (h : Head) (o : XcvtwOps) (s : State) : Host.Outcome State Fault Refusal :=
  issueSingle (.xcvtw h o) (semXcvtw h o) s

/-- KLD (R230). Loads a scale register from the core array. -/
def execKld (h : Head) (kn : BitVec 3) (a : BitVec 6) (sz : Bool) (ofs : BitVec 13) (s : State) : Host.Outcome State Fault Refusal :=
  issueSingle (.kld h kn a sz ofs) (semKld h kn a sz ofs) s

/-- KSET (R231). Writes a scale register from a g register. -/
def execKset (h : Head) (kn : BitVec 3) (a : BitVec 6) (mode : BitVec 2) (j : BitVec 3) (s : State) : Host.Outcome State Fault Refusal :=
  issueSingle (.kset h kn a mode j) (semKset h kn a mode j) s

/-- KMOV (R232). Copies one scale register to another. -/
def execKmov (h : Head) (kd ks : BitVec 3) (s : State) : Host.Outcome State Fault Refusal :=
  issueSingle (.kmov h kd ks) (semKmov h kd ks) s

end Sys2Proof.Machine
end

