-- ==== Sys2Proof/Machine/Engine.lean ====
section
/-! DEFINITION. What every engine command has: its marker and number (R146, R234, R235), its engine's reads and writes of memory
(R246 to R248), its failure, replay and report (R246, R331, R337), and its end (R234). -/

namespace Sys2Proof.Machine

/-! ### Issue (R234, R235) -/

/-- The timeline of the commands that take no number. DESIGN CHOICE: log entry 31. -/
def noTl : Nat := 8

/-- A command as it stands at its issue. -/
def Cmd.fresh (id tl n : Nat) (op : CmdOp) (maj iss tbun : Nat) : Cmd :=
  { id, tl, n, op, maj, st := .marker, iss, tbun, src := none, dst := none, t := 0, parts := [], u := 0, pushed := 0, wait := none,
    startClk := 0, idx := none, beats := [], lost := none, qcore := none, closed := false, rel := false, aux := [], fail := none, replays := 0, inbuf := [], outbuf := [], slots := [], marks := [],
    stags := [] }

/-- R234: the next number of a timeline. -/
def Core.nextNo (c : Core) (tl : Nat) : Nat := fget 0 c.eng.issued tl + 1

/-- A command issues: it takes its number and places its marker, which no kill removes (R235). -/
def State.issueCmd (s : State) (tl : Nat) (op : CmdOp) (maj : Nat) : State :=
  let id := s.core.eng.nextCmd
  let n := if tl = noTl then 0 else s.core.nextNo tl
  let c := Cmd.fresh id tl n op maj s.core.sca.seq s.core.sca.pc
  let s := s.modEng fun e =>
    { e with cmds := e.cmds ++ [c], nextCmd := id + 1, issued := if tl = noTl then e.issued else fset 0 e.issued tl n }
  s.enqueue true (.plain 0 (.marker id) false 0 3 false)

/-- The meaning of a C operation that issues a command. -/
def cmdForm (h : Head) (tl maj : Nat) (op : Core → CmdOp) (also : Core → State → State) : SlotSem :=
  { op := fun p s => guarded h p s fun s => .ok (also p.core (s.issueCmd tl (op p.core) maj))
    wait := fun p => activeWait h p (queueWait true p) }

/-- The sources of a C operation: value 62 reads S1.A and S1.B (R235). -/
def Core.cA (c : Core) (a : BitVec 6) : Double := c.src .s1 false a
def Core.cB (c : Core) (b : BitVec 6) : Double := c.src .s1 true b

/-! ### Commands in flight -/

def State.findCmd (s : State) (id : Nat) : Option Cmd := s.core.eng.cmds.find? fun c => c.id == id

def State.putCmd (s : State) (c : Cmd) : State :=
  s.modEng fun e => { e with cmds := e.cmds.map fun x => if x.id = c.id then c else x }

def State.dropCmd (s : State) (id : Nat) : State :=
  s.modEng fun e => { e with cmds := e.cmds.filter fun x => x.id ≠ id }

/-- The first command of a timeline that has not ended. Commands of one timeline run one at a time, which R234 allows and R163
asks for. DESIGN CHOICE: log entry 30. -/
def Core.head (c : Core) (tl : Nat) : Option Cmd := c.eng.cmds.find? fun x => x.tl == tl && x.st != .ended

/-- R234: the largest n such that every command numbered n or below has ended. -/
def Core.tlReach (c : Core) (tl : Nat) : Nat :=
  ((c.eng.cmds.filter fun x => x.tl == tl && x.st != .ended).map fun x => x.n - 1).foldl min (fget 0 c.eng.issued tl)

/-- COMMAND_END (R234): the timeline advances, and the commands it has passed are forgotten. -/
def advanceTl (tl : Nat) (s : State) : State :=
  let r := s.core.tlReach tl
  s.modEng fun e =>
    { e with tl := if tl = noTl then e.tl else fset 0 e.tl tl (max (fget 0 e.tl tl) r),
             cmds := e.cmds.filter fun x => !(x.tl == tl && x.st == .ended && decide (x.n ≤ r)) }

/-! ### Failures (R246, R331, R337) -/

/-- A cause number and a reason. -/
abbrev EFail := Nat × Nat

def cpyFail (r : Nat) : EFail := (Cause.cpyfail.no, r)

/-- R246: the failure a translation gives: a carved byte is CPYFAIL's CARVED. -/
def xerrFail (e : XErr) : EFail :=
  match e with
  | .xlate r => if r = 4 then cpyFail 3 else (Cause.xlate.no, r)
  | .memue => (Cause.memue.no, 0)
  | .cmpload => (Cause.cmpload.no, 0)

/-- R246: CPYSTAT. -/
def cpyStat (c : Cmd) (done : Nat) (f : EFail) : Nat :=
  min done (2 ^ 32 - 1) * 2 ^ 32 + (if f.1 = Cause.cpyfail.no ∨ f.1 = Cause.xlate.no then f.2 else 0) * 2 ^ 24 + c.maj * 2 ^ 16 +
    (if c.tl < 4 then c.tl else 0) * 2 ^ 14

/-- R334: the engine of a timeline. -/
def engOf (tl : Nat) : Nat := if tl < 4 then 1 else if tl < 6 then 2 else if tl = 6 then 3 else 4

/-- R331: a command that is never restarted: SYNCEN, QEN or FE on a side, a CPYZ, a COLL, a subscription. -/
def Cmd.noRestart (c : Cmd) : Bool :=
  (match c.op with | .coll .. | .hsub .. => true | .copy 5 .. => true | _ => false) ||
  (match c.dst with | some d => bit d.ctl 13 || bit d.ctl 10 || bit d.ctl 12 | none => false) ||
  (match c.src with | some d => bit d.ctl 12 | none => false)

/-- A command as a restart from its descriptors leaves it (R331). -/
def Cmd.restart (c : Cmd) : Cmd :=
  { c with st := .ready, src := none, dst := none, t := 0, parts := [], u := 0, pushed := 0, wait := none, idx := none, beats := [], lost := none, qcore := none,
           closed := false, aux := [], fail := none,
           replays := c.replays + 1, inbuf := [], outbuf := [], slots := [], marks := [], stags := [] }

/-- Whether the unit of the current core is being killed (R331). -/
def Core.dying (c : Core) : Bool := match c.un.st with | .leaving (.killed ..) => true | _ => false

/-- What a translation answers for memory that cannot be reached, and is no failure yet: of another package (R369), of the host (R21). -/
def lostPeer : EFail := (0, 255)
def shutHost : EFail := (0, 254)

/-- R369: a command whose next access cannot be made waits, and fails once a peer has not been reached for 2^26 clk. A host window is waited for until
a port is up. DESIGN CHOICE: log entry 57. -/
def State.orWait (s : State) (c : Cmd) (e : EFail) (fail : EFail → State → State) : State :=
  if e.1 ≠ 0 then fail e s
  else match s.findCmd c.id with
    | none => s
    | some x =>
      let since := match x.lost with | some (k, st, t, u) => if st = x.st ∧ t = x.t ∧ u = x.u then k else s.clk | none => s.clk
      if e = lostPeer ∧ since + 2 ^ 26 ≤ s.clk then fail (Cause.memue.no, 0) s
      else s.putCmd { x with lost := some (since, x.st, x.t, x.u) }

/-- R246, R334: how a command's failure is reported. -/
def Cmd.failInfo (c : Cmd) (f : Failure) : CauseInfo :=
  { cause := f.cause, slot := 3, gmask := 0, reason := f.reason, tl := c.tl, eng := engOf c.tl, tlnum := c.n, tstat := f.tstat }

/-- R331, R337: what follows a failure: the command is replayed by its engine, or reported and ended; it waits while the report
is not accepted. One whose replays are spent ends only as its report is taken, a TFILL in a shift-change wait too: its report is held (R168), SHST
stays FILLING (R153) and the wait ends in SWITCHTO. The action entry is waited for where it cannot be reached (R330). DESIGN CHOICE: log entry 100. DEDUCED:
log entry 137. -/
def settle (c : Cmd) (s : State) : State :=
  match c.st, c.fail with
  | .failed, some f =>
    let info := c.failInfo f
    let act (log : State → State) (s : State) : State :=
      let e := s.actFor f.cause
      if e.act = .replay ∧ !c.noRestart ∧ c.replays < e.rcount then ((log (s.logMemue info)).putCmd c.restart).perf 14 1
      else
        let spent := e.act = .replay
        let (s', ok) := s.report info c.tbun c.tl (if spent then c.id else 0)
        if ok then (log s').putCmd { c with st := if spent then .reported else .ended } else s.putCmd c
    if s.core.dying then (s.logMemue info).putCmd { c with st := .ended }
    else match s.actLost f.cause with
      | none => act id s
      | some pa => s.orWait c (if isPeer pa then lostPeer else shutHost) fun _ s => act (State.logAct · f.cause) s
  | _, _ => s

/-! ### Tags a command leaves (R241, R268) -/

/-- R241: the tag of a slot that a copy has written: `whole` all of it, `carried` the tag carried with its data, `old` the tag it
has, `ctl` the destination's CTL. -/
def copyTag (k ctl : Nat) (whole : Bool) (carried old : Nat) : Nat :=
  let th := fld ctl 14 2
  if !whole || k == 5 then 0
  else if k = 3 then carried
  else if th = 0 then 0
  else if th = 1 then old
  else if th = 2 then fld ctl 16 16
  else carried

/-- R265: a field of the collective descriptor a command has read. -/
def Cmd.cfld (c : Cmd) (lo n : Nat) : Nat := fld (c.aux.getD 0 0) lo n

/-- R268: the tag of a slot that a collective has written. -/
def collTag (dfmt : Nat) (whole : Bool) : Nat := if whole ∧ dfmt ≠ 0x10 then dfmt * 2 ^ 11 else 0

/-- The tag of one slot a command has written. -/
def Cmd.slotTag (c : Cmd) (whole : Bool) (carried old : Nat) : Nat :=
  let ctl := match c.dst with | some d => d.ctl | none => 0
  match c.op with
  | .copy k .. => copyTag k ctl whole carried old
  | .coll .. => collTag (c.cfld 312 8) whole
  | _ => copyTag 0 ctl whole carried old

/-- The tags of the slots a command has written: they are written before it ends. Where a slot cannot be reached its tag is not written (R21, R369).
DESIGN CHOICE: log entry 126 (a slot of a plane-form region in which nothing was written). -/
def Cmd.putTags (c : Cmd) (p : Pkg) : Pkg :=
  c.slots.foldl (fun p e =>
    let pa := e.1 * 2048
    if peerLost p pa then p else
    setTag p pa (BitVec.ofNat 16 (c.slotTag (e.2 == BitVec.allOnes 2048) ((fget 0 c.stags e.1).toNat % 2 ^ 16) (tagAt p pa).toNat))) p

/-- The tags of the slots a command has written are put, once. -/
def State.putTagsOf (s : State) (c : Cmd) : Cmd × State := ({ c with slots := [], stags := [] }, s.modPkg c.putTags)

/-- A command fails with a status word. DEDUCED: log entry 32. -/
def failWith (c : Cmd) (f : EFail) (tstat : Nat) (s : State) : State :=
  let (c, s) := s.putTagsOf c
  let s := if f.1 = Cause.specout.no then s.failSpec else s
  let c := { c with st := .failed, fail := some { cause := f.1, reason := f.2, tstat }, wait := none }
  settle c (s.putCmd c)

/-- A command of the copy chapter fails; `done` destination bytes were performed. -/
def failCopy (c : Cmd) (f : EFail) (done : Nat) (s : State) : State := s.orWait c f fun f s => failWith c f (cpyStat c done f) s

/-! ### Engine reads and writes (R245 to R248) -/

/-- The live cores (R16, R378). -/
def liveCore (p : Pkg) (n : Nat) : Bool := decide (n < 576) && p.live.contains (n / 64)

/-- Whether the target of an access cannot be reached: a lost die's array (R246), or memory outside the package (R369). -/
def lostTarget (p : Pkg) (pa : Nat) : Bool :=
  match regionOf pa with
  | .array n _ => !liveCore p n
  | _ => peerLost p pa

/-- What such an access answers. -/
def lostFail (store : Bool) (pa : Nat) : EFail :=
  match regionOf pa with
  | .array _ _ => if store then cpyFail 11 else (Cause.memue.no, 0)
  | .host _ => shutHost
  | _ => lostPeer

/-- R21, R369: a slot whose tag a command has still to write, and which cannot be reached. -/
def Cmd.slotsLost (c : Cmd) (p : Pkg) : Option EFail :=
  (c.slots.find? fun e => peerLost p (e.1 * 2048)).map fun e => lostFail true (e.1 * 2048)

/-- Translation of an access of an engine, or of the context-save engine; `cmp`: CMP pages are allowed. -/
def State.reachXl (s : State) (store cmp : Bool) (va : Nat) : Except EFail Xl :=
  match translateCmp cmp s s.root (if store then .store else .load) 32 va with
  | .error e => .error (xerrFail e)
  | .ok x => if lostTarget s.pkg x.pa then .error (lostFail store x.pa) else .ok x

/-- The same for an engine of the unit: a write that leaves the private region of a speculative evaluation fails with SPECOUT (R326). -/
def State.anyXl (s : State) (store cmp : Bool) (va : Nat) : Except EFail Xl :=
  match s.reachXl store cmp va with
  | .error e => .error e
  | .ok x => if store && s.outside va x.pa then .error (Cause.specout.no, 0) else .ok x

/-- The same, where `cmp` says that the bytes must lie on CMP pages (R245). -/
def State.engXl (s : State) (store cmp : Bool) (va : Nat) : Except EFail Xl :=
  match s.anyXl store cmp va with
  | .error e => .error e
  | .ok x => if cmp && !x.cmp then .error (cpyFail 6) else .ok x

/-- The bytes at a physical address as an engine reads them. -/
def State.readPhysBytes (s : State) (pa n : Nat) : List Byte :=
  match regionOf pa with
  | .device off => readRegBytes s off n
  | _ => readBytes s.pkg pa n

/-- Reads `n` bytes that lie in one 32-byte beat or one 128-byte line, at the address a translation gives. -/
def State.readAt (s : State) (xl : Nat → Except EFail Xl) (va n : Nat) : Except EFail (List Byte) :=
  match xl va with
  | .error e => .error e
  | .ok x => if badData s.pkg x.pa n then .error (Cause.memue.no, 0) else .ok (s.readPhysBytes x.pa n)

def State.engRead1 (s : State) (cmp : Bool) (va n : Nat) : Except EFail (List Byte) := s.readAt (s.engXl false cmp) va n

/-- Reads `n` bytes, one beat at a time. -/
def State.readBeats (s : State) (xl : Nat → Except EFail Xl) : Nat → Nat → Nat → Except EFail (List Byte)
  | 0, _, _ => .ok []
  | fuel + 1, va, n =>
    if n = 0 then .ok []
    else
      let k := min n (32 - va % 32)
      match s.readAt xl va k with
      | .error e => .error e
      | .ok bs =>
        match s.readBeats xl fuel (va56 (va + k)) (n - k) with
        | .error e => .error e
        | .ok r => .ok (bs ++ r)

def State.engRead (s : State) (cmp : Bool) (va n : Nat) : Except EFail (List Byte) := s.readBeats (s.engXl false cmp) (n / 32 + 2) va n

/-- Writes to device registers, one register at a time. -/
def writeRegs : Nat → Nat → List Byte → State → State
  | 0, _, _, s => s
  | fuel + 1, off, bs, s =>
    if bs.isEmpty then s
    else
      let k := min bs.length (8 - off % 8)
      writeRegs fuel (off + k) (bs.drop k) (s.writeRegBytes off k (leNat (bs.take k)))

/-- The write of bytes at a physical address by an engine, whole beats at a time (R248). -/
def State.writePhysBytes (s : State) (pa : Nat) (bs : List Byte) : State :=
  match regionOf pa with
  | .device off => writeRegs (bs.length + 1) off bs s
  | _ => s.modPkg fun p => writeBytes p pa bs

/-- R241: whether a physical address lies in memory that carries tags. -/
def tagged (pa : Nat) : Bool :=
  match regionOf pa with
  | .hbm | .array _ _ | .peer _ _ => true
  | _ => false

/-- R241: the bytes a command has written of each slot, and the tag of those written last. The bytes lie in one slot. DESIGN CHOICE: log entry 104. -/
def Cmd.markSlot (c : Cmd) (pa n tag : Nat) : Cmd :=
  if !tagged pa then c
  else
    let k := pa / 2048
    let m : BitVec 2048 := BitVec.ofNat 2048 ((2 ^ n - 1) * 2 ^ (pa % 2048))
    { c with slots := fset 0 c.slots k (fget 0 c.slots k ||| m), stags := fset 0 c.stags k (BitVec.ofNat 17 (2 ^ 16 + tag % 2 ^ 16)) }

/-! ### Full/empty lines (R184, R249) -/

/-- Whether a line of a core array is claimed by a TSTQ of its core. -/
def State.claimedAt (s : State) (pa : Nat) : Bool :=
  match regionOf pa with
  | .array n o => (s.coreAt n).lsu.claims.contains (o / 128)
  | _ => false

/-- Whether a line may be taken: full or empty as asked, and not claimed. -/
def State.lineReady (s : State) (pa : Nat) (full : Bool) : Bool := fullAt s.pkg pa == full && !s.claimedAt pa

def isArray (pa : Nat) : Bool := match regionOf pa with | .array _ _ => true | _ => false

/-! ### Input queues (R254 to R256) -/

/-- Puts an entry into input queue `q` of core `n`; `none`: it is full. -/
def State.pushIq (s : State) (n q : Nat) (v : QVal) : Option State :=
  let old := (s.coreAt n).iqueue q
  if 32 ≤ old.length then none
  else some (s.modCore n fun c => { c with eng := { c.eng with iq := fset [] c.eng.iq q (old ++ [v]) } })

/-! ### Sync words (R250 to R253) -/

def low48 (x : Nat) : Nat := x % 2 ^ 48

/-- R251: one update of a sync word by `n` bytes. -/
def syncAdd (p : Pkg) (pa n : Nat) : Pkg :=
  let d0 := readNat p pa 8
  let target := low48 d0
  let count := low48 (low48 (readNat p (pa + 8) 8) + n)
  let gens := if target = 0 then 0 else count / target
  let count' := if target = 0 then count else count % target
  writeNat (writeNat p pa 8 ((d0 / 2 ^ 48 + gens) % 2 ^ 16 * 2 ^ 48 + target)) (pa + 8) 8 count'

/-- R326: whether `n` bytes of the own array from `off` leave the private region of the running unit's speculative evaluation. -/
def State.ownOutside (s : State) (off n : Nat) : Bool :=
  [off, off + n - 1].any fun o => s.outside (localBase + o) (arrayBase s.no + o)

/-- R250: the physical address of a sync word, or why it cannot be used. -/
def State.syncPa (s : State) (va : Nat) : Except EFail Nat :=
  if va % 16 ≠ 0 then .error (cpyFail 0)
  else match s.engXl true false va with
    | .error e => .error (if e.1 = 0 then cpyFail 9 else e)
    | .ok x => if isArray x.pa then .ok x.pa else .error (cpyFail 9)

/-- R251: one update of the sync word at a virtual address by `n` bytes, or why there is none. -/
def State.syncCount (s : State) (va n : Nat) : Except EFail State :=
  match s.syncPa va with
  | .error e => .error e
  | .ok pa => if badData s.pkg pa 16 then .error (Cause.memue.no, 0) else .ok (s.modPkg fun p => syncAdd p pa n)

end Sys2Proof.Machine
end

