-- ==== Sys2Proof/Machine/Copy.lean ====
section
/-! DEFINITION. The copy engine (R236 to R249), SYNCW (R253), QPUSH (R255) and progress entries (R256). A command reads its
descriptors, then moves one beat, line or record at a time: bytes read wait in `inbuf`, bytes to be written in `outbuf`. -/

namespace Sys2Proof.Machine

/-! ### Descriptors (R236, R237) -/

/-- R236: the 64 bytes of a descriptor. -/
def parseDesc (x : Nat) : Desc :=
  let dim (k : Nat) : Nat := fld x (64 * (k + 1)) 64
  { base := fld x 0 56, st := (List.range 4).map fun k => sx (dim k / 2 ^ 24) 40,
    cnt := (List.range 4).map fun k => max (fld (dim k) 0 24) 1,
    run := fld x 320 32, ctl := fld x 352 32, sync := fld x 384 56, aux := fld x 448 56 }

/-- R238, R239: the descriptor at a core-array offset given to a command. -/
def State.readDesc (s : State) (off : Nat) : Except EFail Desc :=
  if off % 64 ≠ 0 then .error (cpyFail 0)
  else if arraySize ≤ off then .error (cpyFail 4)
  else if s.core.carved off then .error (cpyFail 3)
  else if badData s.pkg (arrayBase s.no + off) 64 then .error (Cause.memue.no, 0)
  else .ok (parseDesc (s.own off 64))

def nthI (l : List Int) (i : Nat) : Int := l.getD i 0

/-- R237: the number of runs, and of bytes, of a stream. -/
def Desc.runs (d : Desc) : Nat := nth d.cnt 0 * nth d.cnt 1 * nth d.cnt 2 * nth d.cnt 3
def Desc.len (d : Desc) : Nat := d.run * d.runs

def Desc.tag (d : Desc) : Nat := fld d.ctl 16 16
def Desc.th (d : Desc) : Nat := fld d.ctl 14 2
def Desc.syncen (d : Desc) : Bool := bit d.ctl 13
def Desc.fe (d : Desc) : Bool := bit d.ctl 12
def Desc.cach (d : Desc) : Bool := bit d.ctl 11
def Desc.qen (d : Desc) : Bool := bit d.ctl 10
def Desc.qsel (d : Desc) : Nat := fld d.ctl 8 2
def Desc.qeos (d : Desc) : Bool := bit d.ctl 7

/-- R237, R240: the start of run `q`; `i0` is its innermost index. -/
def Desc.startAt (d : Desc) (i0 q : Nat) : Nat :=
  let r := q / nth d.cnt 0
  let i1 := r % nth d.cnt 1
  let i2 := r / nth d.cnt 1 % nth d.cnt 2
  let i3 := r / nth d.cnt 1 / nth d.cnt 2
  (tr 56 ((d.base : Int) + i0 * nthI d.st 0 + i1 * nthI d.st 1 + i2 * nthI d.st 2 + i3 * nthI d.st 3)).toNat

/-- R249, R241: every run of a stream that no index list places starts at a multiple of `m`. -/
def Desc.startsOk (d : Desc) (m : Nat) : Bool :=
  d.base % m == 0 && (List.range 4).all fun k => nth d.cnt k ≤ 1 || nthI d.st k % (m : Int) == 0

/-- The multiple a side's run starts must have: CPYT slots (R241), full/empty lines (R249). -/
def sideGrain (k : Nat) (d : Desc) : Nat := if k = 3 then 2048 else if d.fe then 128 else 1

/-- R240: the sides that take their innermost index from a list. -/
def indexed (k : Nat) (dst : Bool) : Bool := if dst then k == 2 else k == 1

/-- R237: the address of byte `t` of a stream that no index list places. -/
def Desc.vaOf (d : Desc) (t : Nat) : Nat :=
  let q := t / d.run
  va56 (d.startAt (q % nth d.cnt 0) q + t % d.run)

/-- R246: DONE: the destination stream offset below which every byte is performed: bytes that are kept are not. -/
def Cmd.done (c : Cmd) : Nat := c.parts.foldl (fun m p => min m p.t) c.t

/-- R247: the source beat that holds an address: it is read whole by `rd`, at one moment, and kept for all bytes of it the command takes. -/
def takeBeat (rd : State → Nat → Except EFail (List Byte × State)) (c : Cmd) (va : Nat) (s : State) : Except EFail (List Byte × Cmd × State) :=
  let b := va / 32
  match fget [] c.beats b with
  | [] => (rd s (32 * b)).map fun (bs, s) => (bs, { c with beats := fset [] c.beats b bs }, s)
  | bs => .ok (bs, c, s)

/-- A beat as an engine reads it. -/
def plainBeatRead (cmp : Bool) (s : State) (va : Nat) : Except EFail (List Byte × State) := (s.engRead1 cmp va 32).map fun bs => (bs, s)

/-- R237, R240: the address of stream byte `t` of a side of a copy with code `k`. The index list is read as a source, by beats, and the run's start
is judged as it is met. -/
def State.streamVa (s : State) (k : Nat) (dst : Bool) (c : Cmd) (d : Desc) (t : Nat) : Except EFail (Nat × Cmd) :=
  let q := t / d.run
  if !indexed k dst then .ok (d.vaOf t, c)
  else
    let word := va56 (d.aux + 4 * q)
    let start : Except EFail (Nat × Cmd) :=
      match (match c.idx with | some (r, a) => if r = q then some a else none | none => none) with
      | some a => .ok (a, c)
      | none => (takeBeat (plainBeatRead false) c word s).map fun (bs, c, _) => (d.startAt (leNat ((bs.drop (word % 32)).take 4)) q, c)
    match start with
    | .error e => .error e
    | .ok (a, c) => if a % sideGrain k d ≠ 0 then .error (cpyFail 5) else .ok (va56 (a + t % d.run), { c with idx := some (q, a) })

/-! ### The checks made before any byte is written (R239) -/

/-- R238: copy codes: 0 CPY, 1 CPYG, 2 CPYS, 3 CPYT, 4 CPYX, 5 CPYZ, 6 CPYW, 7 CFILL. DEDUCED: log entry 34. -/
def copyStatic (k sfmt dfmt : Nat) (src dst : Option Desc) : Option EFail :=
  let sides := (src.toList.map fun d => (false, d)) ++ (dst.toList.map fun d => (true, d))
  let sb := if k = 6 then fmtBits sfmt else 8
  let db := if k = 6 then fmtBits dfmt else 8
  let d := dst.getD (parseDesc 0)
  let sl := (src.map Desc.len).getD 0
  let align := sides.any (fun x => indexed k x.1 && x.2.aux % 4 != 0) || (k == 5 && d.aux % 8 != 0) || (d.syncen && d.sync % 16 != 0)
  let desc := sides.any (fun x => x.2.run == 0 || decide (2 ^ 31 < x.2.run)) || fld d.ctl 0 7 != 0 || (k != 4 && d.th == 3)
  let length := (k ≤ 3 || k == 6) && sl * db != d.len * sb
  let grain := sides.any (fun x => let g := sideGrain k x.2; x.2.run % g != 0 || !(indexed k x.1 || x.2.startsOk g)) ||
    (k == 6 && ((src.map Desc.run).getD 0 % max 1 (sb / 8) != 0 || d.run % (db / 8) != 0)) ||
    (k == 5 && sl % 32 != 0) || (k == 4 && d.len % 32 != 0)
  (lowest (reasons [(0, align), (1, desc), (2, length), (5, grain)])).map cpyFail

/-- R239, R250: a sync word that translates to no core array; a translation that fails is found as the command proceeds. -/
def State.syncOutside (s : State) (d : Desc) : Bool :=
  d.syncen && (match s.syncPa d.sync with | .error e => e == cpyFail 9 | .ok _ => false)

/-- After the marker: the descriptors are read and checked (R238, R239). -/
def copyStart (k : Nat) (a b : Double) (sfmt dfmt : Nat) (c : Cmd) (s : State) : State :=
  let rd (x : Double) := s.readDesc (offsetOf x)
  let sides : Except EFail (Option Desc × Desc) :=
    if k = 7 then (rd a).map fun d => (none, d)
    else match rd a with
      | .error e => .error e
      | .ok x => (rd b).map fun d => (some x, d)
  match sides with
  | .error e => failCopy c e 0 s
  | .ok (src, dst) =>
    match copyStatic k sfmt dfmt src (some dst) with
    | some e => failCopy { c with src, dst := some dst } e 0 s
    | none =>
      if s.syncOutside dst then failCopy { c with src, dst := some dst } (cpyFail 9) 0 s
      else s.putCmd { c with st := .run, src, dst := some dst }

/-! ### Records (R243, R244) -/

/-- R243: the elements of whole source bytes, widened. -/
def widenBytes (sfmt dfmt : Nat) (bs : List Byte) : List Byte :=
  let sb := fmtBits sfmt
  let n := 8 * bs.length / sb
  leBytes (n * fmtBits dfmt / 8) (packElems (fmtBits dfmt) ((elems sb n (leNat bs)).map (widenOne sfmt dfmt)))

/-- R244: the bytes a record's stored beats stand for. -/
def expandBeats (mask : Nat) : Nat → Nat → List Byte → List Byte
  | 0, _, _ => []
  | n + 1, k, bs =>
    if bit mask k then bs.take 32 ++ expandBeats mask n (k + 1) (bs.drop 32)
    else List.replicate 32 0 ++ expandBeats mask n (k + 1) bs

/-- R244: the beats of a block. -/
def beatsOf : Nat → List Byte → List (List Byte)
  | 0, _ => []
  | n + 1, bs => bs.take 32 :: beatsOf n (bs.drop 32)

/-- R244: a block as a record. -/
def compressBlock (tag : Nat) (bs : List Byte) : List Byte :=
  let n := bs.length / 32
  let beats := beatsOf n bs
  let keep := beats.map fun b => b.any fun x => x != 0
  let mask := (keep.zip (List.range n)).foldl (fun m x => if x.1 then m + 2 ^ x.2 else m) 0
  leBytes 32 (mask + tag * 2 ^ 64 + (n - 1) * 2 ^ 80) ++ ((beats.zip keep).map fun x => if x.2 then x.1 else []).flatten

/-- R244: a header: its mask, tag and beats; `none` where it is malformed (R245 CMPKIND). -/
def parseHeader (h : Nat) : Option (Nat × Nat × Nat) :=
  let n := fld h 80 8 + 1
  if h / 2 ^ 88 ≠ 0 ∨ 64 < n ∨ fld h 0 64 / 2 ^ n ≠ 0 then none else some (fld h 0 64, fld h 64 16, n)

/-- R244: whether the block of source stream bytes from `u0` is one whole 2 KiB-aligned slot: its physical address if so. -/
def State.blockSlot (s : State) (d : Desc) (u0 n : Nat) : Option Nat :=
  let va := d.vaOf u0
  let whole := n == 2048 && va % 2048 == 0 && (List.range 2048).all fun i => d.vaOf (u0 + i) == va + i
  if whole then (match s.engXl false false va with | .ok x => some x.pa | .error _ => none) else none

/-! ### One step of a transfer -/

/-- The tag met last at or before a destination stream offset. A slot filled by several CPYX records takes the tag of the one whose beat is written last
in it (R241 names the record that filled it). DESIGN CHOICE: log entry 104. -/
def markAt (marks : List (Nat × Nat)) (t : Nat) : Nat :=
  marks.foldl (fun m x => if x.1 ≤ t then x.2 else m) 0

/-- How a transform of buffered bytes ends: more bytes are needed, or some are produced with a tag, or the command fails. -/
inductive Digest where
  | more
  | made (out rest : List Byte) (tag : Option Nat)
  | fail (e : EFail)

/-- What the buffered source bytes become. `left` is the room of the destination stream that is not yet produced. -/
def digest (k sfmt dfmt : Nat) (s : State) (c : Cmd) (src : Desc) (left : Nat) : Digest :=
  let last := c.u == src.len
  if k = 6 then
    let n := max 1 (fmtBits sfmt / 8)
    let whole := c.inbuf.length / n * n
    if whole = 0 then .more else .made (widenBytes sfmt dfmt (c.inbuf.take whole)) (c.inbuf.drop whole) none
  else if k = 4 then
    if left = 0 then .more
    else if c.inbuf.length < 32 then (if last then .fail (cpyFail 2) else .more)
    else match parseHeader (leNat (c.inbuf.take 32)) with
      | none => .fail (cpyFail 6)
      | some (mask, tag, n) =>
        let need := 32 * (1 + popc 64 mask)
        if left < 32 * n then .fail (cpyFail 2)
        else if c.inbuf.length < need then (if last then .fail (cpyFail 2) else .more)
        else .made (expandBeats mask n 0 ((c.inbuf.drop 32).take (need - 32))) (c.inbuf.drop need) (some tag)
  else if k = 5 then
    if c.inbuf.length = 2048 ∨ (last ∧ !c.inbuf.isEmpty) then
      match s.blockSlot src (c.u - c.inbuf.length) c.inbuf.length with
      | some pa =>
        if badTag s.pkg pa then .fail (Cause.memue.no, 0)
        else .made (compressBlock (if tagged pa then (tagAt s.pkg pa).toNat else 0) c.inbuf) [] none
      | none => .made (compressBlock 0 c.inbuf) [] none
    else .more
  else if c.inbuf.isEmpty then .more
  else .made c.inbuf [] none

/-- A command waits from this clk on, if it did not wait before. -/
def blocked (c : Cmd) (s : State) : State := s.putCmd { c with wait := some (c.wait.getD s.clk) }

/-- A CPYG read through the issuing core's cache (R240, R131): `n` bytes of one beat. -/
def State.cachedRead (s : State) (va n : Nat) : Except EFail (List Byte × State) :=
  match s.engXl false false va with
  | .error e => .error e
  | .ok x =>
    if !cacheable x.dev x.nc x.cell x.pa then (s.engRead1 false va n).map fun bs => (bs, s)
    else match s.core.lsu.hit va x.pa with
      | some line => .ok (leBytes n (fld line.toNat (8 * (x.pa % 128)) (8 * n)), s)
      | none => (s.engRead1 false va n).map fun bs => (bs, s.fillLine va x.pa)

/-- The next source bytes are read: those of one beat (R247), or a full/empty line. -/
def readSource (k : Nat) (c : Cmd) (src : Desc) (s : State) : State :=
  let fail (e : EFail) : State := failCopy c e c.done s
  match s.streamVa k false c src c.u with
  | .error e => fail e
  | .ok (va, c) =>
    let room := if k = 5 then 2048 - c.inbuf.length else 2 ^ 31
    let n := min room (min (src.len - c.u) (min (src.run - c.u % src.run) (if src.fe then 128 else 32 - va % 32)))
    let cmp := k == 4
    let mark : Except EFail (List (Nat × Nat)) :=
      if k = 3 ∧ c.u % 2048 = 0 then
        match s.engXl false false va with
        | .error e => .error e
        | .ok x =>
          if badTag s.pkg x.pa then .error (Cause.memue.no, 0)
          else .ok [(c.u, if tagged x.pa then (tagAt s.pkg x.pa).toNat else 0)]
      else .ok []
    match mark with
    | .error e => fail e
    | .ok ms =>
      let put (c : Cmd) (bs : List Byte) (s : State) : State :=
        s.putCmd { c with u := c.u + n, inbuf := c.inbuf ++ bs, marks := c.marks ++ ms, wait := none }
      if src.fe then
        match s.engXl false cmp va with
        | .error e => fail e
        | .ok x =>
          if !isArray x.pa then fail (cpyFail 5)
          else if !s.lineReady x.pa true then blocked c s
          else match s.engRead1 cmp va n with
            | .error e => fail e
            | .ok bs => put c bs (s.modPkg fun p => setFull p x.pa false)
      else match takeBeat (if k = 1 ∧ src.cach then fun s a => s.cachedRead a 32 else plainBeatRead cmp) c va s with
        | .error e => fail e
        | .ok (bs, c', s) => put c' ((bs.drop (va % 32)).take n) s

/-- R251: the sync word counts `n` performed bytes; the command fails where it cannot. -/
def countSync (c : Cmd) (d : Desc) (n : Nat) (s : State) : State :=
  if !d.syncen then s.putCmd c
  else match s.syncCount d.sync n with
    | .error e => failCopy c e c.done s
    | .ok s => s.putCmd c

/-- R256: the core whose queue takes the entries: the one whose array holds destination stream byte 0, or the issuing core. -/
def State.queueCore (s : State) (pa : Nat) : Nat := match regionOf pa with | .array n _ => n | _ => s.no

/-- The pieces of the destination stream from byte `t` on that lie in beat `beat`: their addresses and lengths, at most `fuel` of them. -/
def State.beatPieces (s : State) (k : Nat) (d : Desc) (beat : Nat) : Nat → Nat → Cmd → List (Nat × Nat) × Cmd
  | 0, _, c => ([], c)
  | fuel + 1, t, c =>
    if d.len ≤ t then ([], c)
    else match s.streamVa k true c d t with
      | .error _ => ([], c)
      | .ok (va, c') =>
        if va / 32 ≠ beat then ([], c)
        else
          let n := min (d.len - t) (min (d.run - t % d.run) (32 - va % 32))
          let (ps, c') := s.beatPieces k d beat fuel (t + n) c'
          ((va, n) :: ps, c')

/-- The bytes of a list of pieces. -/
def pieceBytes (ps : List (Nat × Nat)) : Nat := (ps.map Prod.snd).sum

/-- The pieces that the first `n` bytes fill. -/
def cutPieces : Nat → List (Nat × Nat) → List (Nat × Nat)
  | _, [] => []
  | n, (va, k) :: ps => if n = 0 then [] else (va, min n k) :: cutPieces (n - k) ps

/-- The pieces with their bytes; `t` is the stream offset of the first. -/
def partsOf : Nat → List (Nat × Nat) → List Byte → List Part
  | _, [], _ => []
  | t, (va, n) :: ps, bs => { t, va, bytes := bs.take n } :: partsOf (t + n) ps (bs.drop n)

/-- The places in its beat that a part fills, and whether it fills one. -/
def Part.holds (p : Part) (i : Nat) : Bool := decide (p.va % 32 ≤ i) && decide (i < p.va % 32 + p.bytes.length)

/-- R237: the places in a beat that a run of `run` bytes from `a` on fills. -/
def runMeets (a run beat : Nat) : List Nat := (List.range 32).filter fun i => decide ((32 * beat + i + 2 ^ 56 - a) % 2 ^ 56 < run)

/-- The places in a beat that the first run from `q` on to lie in it fills; none where no run does. -/
def State.nextMeets (s : State) (k : Nat) (d : Desc) (beat : Nat) : Nat → Nat → Cmd → List Nat × Cmd
  | 0, _, c => ([], c)
  | fuel + 1, q, c =>
    match s.streamVa k true c d (q * d.run) with
    | .error _ => ([], c)
    | .ok (a, c) =>
      match runMeets a d.run beat with
      | [] => s.nextMeets k d beat fuel (q + 1) c
      | l => (l, c)

/-- R248: whether the parts `ps` of a beat wait for more of it: a later run fills other places of the beat. `t`: the stream offset after them. A run
that comes back to places they fill writes the beat again. DEDUCED: log entry 135. -/
def State.keepParts (s : State) (k : Nat) (d : Desc) (beat : Nat) (ps : List Part) (t : Nat) (c : Cmd) : Bool × Cmd :=
  let filled (i : Nat) : Bool := ps.any fun p => p.holds i
  if (List.range 32).all filled then (false, c)
  else
    let q := cdiv t d.run
    let (l, c) := s.nextMeets k d beat (d.runs - q) q c
    (!l.isEmpty && l.all fun i => !filled i, c)

/-- Writes parts of the beat or line that begins at `base`, in the order given. -/
def writeParts (base : Nat) : List Part → Cmd → State → Cmd × State
  | [], c, s => (c, s)
  | p :: ps, c, s =>
    let pa := base + p.va % 32
    writeParts base ps (c.markSlot pa p.bytes.length (markAt c.marks p.t)) (s.writePhysBytes pa p.bytes)

/-- The bytes of a list of parts. -/
def partBytes (ps : List Part) : Nat := (ps.map fun p => p.bytes.length).sum

/-- R248, R249: the beat or line at `x` is written, once, with the bytes kept for it; the sync word counts them (R251). -/
def writeBeat (beat : Nat) (c : Cmd) (d : Desc) (x : Xl) (s : State) : State :=
  let ps := c.parts.filter fun p => p.va / 32 == beat || d.fe
  let (c, s) := writeParts (x.pa / 32 * 32) ps { c with parts := c.parts.filter fun p => !(p.va / 32 == beat || d.fe) } s
  let s := if d.fe then s.modPkg fun p => setFull p x.pa true else s
  countSync c d (partBytes ps) s

/-- The pieces `ps` of the destination stream, the first of them at `va`, all in one beat or line, which is written, unless the rest of the beat is
waited for. -/
def writeDest (k : Nat) (c : Cmd) (d : Desc) (va : Nat) (ps : List (Nat × Nat)) (bs : List Byte) (s : State) : State :=
  match s.engXl true (k == 5) va with
  | .error e => failCopy c e c.done s
  | .ok x =>
    if d.fe ∧ !isArray x.pa then failCopy c (cpyFail 5) c.done s
    else if d.fe ∧ !s.lineReady x.pa false then blocked c s
    else
      let n := pieceBytes ps
      let parts := c.parts ++ partsOf c.t ps bs
      let (keep, c) := if d.fe then (false, c) else s.keepParts k d (va / 32) (parts.filter fun p => p.va / 32 == va / 32) (c.t + n) c
      let c := if c.t = 0 then { c with qcore := some (s.queueCore x.pa) } else c
      let c := { c with t := c.t + n, parts, outbuf := c.outbuf.drop n, wait := none }
      if keep then s.putCmd c else writeBeat (va / 32) c d x s

/-- The stream has ended: what is still kept is written, a beat at a time. -/
def flushParts (k : Nat) (p : Part) (c : Cmd) (d : Desc) (s : State) : State :=
  match s.engXl true (k == 5) p.va with
  | .error e => failCopy c e c.done s
  | .ok x => writeBeat (p.va / 32) c d x s

/-! ### Progress entries (R256) and the end -/

/-- R256: the entry that is due: a completed group of runs. -/
def pushDue (c : Cmd) (d : Desc) : Option QVal :=
  let g := d.run * nth d.cnt 0
  if d.qen ∧ c.pushed < c.done / g then some (.value (BitVec.ofNat 63 (c.pushed * g))) else none

/-- R256: an entry goes to the command's queue; `none`: the queue is full. -/
def State.pushEntry (s : State) (c : Cmd) (d : Desc) (v : QVal) : Option State := s.pushIq (c.qcore.getD s.no) d.qsel v

/-- CPYZ: the total record length goes to the length word (R244), in a slot the command has written in part (R241). -/
def writeLength (c : Cmd) (d : Desc) (s : State) : Except EFail (Cmd × State) :=
  match s.engXl true false d.aux with
  | .error e => .error e
  | .ok x => .ok (c.markSlot x.pa 8 0, s.writePhysBytes x.pa (leBytes 8 c.t))

/-- R256: the token that follows the last value, and the end. -/
def endCopy (c : Cmd) (d : Desc) (s : State) : State :=
  if d.qeos then
    match s.pushEntry c d .eos with
    | some s => s.putCmd { c with st := .ended, wait := none }
    | none => blocked c s
  else s.putCmd { c with st := .ended, wait := none }

/-- The command has written all its bytes: once the slots can be reached, the length word and the tags once, then the token and the end. -/
def finishCopy (k : Nat) (c : Cmd) (d : Desc) (s : State) : State :=
  let leftover := k = 4 ∧ (!c.inbuf.isEmpty ∨ c.u ≠ (c.src.map Desc.len).getD 0)
  if c.closed then endCopy c d s
  else if leftover then failCopy c (cpyFail 2) c.done s
  else match c.slotsLost s.pkg with
    | some e => failCopy c e c.done s
    | none =>
      match (if k = 5 then writeLength c d s else .ok (c, s)) with
      | .error e => failCopy c e c.done s
      | .ok (c, s) =>
        let (c, s) := s.putTagsOf c
        endCopy { c with closed := true } d s

/-- The transfer of a running command: a due queue entry, then a write, then a transform, then a read. -/
def copyRun (k : Nat) (pattern : Double) (sfmt dfmt : Nat) (c : Cmd) (d : Desc) (s : State) : State :=
  match pushDue c d with
  | some v =>
    (match s.pushEntry c d v with
     | some s => s.putCmd { c with pushed := c.pushed + 1, wait := none }
     | none => blocked c s)
  | none =>
    let srcLen := (c.src.map Desc.len).getD 0
    let drained := c.u == srcLen && c.inbuf.isEmpty
    if k = 5 ∧ drained ∧ c.outbuf.isEmpty then (match c.parts with | p :: _ => flushParts k p c d s | [] => finishCopy k c d s)
    else if c.t = d.len then (if k = 5 then failCopy c (cpyFail 2) c.done s else finishCopy k c d s)
    else
      match s.streamVa k true c d c.t with
      | .error e => failCopy c e c.done s
      | .ok (va, c) =>
        let (ps, c) := if d.fe then ([(va, min (d.len - c.t) (min (d.run - c.t % d.run) 128))], c) else s.beatPieces k d (va / 32) 32 c.t c
        let n := pieceBytes ps
        if k = 7 then
          writeDest k c d va ps ((List.range n).map fun i => BitVec.ofNat 8 (fld pattern.toNat (8 * ((c.t + i) % 8)) 8)) s
        else if n ≤ c.outbuf.length then writeDest k c d va ps (c.outbuf.take n) s
        else match c.src with
          | none => s
          | some src =>
            match digest k sfmt dfmt s c src (d.len - c.t - c.outbuf.length) with
            | .fail e => failCopy c e c.done s
            | .made out rest tag =>
              let marks := match tag with | some g => c.marks ++ [(c.t + c.outbuf.length, g)] | none => c.marks
              s.putCmd { c with outbuf := c.outbuf ++ out, inbuf := rest, marks }
            | .more =>
              if c.u < srcLen then readSource k c src s
              else writeDest k c d va (cutPieces c.outbuf.length ps) c.outbuf s

/-- COPY_BEAT_TRANSFER: one step of the first command of context `ctx`. DESIGN CHOICE: log entry 35. -/
def copyBeat (ctx : Nat) (s : State) : State :=
  if 4 ≤ ctx then s
  else match s.core.head ctx with
    | none => s
    | some c =>
      match c.op, c.st with
      | .copy k a b sf df, .ready => copyStart k a b sf df c s
      | .copy k _ b sf df, .run => (match c.dst with | some d => copyRun k b sf df c d s | none => s)
      | _, .failed => settle c s
      | _, _ => s

/-! ### SYNCW and QPUSH (R253, R255) -/

/-- SYNCW_WRITE: the sync word is set once every earlier command of the context has ended. -/
def syncwWrite (ctx : Nat) (s : State) : State :=
  match s.core.head ctx with
  | none => s
  | some c =>
    match c.op, c.st with
    | .syncw a b g, .ready =>
      (match s.syncPa (va56 a.toNat) with
       | .error e => failCopy c e 0 s
       | .ok pa =>
         if !g && badData s.pkg pa 8 then failCopy c (Cause.memue.no, 0) 0 s else
         let gen := if g then fld b.toNat 48 16 else readNat s.pkg pa 8 / 2 ^ 48
         let s := s.modPkg fun p => writeNat (writeNat p pa 8 (gen * 2 ^ 48 + low48 b.toNat)) (pa + 8) 8 0
         s.putCmd { c with st := .ended })
    | _, _ => s

/-- R255: every store and atomic issued before `id` has been performed and acknowledged. -/
def State.storesDone (s : State) (id : Nat) : Bool :=
  ((s.core.lsu.before id).all fun e => !e.op.writes) &&
  (s.core.landings.all fun x => !(x.eff.isArray && decide (x.iss < id))) &&
  s.core.lsu.acks.all fun a => decide (id ≤ a)

/-- QPUSH_DELIVERY. -/
def qpushStep (ctx : Nat) (s : State) : State :=
  match s.core.head ctx with
  | none => s
  | some c =>
    match c.op, c.st with
    | .qpush a b iq tok, .ready =>
      let n := if a.getLsbD 10 then s.no else fld a.toNat 0 10
      if !liveCore s.pkg n then failCopy c (cpyFail 9) 0 s
      else if !s.storesDone c.iss then s
      else match s.pushIq n iq (if tok then .eos else .value (b.setWidth 63)) with
        | some s => s.putCmd { c with st := .ended, wait := none }
        | none => blocked c s
    | _, _ => s

/-! ### Waits that last too long (R249, R255) -/

/-- Whether a command has a queue entry to push (R256). -/
def Cmd.owes (c : Cmd) : Bool := match c.dst with | some d => (pushDue c d).isSome | none => false

/-- Whether a command has waited 2^24 clk. -/
def Cmd.overdue (c : Cmd) (clk : Nat) : Bool := match c.wait with | some w => decide (w + 2 ^ 24 ≤ clk) | none => false

/-- Whether what a command waits for is a queue: a progress entry, its token, or QPUSH's own entry. -/
def Cmd.onQueue (c : Cmd) : Bool :=
  match c.op with
  | .qpush .. => true
  | .copy .. | .hsub .. => c.closed || c.owes
  | _ => false

/-- FEWAIT: the command fails. -/
def feWaitEnd (ctx : Nat) (s : State) : State :=
  match s.core.head ctx with
  | some c => if c.overdue s.clk ∧ c.st = .run ∧ !c.onQueue then failCopy c (cpyFail 7) c.done s else s
  | none => s

/-- QFULL: the entry is dropped and the command fails. -/
def qFullEnd (ctx : Nat) (s : State) : State :=
  match s.core.eng.cmds.find? fun c => c.tl == ctx && c.overdue s.clk && (c.st == .run || c.st == .ready) && c.onQueue with
  | some c => failCopy c (cpyFail 8) c.done s
  | none => s

/-! ### The operations (R238, R253, R255) -/

def semCpy (h : Head) (a b : BitVec 6) (ctx : BitVec 2) : SlotSem :=
  cmdForm h ctx.toNat 0x80 (fun c => .copy 0 (c.cA a) (c.cB b) 0 0) fun _ s => s
def semCpyg (h : Head) (a b : BitVec 6) (ctx : BitVec 2) : SlotSem :=
  cmdForm h ctx.toNat 0x81 (fun c => .copy 1 (c.cA a) (c.cB b) 0 0) fun _ s => s
def semCpys (h : Head) (a b : BitVec 6) (ctx : BitVec 2) : SlotSem :=
  cmdForm h ctx.toNat 0x82 (fun c => .copy 2 (c.cA a) (c.cB b) 0 0) fun _ s => s
def semCpyt (h : Head) (a b : BitVec 6) (ctx : BitVec 2) : SlotSem :=
  cmdForm h ctx.toNat 0x83 (fun c => .copy 3 (c.cA a) (c.cB b) 0 0) fun _ s => s
def semCpyx (h : Head) (a b : BitVec 6) (ctx : BitVec 2) : SlotSem :=
  cmdForm h ctx.toNat 0x84 (fun c => .copy 4 (c.cA a) (c.cB b) 0 0) fun _ s => s
def semCpyz (h : Head) (a b : BitVec 6) (ctx : BitVec 2) : SlotSem :=
  cmdForm h ctx.toNat 0x85 (fun c => .copy 5 (c.cA a) (c.cB b) 0 0) fun _ s => s
def semCpyw (h : Head) (a b : BitVec 6) (ctx : BitVec 2) (sfmt dfmt : BitVec 5) : SlotSem :=
  cmdForm h ctx.toNat 0x86 (fun c => .copy 6 (c.cA a) (c.cB b) sfmt.toNat dfmt.toNat) fun _ s => s
def semCfill (h : Head) (a b : BitVec 6) (ctx : BitVec 2) : SlotSem :=
  cmdForm h ctx.toNat 0x87 (fun c => .copy 7 (c.cA a) (c.cB b) 0 0) fun _ s => s
def semSyncw (h : Head) (a b : BitVec 6) (ctx : BitVec 2) (g : Bool) : SlotSem :=
  cmdForm h ctx.toNat 0x8A (fun c => .syncw (c.cA a) (c.cB b) g) fun _ s => s
def semQpush (h : Head) (a b : BitVec 6) (ctx : BitVec 2) (iq : BitVec 2) (tok : Bool) : SlotSem :=
  cmdForm h ctx.toNat 0x8E (fun c => .qpush (c.cA a) (c.cB b) iq.toNat tok) fun _ s => s

/-! ### The events -/

/-- COPY_BEAT_TRANSFER (R238). -/
def execCopyBeatTransfer (ctx : Nat) (s : State) : Host.Outcome State Fault Refusal := event (copyBeat ctx) s

/-- Whether the first command of a context has an entry to push and nothing else to do before it (R256). -/
def entryDue (ctx : Nat) (s : State) : Bool :=
  match s.core.head ctx with
  | some c => c.st == .run && c.owes
  | none => false

/-- PROGRESS_ENTRY_PUSH (R256). -/
def execProgressEntryPush (ctx : Nat) (s : State) : Host.Outcome State Fault Refusal :=
  event (fun s => if entryDue ctx s then copyBeat ctx s else s) s

/-- COMMAND_END (R234). A failure that waits to be reported is reported here once the queue of reports has room. -/
def execCommandEnd (tl : Nat) (s : State) : Host.Outcome State Fault Refusal :=
  event (fun s => advanceTl tl (match s.core.head tl with | some c => settle c s | none => s)) s

/-- FEWAIT (R249). -/
def execFeWait (ctx : Nat) (s : State) : Host.Outcome State Fault Refusal := event (feWaitEnd ctx) s

/-- QFULL (R255). -/
def execQFull (ctx : Nat) (s : State) : Host.Outcome State Fault Refusal := event (qFullEnd ctx) s

/-- QPUSH_DELIVERY (R255). -/
def execQpushDelivery (ctx : Nat) (s : State) : Host.Outcome State Fault Refusal := event (qpushStep ctx) s

/-- SYNCW_WRITE (R253). -/
def execSyncwWrite (ctx : Nat) (s : State) : Host.Outcome State Fault Refusal := event (syncwWrite ctx) s

/-- CPY (R238). Copies a stream of bytes unchanged. -/
def execCpy (h : Head) (a b : BitVec 6) (ctx : BitVec 2) (s : State) : Host.Outcome State Fault Refusal :=
  issueSingle (.cpy h a b ctx) (semCpy h a b ctx) s

/-- CPYG (R240). Copies with an indexed source. -/
def execCpyg (h : Head) (a b : BitVec 6) (ctx : BitVec 2) (s : State) : Host.Outcome State Fault Refusal :=
  issueSingle (.cpyg h a b ctx) (semCpyg h a b ctx) s

/-- CPYS (R240). Copies with an indexed destination. -/
def execCpys (h : Head) (a b : BitVec 6) (ctx : BitVec 2) (s : State) : Host.Outcome State Fault Refusal :=
  issueSingle (.cpys h a b ctx) (semCpys h a b ctx) s

/-- CPYT (R241). Copies whole tile slots with their tags. -/
def execCpyt (h : Head) (a b : BitVec 6) (ctx : BitVec 2) (s : State) : Host.Outcome State Fault Refusal :=
  issueSingle (.cpyt h a b ctx) (semCpyt h a b ctx) s

/-- CPYX (R244). Expands compressed records. -/
def execCpyx (h : Head) (a b : BitVec 6) (ctx : BitVec 2) (s : State) : Host.Outcome State Fault Refusal :=
  issueSingle (.cpyx h a b ctx) (semCpyx h a b ctx) s

/-- CPYZ (R244). Compresses bytes into records. -/
def execCpyz (h : Head) (a b : BitVec 6) (ctx : BitVec 2) (s : State) : Host.Outcome State Fault Refusal :=
  issueSingle (.cpyz h a b ctx) (semCpyz h a b ctx) s

/-- CPYW (R243). Widens elements exactly while copying. -/
def execCpyw (h : Head) (a b : BitVec 6) (ctx : BitVec 2) (sfmt dfmt : BitVec 5) (s : State) : Host.Outcome State Fault Refusal :=
  issueSingle (.cpyw h a b ctx sfmt dfmt) (semCpyw h a b ctx sfmt dfmt) s

/-- CFILL (R238). Fills a stream with an 8-byte pattern. -/
def execCfill (h : Head) (a b : BitVec 6) (ctx : BitVec 2) (s : State) : Host.Outcome State Fault Refusal :=
  issueSingle (.cfill h a b ctx) (semCfill h a b ctx) s

/-- SYNCW (R253). Resets a sync word in order within its context. -/
def execSyncw (h : Head) (a b : BitVec 6) (ctx : BitVec 2) (g : Bool) (s : State) : Host.Outcome State Fault Refusal :=
  issueSingle (.syncw h a b ctx g) (semSyncw h a b ctx g) s

/-- QPUSH (R255). Pushes a value or token into a core's input queue. -/
def execQpush (h : Head) (a b : BitVec 6) (ctx : BitVec 2) (iq : BitVec 2) (tok : Bool) (s : State) : Host.Outcome State Fault Refusal :=
  issueSingle (.qpush h a b ctx iq tok) (semQpush h a b ctx iq tok) s

end Sys2Proof.Machine
end

