-- ==== Sys2Proof/Machine/Matrix.lean ====
section
/-! DEFINITION. The matrix entries (R200 to R213): steps, MZERO, MRET and MCHK. -/

namespace Sys2Proof.Machine

/-! ### ACCST (R200, R201, R347) -/

/-- R201: opens the accumulators of a mask, and sets their modes where `mode` gives one. For each that was closed the clk is kept for
DEPTH (R347). -/
def State.openAcc (s : State) (mask : Nat) (mode : Option Bool) : State :=
  s.modVec fun v =>
    let m : BitVec 32 := BitVec.ofNat 32 mask
    let fresh := (List.range 32).filter fun k => m.getLsbD k && !v.opened.getLsbD k
    { v with opened := v.opened ||| m,
             intm := (match mode with | some true => v.intm ||| m | some false => v.intm &&& ~~~m | none => v.intm),
             openSince := fresh.foldl (fun f k => fset none f k (some s.clk)) v.openSince }

/-- R210: an accumulator closes. -/
def State.closeAcc (s : State) (k : Nat) : State :=
  s.modVec fun v =>
    { v with opened := v.opened &&& ~~~(1#32 <<< k), openSince := fset none v.openSince k none,
             depthRaised := v.depthRaised &&& ~~~(1#32 <<< k) }

/-- R200: whether an accumulator is in INT32 mode. -/
def Core.intMode (c : Core) (k : Nat) : Bool := c.vec.intm.getLsbD k

/-! ### Operands of a step (R202, R203) -/

/-- R203: integer formats. -/
def intStep (f : Nat) : Bool := f == 0xA || f == 0xB || f == 0x11
def isMx (f : Nat) : Bool := f == 6 || f == 7
def isQi (f : Nat) : Bool := f == 0xC || f == 0xD

/-- R203: the formats of tA under an entry's FMT. -/
def stepFmtA (o : MOp) (f fa : Nat) : Bool :=
  match o with
  | .stepq => fa == 2 || fa == 3 || fa == 4 || fa == 5
  | _ => fa == f

/-- R203: the formats of tB. -/
def stepFmtB (f fb : Nat) : Bool :=
  if f = 4 ∨ f = 5 then fb == 4 || fb == 5
  else if f = 0xA ∨ f = 0x11 then fb == 0xA || fb == 0x11
  else fb == f

/-- R202, R203: the checks of operand A. -/
def stepChecksA (o : MOp) (f d ka : Nat) : List (Nat × Bool) :=
  let sparse := o = .steps
  [(0, descReserved d),
   (1, shapeBad d || decide (32 < dRows d) || decide (cdiv (dCols d) 32 ≤ ka) ||
       (isMx (dFmt d) && ((dLay d != 0 && dLay d != 2) || dCols d % 32 != 0))),
   (2, !stepFmtA o f (dFmt d)),
   (4, dSpar d != (if sparse then 1 else 0) || dLay d == 4)]

/-- R202, R203: the checks of operand B. -/
def stepChecksB (f d kb : Nat) : List (Nat × Bool) :=
  let rowLay := dLay d != 1 && dLay d != 3
  [(0, descReserved d),
   (1, shapeBad d || decide (32 < dCols d) || decide (cdiv (dRows d) 32 ≤ kb) ||
       (isMx (dFmt d) && (rowLay || dRows d % 32 != 0)) ||
       (isQi (dFmt d) && (rowLay || dRows d % (32 * 2 ^ dGs d) != 0))),
   (2, !stepFmtB f (dFmt d)),
   (4, dSpar d != 0 || dLay d == 4)]

/-- An operand tile of a step. -/
structure Opnd where
  d : Nat
  bits : Nat
  side : Nat
  deriving DecidableEq, Repr

def Core.opnd (c : Core) (g t : Nat) : Opnd := { d := c.descOf g t, bits := (c.tileOf g t).toNat, side := (c.sideOf g t).toNat }

/-- The encoding of element (r, c) and its position. -/
def Opnd.elem (x : Opnd) (r c : Nat) : Nat × Nat :=
  let i := posOf x.d r c
  (elemAt (fmtBits (dFmt x.d)) x.bits i, i)

/-- R207: the exact value of an element with its block scale. -/
def Opnd.value (x : Opnd) (r c : Nat) : XR :=
  let (e, i) := x.elem r c
  let v := elemValue (dFmt x.d) e
  if isMx (dFmt x.d) then xmul v (e8m0 (elemAt 8 x.side (i / 32))) else v

/-- R207: the integer of an element of an integer format, or the q field of a QI format. -/
def Opnd.int (x : Opnd) (r c : Nat) : Int := intValue (dFmt x.d) (x.elem r c).1

/-- Whether (r, c) lies within the shape. -/
def Opnd.has (x : Opnd) (r c : Nat) : Bool := decide (r < dRows x.d) && decide (c < dCols x.d)

/-! ### Terms (R207, R208) -/

/-- R208: the logical row of stored column j of row m. -/
def sparseRow (meta0 ka m j : Nat) : Nat := 4 * (j / 2) + fld meta0 (2 * (1024 * ka + 32 * m + j)) 2

/-- The pair of element places of each allowed k: A's column and the tile and row of B. DESIGN CHOICE: log entry 125 (a column that tB + 1 lacks). -/
def stepPairs (o : MOp) (a b b2 : Opnd) (meta0 ka kb m n : Nat) : List (Nat × Opnd × Nat) :=
  ((List.range 32).map fun k =>
    if o = .steps then
      let l := sparseRow meta0 ka m k
      (32 * ka + k, if l < 32 then b else b2, 32 * kb + l % 32)
    else (32 * ka + k, b, 32 * kb + k)).filter fun x => a.has m x.1 && x.2.1.has x.2.2 n

/-- The terms of a floating step. -/
def termsF (a : Opnd) (m n : Nat) (ps : List (Nat × Opnd × Nat)) : List XR :=
  ps.map fun (c, b, r) => xmul (a.value m c) (b.value r n)

/-- R48: the terms of MSTEPQ, one for each weight group the slice meets. -/
def termsQ (a b : Opnd) (m n : Nat) (ps : List (Nat × Opnd × Nat)) : List XR :=
  let gsz := 32 * 2 ^ dGs b.d
  let grp (r : Nat) : Nat := (b.elem r n).2 / gsz
  let gs := (ps.map fun x => grp x.2.2).eraseDups
  gs.map fun j =>
    let part := ps.filter fun x => grp x.2.2 == j
    let word := elemAt 32 b.side j
    let av := part.map fun x => a.value m x.1
    let aq := part.map fun x => xmul (a.value m x.1) (xint (b.int x.2.2 n))
    match qiScale word with
    | .fin sn sm => xmul (.fin sn sm) (xsub (xsum aq) (xmul (xint (qiZero (dFmt b.d) word)) (xsum av)))
    | _ => .nan

/-- The exact integer sum of an integer step. -/
def sumI (a : Opnd) (m n : Nat) (ps : List (Nat × Opnd × Nat)) : Int :=
  (ps.map fun (c, b, r) => a.int m c * b.int r n).foldl (· + ·) 0

/-! ### The plans (R206, R209 to R211) -/

/-- The inside elements of a step, row by row. -/
def insides (rows cols : Nat) : List (Nat × Nat) :=
  ((List.range rows).map fun m => (List.range cols).map fun n => (m, n)).flatten

def planStep (o : MOp) (f : Nat) (x : StepOps) (idx g : Nat) (p : Core) : Plan :=
  let a := p.opnd g x.ta.toNat
  let b := p.opnd g x.tb.toNat
  let b2 := p.opnd g (x.tb.toNat + 1)
  let meta0 := (p.tileOf g x.tc.toNat).toNat
  let k := 4 * g + x.ad.toNat
  let int := intStep f
  let rows := dRows a.d
  let cols := dCols b.d
  let pairs (mn : Nat × Nat) := stepPairs o a b b2 meta0 x.ka.toNat x.kb.toNat mn.1 mn.2
  let eff : Effect :=
    if int then .stepI g x.ad.toNat x.z rows cols ((insides rows cols).map fun mn => sumI a mn.1 mn.2 (pairs mn)) idx false
    else
      .stepF g x.ad.toNat x.z rows cols
        ((insides rows cols).map fun mn =>
          stepSum (if isQi f then termsQ a b mn.1 mn.2 (pairs mn) else termsF a mn.1 mn.2 (pairs mn))) idx false
  let second : List (Nat × Bool) :=
    if o = .steps then (6, x.tb == 31) :: (if x.tb = 31 then [] else stepChecksB f b2.d x.kb.toNat) else []
  { Plan.checked (stepChecksA o f a.d x.ka.toNat ++ stepChecksB f b.d x.kb.toNat ++ second ++
      [(9, !x.z && p.intMode k != int)]) [eff] with
    now := fun s => s.openAcc (2 ^ k) (if x.z then some int else none) }

/-- R209. -/
def planMzero (mask : BitVec 4) (int : Bool) (g : Nat) : Plan :=
  { Plan.of (((List.range 4).filter fun i => mask.getLsbD i).map fun i => .azero g i) with
    now := fun s => s.openAcc (mask.toNat * 2 ^ (4 * g)) (some int) }

/-- R210: the edge limits; `c` is the core after any LOOP of the bundle. -/
def mretEdge (a : MretOps) (c : Core) : Nat × Nat :=
  let last (n : Nat) : Bool := fld (fget 0 c.sca.lc n).toNat 0 32 == fld (fget 0 c.sca.lc n).toNat 32 32
  (if a.e && last 0 then a.em.toNat + 1 else 32, if a.e && last 1 then a.en.toNat + 1 else 32)

/-- R210: Round(x · k). An INT32 zero times a negative k is −0. DESIGN CHOICE: log entry 90. -/
def mretOne (f : Nat) (int : Bool) (k : XR) (x : Nat) : Nat :=
  roundTo f .rne (xmul (if int then xint (sx x 32) else decodeF .fp32 x) k)

/-- R210: a tile of rows `r0` up to `r1` of the output. -/
def mretTile (g td f cols r0 r1 : Nat) (y : Nat → Nat → Nat) : List Effect :=
  tileEffs g td (packElems (fmtBits f) ((insides (r1 - r0) cols).map fun mn => y (r0 + mn.1) mn.2)) (mkDesc f 0 0 0 (r1 - r0) cols)

def planMret (f : Nat) (a : MretOps) (g : Nat) (p late : Core) : Plan :=
  let k := 4 * g + a.acc.toNat
  let acc := (p.accOf g a.acc.toNat).toNat
  let sc : XR := if a.ks then decodeF .fp32 (fld (p.kreg a.kn.toNat).toNat 0 32) else .fin false 1
  let (rows, cols) := mretEdge a late
  let y (m n : Nat) : Nat := mretOne f (p.intMode k) sc (fld acc (32 * (32 * m + n)) 32)
  let td := a.td.toNat
  let wide := f = 1 ∨ f = 8
  { Plan.checked [(6, decide (wide ∧ a.td = 31 ∧ 16 < rows))]
      (if wide then mretTile g td f cols 0 (min rows 16) y ++ (if 16 < rows then mretTile g (td + 1) f cols 16 rows y else [])
       else mretTile g td f cols 0 rows y) with
    now := fun s => if a.c then s.closeAcc k else s }

end Sys2Proof.Machine
end

