-- ==== Sys2Proof/Machine/Xex.lean ====
section
/-! DEFINITION. XEX (R157 to R161): the lookup of an index in every group, the checks, the queue conditions and the issue of
the groups' entries. -/

namespace Sys2Proof.Machine

/-! ### The tables (R152, R156) -/

/-- The key of a class, and of a group's entry, of an index of a side. -/
def clsKey (side : Bool) (idx : Nat) : Nat := b2n side * 1024 + idx
def entKey (side : Bool) (g idx : Nat) : Nat := (2 * g + b2n side) * 1024 + idx

/-- R156: the class of an index on a side. -/
def Core.classOf (c : Core) (side : Bool) (idx : Nat) : LClass := LClass.ofCode (fget 0 c.tab.cls (clsKey side idx)).toNat

/-- A group's entry under an index of a side. -/
def Core.entryOf (c : Core) (side : Bool) (g idx : Nat) : Entry :=
  (Entry.decode (fget 0 c.tab.ents (entKey side g idx))).getD .nop

/-- The plan of an entry of group `g`. `late` is the core after the scalar slots of the bundle (R210). -/
def planOf (e : Entry) (idx g : Nat) (p : State) (late : Core) : Plan :=
  let c := p.core
  match e with
  | .nop => .of []
  | .pset pn b ptr str => planPset g c pn b ptr str
  | .padd pn m imm => planPadd g c pn m imm
  | .dsh td ts k => planPull g c td.toNat ts.toNat ((g + 8 - k.toNat) % 8)
  | .dbc td ts sg => planPull g c td.toNat ts.toNat sg.toNat
  | .move o a => planMove o a g p
  | .tldp f td pn pc mid => planTldp f.toNat td.toNat pn.toNat pc.toNat mid g p
  | .tmov td ta => planTmov g c td.toNat ta.toNat
  | .vfill f td imm => planFill false g c f.toNat td.toNat imm.toNat
  | .viota f td imm => planFill true g c f.toNat td.toNat imm.toNat
  | .elem o f td ta tb tc => planElem o g c f.toNat td.toNat ta.toNat tb.toNat tc.toNat
  | .bits o td ta tb => planBits o g c td.toNat ta.toNat tb.toNat
  | .shift o f td ta tb h sh => planShift o g c f.toNat td.toNat ta.toNat tb.toNat h sh.toNat
  | .cmp o f td ta tb => planCmp o g c f.toNat td.toNat ta.toNat tb.toNat
  | .vsel f td tm ta tb => planVsel g c f.toNat td.toNat tm.toNat ta.toNat tb.toNat
  | .red o f td ta => planRed o g c f.toNat td.toNat ta.toNat
  | .bcast col f td ta h => planBcast col g c f.toNat td.toNat ta.toNat h
  | .fn o f td ta => planFn o g c f.toNat td.toNat ta.toNat
  | .vsmxm f tm ts => planVsmxm g c f.toNat tm.toNat ts.toNat
  | .vsmxs f tp ts tm tl => planVsmxs g c f.toNat tp.toNat ts.toNat tm.toNat tl.toNat
  | .vcvt f td ta rm => planVcvt g c f.toNat td.toNat ta.toNat rm.toNat
  | .vqnt f td ta kn gs => planVqnt g c f.toNat td.toNat ta.toNat kn.toNat gs.toNat
  | .vdq f td ta kn => planVdq g c f.toNat td.toNat ta.toNat kn.toNat
  | .vscl f td ta kn mode => planVscl g c f.toNat td.toNat ta.toNat kn.toNat mode.toNat
  | .mstep o f a => planStep o f.toNat a idx g c
  | .mzero mask int => planMzero mask int g
  | .mret f a => planMret f.toNat a g c late
  | .mchk => .of [.asstat g none]

/-- The groups whose entry is not NOP, with their plans. -/
def stepPlans (idx : Nat) (p : State) (late : Core) : List (Nat × Entry × Plan) :=
  ((List.range 8).map fun g => (g, p.core.entryOf p.core.tab.act g idx)).filterMap fun (g, e) =>
    match e with
    | .nop => none
    | _ => some (g, e, planOf e idx g p late)

/-! ### Checks (R161, R179, R184) -/

/-- Whether two lists share an element. -/
def sharesAny (a b : List Nat) : Bool := a.any fun x => b.contains x

/-- R179: the reasons of a group, its overlap with another group's queue entry among them. -/
def tileReasons (ps : List (Nat × Entry × Plan)) (x : Nat × Entry × Plan) : List Nat :=
  if ps.any (fun y => y.1 != x.1 && sharesAny x.2.2.lines y.2.2.lines) then 7 :: x.2.2.bad else x.2.2.bad

/-- R161: the reasons of a byte range of group `g`. -/
def reachReasons (c : Core) (g : Nat) (r : Nat × Nat) : List Nat :=
  if r.2 = 0 then []
  else
    let b0 := r.1 / 65536
    let banks := (List.range ((r.1 + r.2 - 1) / 65536 + 1 - b0)).map fun i => b0 + i
    reasons [(0, banks.any fun b => decide (b < 32) && b / 4 != g),
             (1, banks.any fun b => decide (32 ≤ b) && decide (b < 48) && decide (c.lsu.carveBank ≤ b)),
             (2, decide (arraySize < r.1 + r.2))]

/-- The cause of a check that fails in some groups: the mask of those groups and the lowest group's lowest reason. DEDUCED: log entry 27. -/
def groupCause (k : Cause) (idx : Nat) (l : List (Nat × List Nat)) : Option CauseInfo :=
  let fails := l.filterMap fun x => (lowest x.2).map fun r => (x.1, r)
  match fails with
  | [] => none
  | (_, r) :: _ =>
    some { cause := k.no, slot := 2, gmask := (fails.map fun x => 2 ^ x.1).sum, reason := r, tl := 0, eng := 0, tlnum := 0, tstat := idx }

/-- R179, then R161. -/
def stepFault (idx : Nat) (p : State) (ps : List (Nat × Entry × Plan)) : Option CauseInfo :=
  match groupCause .tileop idx (ps.map fun x => (x.1, tileReasons ps x)) with
  | some c => some c
  | none => groupCause .reach idx (ps.map fun x => (x.1, (x.2.2.reach.map (reachReasons p.core x.1)).flatten))

/-- R353: the first byte range, or tag, read at issue that fails ECC. -/
def stepMemue (p : State) (ps : List (Nat × Entry × Plan)) : Option CauseInfo :=
  let own (off : Nat) : Nat := arrayBase p.no + off
  let bad := (ps.map fun x =>
    (x.2.2.reads.filter fun r => badData p.pkg (own r.1) r.2).map Prod.fst ++ x.2.2.tagRead.filter fun o => badTag p.pkg (own o)).flatten
  match bad with
  | [] => none
  | off :: _ => some (slotCause .memue 2 0 (localBase + off))

/-- R184: every queue entry of the step may proceed. -/
def queuesReady (p : State) (ps : List (Nat × Entry × Plan)) : Bool :=
  ps.all fun x => x.2.2.lines.all fun l =>
    !p.core.lsu.claims.contains l && fullAt p.pkg (arrayBase p.no + 128 * l) == x.2.2.wantFull

/-! ### XEX (R157, R158) -/

/-- R157: the stage predicate. -/
def stageOn (psel : BitVec 4) (c : Core) : Bool := psel == 0 || c.sca.spst.getLsbD (psel.toNat - 8)

/-- Whether an entry is a matrix step (R346 counter 2). -/
def Entry.isStep : Entry → Bool
  | .mstep .. => true
  | _ => false

/-- R158, R159: the issue of a step: changes made at issue, then the results, in group order. -/
def issueStep (sq : Bool) (lat : Nat) : List (Nat × Entry × Plan) → State → State
  | [], s => s
  | (_, e, pl) :: ps, s =>
    let s := if e.isStep then s.perf 2 1 else s
    let s := pl.effs.foldl (fun s x => s.putEff sq lat x) (pl.now s)
    issueStep sq lat ps s

def semXex (h : Head) (idx : BitVec 10) (psel : BitVec 4) : SlotSem :=
  { op := fun p s => guarded h p s fun s =>
      let i := idx.toNat
      let k := p.core.classOf p.core.tab.act i
      if !stageOn psel p.core || k == .nop then .ok s
      else
        let ps := stepPlans i p s.core
        match stepFault i p ps with
        | some c => .trap c
        | none =>
          match stepMemue p ps with
          | some c => .trap c
          | none => .ok (issueStep h.sq k.latency ps ((s.modTab fun t => { t with xnext := s.clk + k.interval }).perf 1 1))
    wait := fun p => activeWait h p (
      let i := idx.toNat
      if !stageOn psel p.core || p.core.classOf p.core.tab.act i == .nop then .go
      else if p.clk < p.core.tab.xnext then .stall [5]
      else
        let ps := stepPlans i p p.core
        match stepFault i p ps with
        | some c => .trap c
        | none => if queuesReady p ps then .go else .stall [6]) }

/-- XEX (R158). Sends a table index to all groups, each executing its own entry in lockstep. -/
def execXex (h : Head) (idx : BitVec 10) (psel : BitVec 4) (s : State) : Host.Outcome State Fault Refusal :=
  issueSingle (.xex h idx psel) (semXex h idx psel) s

end Sys2Proof.Machine
end

