-- ==== Sys2Proof/Machine/Fill.lean ====
section
/-! DEFINITION. Table fills and codebook fills (R162, R163, R261), the shift change (R164 to R168), TSTATR and TDSET. -/

namespace Sys2Proof.Machine

/-! ### Table state (R153, R154) -/

/-- R153: the TFILL commands issued and not complete. -/
def Core.fills (c : Core) : Nat :=
  (c.eng.cmds.filter fun x => (match x.op with | .tfill .. => true | _ => false) && x.st != .ended).length

/-- R154: SHST: 0 EMPTY, 1 FILLING, 2 VALID, 3 INVALID. -/
def Core.shst (c : Core) : Nat :=
  if !c.tab.ever then 0 else if 0 < c.fills then 1 else if c.tab.bad then 3 else 2

/-- R153: TABST. -/
def Core.tabst (c : Core) : Nat :=
  c.tab.badidx.toNat * 2 ^ 32 + c.tab.badwhy.toNat * 2 ^ 28 + min c.fills 255 * 2 ^ 8 + b2n c.tab.bad * 2 ^ 3 + c.shst * 2 +
    b2n c.tab.act

/-! ### TFILL (R162, R163) -/

/-- R162: the range word. -/
def fillFirst (b : Double) : Nat := fld b.toNat 0 10
def fillNum (b : Double) : Nat := fld b.toNat 10 11

/-- R162, R154: the first fill of a side makes it not EMPTY; one that covers every index clears BAD at its issue. -/
def semTfill (h : Head) (a b : BitVec 6) (gmask : BitVec 8) : SlotSem :=
  cmdForm h 7 0x90 (fun c => .tfill (c.cA a) (c.cB b) gmask) fun c s =>
    s.modTab fun t => { t with ever := true,
                               bad := if fillFirst (c.cB b) = 0 ∧ fillNum (c.cB b) = 1024 then false else t.bad }

/-- A command of tl7 has failed; `mark` is done where the engine does not restart it. -/
def failFill (c : Cmd) (f : EFail) (tstat : Nat) (mark : State → State) (s : State) : State :=
  let s := failWith c f tstat s
  match s.findCmd c.id with
  | some x => if x.st = .ready then s else mark s
  | none => mark s

/-- R162: TABCLASS. BAD, BADIDX and BADWHY are set when the fill fails (R154), whether or not its engine restarts it. -/
def failClass (c : Cmd) (idx why : Nat) (s : State) : State :=
  let s := s.modTab fun t => { t with bad := true, badidx := BitVec.ofNat 10 idx, badwhy := BitVec.ofNat 4 why }
  failWith c (Cause.tabclass.no, why) s.core.tabst s

/-- A fault while the image is read: XLATE (a carved byte among its reasons), MEMUE or CMPLOAD. DEDUCED: log entry 33. -/
def failImage (c : Cmd) (e : EFail) (s : State) : State :=
  s.orWait c e fun e s =>
    let e := if e.1 = Cause.cpyfail.no then (Cause.xlate.no, 4) else e
    failWith c e (cpyStat c 0 e) (s.modTab fun t => { t with bad := true })

/-- Why an index of a fill fails: a read, or an entry that breaks R69 or R70. -/
inductive FillErr where
  | read (e : EFail)
  | entry
  deriving DecidableEq, Repr

/-- R162: the entries of the selected groups for the `i`-th index of a fill: for each group in turn the entry is read, then checked. -/
def readEntries (s : State) (a num i : Nat) : List Nat → Except FillErr (List (Nat × Double))
  | [] => .ok []
  | g :: gs =>
    match s.engRead false (va56 (a + 8 * (g * num + i))) 8 with
    | .error e => .error (.read e)
    | .ok bs =>
      let v : Double := BitVec.ofNat 64 (leNat bs)
      if (Entry.decode v).isNone then .error .entry
      else (readEntries s a num i gs).map fun r => (g, v) :: r

/-- R156: the classes of the non-NOP entries of an index of a side. -/
def Core.classes (c : Core) (side : Bool) (idx : Nat) : List LClass :=
  ((List.range 8).map fun g => (c.entryOf side g idx).cls).filter fun k => k != .nop

/-- R162: writes the entries of an index and its class. -/
def State.writeIndex (s : State) (side : Bool) (idx : Nat) (es : List (Nat × Double)) : State :=
  let s := s.modTab fun t => { t with ents := es.foldl (fun m e => fset 0 m (entKey side e.1 idx) e.2) t.ents }
  let k := (s.core.classes side idx).headD .nop
  s.modTab fun t => { t with cls := fset 0 t.cls (clsKey side idx) (BitVec.ofNat 4 k.code) }

/-- R162: one index of a fill is read, checked, written and checked across the groups. -/
def fillIndex (a num first i : Nat) (gs : List Nat) (s : State) : Except FillErr State :=
  (readEntries s a num i gs).map fun es => s.writeIndex (!s.core.tab.act) (first + i) es

/-- R156: an index of the shadow side has at most one class. -/
def Core.oneClass (c : Core) (idx : Nat) : Bool :=
  let ks := c.classes (!c.tab.act) idx
  ks.all fun k => k == ks.headD .nop

/-- TFILL_INDEX_WRITE: one index of the first fill in a clk (R163): `wait` holds the clk of the last. -/
def tfillStep (s : State) : State :=
  match s.core.head 7 with
  | none => s
  | some c =>
    match c.op, c.st with
    | .tfill a b _, .ready =>
      let first := fillFirst b
      let num := fillNum b
      if num = 0 ∨ 1024 < first + num then failClass c first 2 s
      else if a.toNat % 8 ≠ 0 then failClass c first 3 s
      else s.putCmd { c with st := .run, wait := some s.clk }
    | .tfill a b m, .run =>
      let idx := fillFirst b + c.t
      if c.wait = some s.clk then s
      else
        (match fillIndex a.toNat (fillNum b) (fillFirst b) c.t (groupsOf m) s with
         | .error (.read e) => failImage c e s
         | .error .entry => failClass c idx 1 s
         | .ok s =>
           if s.core.oneClass idx then
             s.putCmd { c with t := c.t + 1, wait := some s.clk, st := if c.t + 1 = fillNum b then .ended else .run }
           else failClass c idx 0 s)
    | .tfill .., .failed => settle c s
    | _, _ => s

/-! ### CBFILL (R223, R224, R261) -/

/-- R223: every fill clears the bank's mark at its issue. -/
def semCbfill (h : Head) (a : BitVec 6) (bank : BitVec 1) (smask : BitVec 4) : SlotSem :=
  cmdForm h 7 0x8D (fun c => .cbfill (c.cA a) bank.toNat smask) fun _ s =>
    s.modVec fun v => { v with cbMark := v.cbMark &&& ~~~(1#2 <<< bank.toNat), cbEver := v.cbEver ||| (1#2 <<< bank.toNat) }

/-- R224: an expansion from bank `b` has not landed, one that is a landing record (R338) among them. Once the unit leaves its core its records land no more
there, and hold no fill. DEDUCED: log entry 138. -/
def State.cbBusy (s : State) (b : Nat) : Bool :=
  let hits (x : Pending) : Bool := match x.eff with | .tileSeg _ _ _ _ _ cb => cb == b | _ => false
  let t := s.core.trp
  (s.core.sca.inflight ++ t.assayRecs ++ (if s.core.un.st = .running then t.bank1.recs ++ t.bank2.recs ++ t.reRecs else [])).any hits

/-- The selected slots, rising. -/
def slotsOf (m : BitVec 4) : List Nat := (List.range 4).filter fun i => m.getLsbD i

/-- A fill of a codebook bank has failed: DONE counts the slots written (R246); the bank is marked (R223). DEDUCED: log entry 33. -/
def failCb (c : Cmd) (b : Nat) (e : EFail) (s : State) : State :=
  s.orWait c e fun e s => failFill c e (cpyStat c (32 * c.t) e) (fun s => s.modVec fun v => { v with cbMark := v.cbMark ||| (1#2 <<< b) }) s

/-- CBFILL_SLOT_WRITE: one slot of the first fill; its first write is held (R224). -/
def cbfillStep (s : State) : State :=
  match s.core.head 7 with
  | none => s
  | some c =>
    match c.op, c.st with
    | .cbfill a b _, .ready => if a.toNat % 32 ≠ 0 then failCb c b (cpyFail 0) s else s.putCmd { c with st := .run }
    | .cbfill a b m, .run =>
      if c.t = 0 ∧ s.cbBusy b then s
      else
        let sl := slotsOf m
        (match s.engRead false (va56 (a.toNat + 32 * c.t)) 32 with
         | .error e => failCb c b e s
         | .ok bs =>
           let s := s.modVec fun v => { v with cb := fset 0 v.cb (4 * b + nth sl c.t) (BitVec.ofNat 256 (leNat bs)) }
           s.putCmd { c with t := c.t + 1, st := if c.t + 1 = sl.length then .ended else .run })
    | .cbfill .., .failed => settle c s
    | _, _ => s

/-! ### TSWAP (R164 to R168) -/

/-- R164: SET and N of a switch word. -/
def swSet (w : Double) : Nat := fld w.toNat 0 16
def swNum (w : Double) : Nat := max (fld w.toNat 16 10) 1

/-- TABINV, precise at the TSWAP. -/
def tabinv (c : Core) : CauseInfo := slotCause .tabinv 0 0 c.tabst

/-- R165: the arrival of the current core joins its set, or opens one where fewer than 64 are open. DEDUCED: log entry 29. -/
def arriveSet (no job : Nat) (w : Double) (sets : List SwSet) : List SwSet :=
  let mine (x : SwSet) : Bool := x.job == job && x.set == swSet w
  if sets.any mine then sets.map fun x => if mine x ∧ !x.members.contains no then { x with members := x.members ++ [no] } else x
  else if 64 ≤ sets.length then sets
  else sets ++ [{ job, set := swSet w, n := swNum w, members := [no] }]

/-- R165: removes a core's arrivals. A set that has none left is forgotten with its N: the next arrival opens it anew. DESIGN CHOICE: log entry 96. -/
def leaveSets (no : Nat) (sets : List SwSet) : List SwSet :=
  (sets.map fun x => { x with members := x.members.filter fun m => m ≠ no }).filter fun x => !x.members.isEmpty

def State.modSets (s : State) (f : List SwSet → List SwSet) : State := s.modPkg fun p => { p with sets := f p.sets }

/-- R166: the swap. -/
def State.swapSides (s : State) : State :=
  (s.modTab fun t => { t with act := !t.act, ever := true, bad := false, swcount := t.swcount + 1, bound := none, bindBad := false }).modSca
    Sca.clearLatches

/-- R164: what TSWAP reads; it does nothing else at its bundle's issue. -/
def semTswap (h : Head) (_a : BitVec 6) : SlotSem := { op := fun p s => guarded h p s fun s => .ok s, wait := noWait }

/-- R165: the faults of a bundle that holds TSWAP, found before the core arrives. Its slots read the latches as they stand at its issue,
cleared (R166). An operation of the X slot looks up the side that will be active, where that side is VALID; else its faults are found at the
issue. DEDUCED: log entry 29. -/
def arrivalFaults (sem : Instr → SlotSem) (b : Bundle) (p : State) : Res :=
  let q := p.modSca Sca.clearLatches
  if p.core.shst = 2 then
    let q := q.modTab fun t => { t with act := !t.act }
    runOps sem (bundleOps b) q q
  else runOps sem (bundleOps { b with x := none }) q q

/-- R165 to R168: what a bundle that holds TSWAP does before it issues; a clk in which it lacks a codebook bank counts as such too (R224).
`none`: it issues. DESIGN CHOICE: log entry 124 (a shadow side that becomes INVALID in the wait). -/
def shiftChange (sem : Instr → SlotSem) (b : Bundle) (s p : State) : Option State :=
  let banks := bankStalls (opWaits sem b p)
  match b.s0 with
  | some (.tswap h a) =>
    (match s.core.tab.wait with
     | some w =>
       if w.released then none
       else if w.withdrawn then some (s.precise (slotCause .switchto 0 0 w.word.toNat))
       else if w.granted then some (s.stallClk banks)
       else if s.core.shst = 3 then some ((s.modSets (leaveSets s.no)).precise (tabinv s.core))
       else some ((s.modSets (arriveSet s.no s.core.un.job w.word)).stallClk banks)
     | none =>
       if !(guardOf h p.core && !killed h p.core) then none
       else match arrivalFaults sem b p with
         | .trap c => some (s.precise c)
         | .ok _ =>
           if s.core.shst = 0 ∨ s.core.shst = 3 then some (s.precise (tabinv s.core))
           else
             let w := p.core.src .s0 false a
             let s := s.modTab fun t =>
               { t with wait := some { word := w, since := s.clk, granted := false, grantAt := 0, released := false, withdrawn := false } }
             some ((s.modSets (arriveSet s.no s.core.un.job w)).stallClk banks))
  | _ => none

/-- R165: a set completes: N arrivals, and every member's shadow side is VALID. It is closed and its members are granted. -/
def completeSet (i : Nat) (s : State) : State :=
  match s.pkg.sets.drop i with
  | [] => s
  | x :: _ =>
    if x.n ≤ x.members.length ∧ x.members.all (fun m => (s.coreAt m).shst == 2) then
      let s := x.members.foldl (fun s m => s.modCore m fun c =>
        { c with tab := { c.tab with wait := c.tab.wait.map fun w => { w with granted := true, grantAt := s.clk } } }) s
      s.modSets fun l => l.take i ++ l.drop (i + 1)
    else s

/-- R166: the release reaches the current core. -/
def releaseSwap (s : State) : State :=
  match s.core.tab.wait with
  | some w =>
    if w.granted ∧ !w.released then s.swapSides.modTab fun t => { t with wait := some { w with released := true } } else s
  | none => s

/-- R168: the withdrawal; the leader has handled no release of the set. -/
def withdrawSwap (s : State) : State :=
  match s.core.tab.wait with
  | some w =>
    if !w.granted ∧ w.since + 2 ^ 24 ≤ s.clk then
      (s.modSets (leaveSets s.no)).modTab fun t => { t with wait := some { w with withdrawn := true } }
    else s
  | none => s

/-! ### TSTATR and TDSET (R170, R171) -/

def semTstatr (sl : SSlot) (h : Head) (dst : BitVec 5) (wbs : Bool) (sel : BitVec 3) : SlotSem :=
  { op := fun p s => guarded h p s fun s =>
      let v : Double :=
        if sel = 0 then BitVec.ofNat 64 p.core.tabst
        else if sel = 1 then p.core.tab.swstall
        else p.core.tab.swcount.setWidth 64
      .ok (s.land sl h dst wbs v 1)
    wait := noWait }

def semTdset (sl : SSlot) (h : Head) (treg : BitVec 5) (a : BitVec 6) (gmask : BitVec 8) : SlotSem :=
  { op := fun p s => guarded h p s fun s =>
      let v : Word32 := (p.core.src sl false a).setWidth 32
      .ok (s.putEffs h.sq 1 ((groupsOf gmask).map fun g => .desc g treg.toNat 0xFFFFFFFF v))
    wait := noWait }

/-! ### Execution -/

/-- TSWAP (R165). Arrives at a switch set and waits for the shift change. -/
def execTswap (h : Head) (a : BitVec 6) (s : State) : Host.Outcome State Fault Refusal :=
  issueSingleWith (shiftChange fun _ => semTswap h a) (.tswap h a) (semTswap h a) s

/-- TFILL_INDEX_WRITE (R162). -/
def execTfillIndexWrite (s : State) : Host.Outcome State Fault Refusal := event tfillStep s

/-- CBFILL_SLOT_WRITE (R261). -/
def execCbfillSlotWrite (s : State) : Host.Outcome State Fault Refusal := event cbfillStep s

/-- SET_COMPLETE (R165). -/
def execSetComplete (set : Nat) (s : State) : Host.Outcome State Fault Refusal := event (completeSet set) s

/-- SHIFT_CHANGE_RELEASE (R166). -/
def execShiftChangeRelease (s : State) : Host.Outcome State Fault Refusal := event releaseSwap s

/-- SWITCH_WITHDRAWAL (R168). -/
def execSwitchWithdrawal (s : State) : Host.Outcome State Fault Refusal := event withdrawSwap s

/-- TFILL (R162). Writes a table image into the shadow side. -/
def execTfill (h : Head) (a b : BitVec 6) (gmask : BitVec 8) (s : State) : Host.Outcome State Fault Refusal :=
  issueSingle (.tfill h a b gmask) (semTfill h a b gmask) s

/-- CBFILL (R261). Fills codebook slots from memory. -/
def execCbfill (h : Head) (a : BitVec 6) (bank : BitVec 1) (smask : BitVec 4) (s : State) : Host.Outcome State Fault Refusal :=
  issueSingle (.cbfill h a bank smask) (semCbfill h a bank smask) s

/-- TSTATR (R170). Reads TABST, SWSTALL or SWCOUNT. -/
def execTstatr (sl : SSlot) (h : Head) (dst : BitVec 5) (wbs : Bool) (selv : BitVec 3) (s : State) : Host.Outcome State Fault Refusal :=
  issueSingle (.tstatr sl h dst wbs selv) (semTstatr sl h dst wbs selv) s

/-- TDSET (R171). Writes a tile descriptor in the selected groups. -/
def execTdset (sl : SSlot) (h : Head) (treg : BitVec 5) (a : BitVec 6) (gmask : BitVec 8) (s : State) : Host.Outcome State Fault Refusal :=
  issueSingle (.tdset sl h treg a gmask) (semTdset sl h treg a gmask) s

end Sys2Proof.Machine
end

