-- ==== Sys2Proof/Machine/Hoist.lean ====
section
/-! DEFINITION. Prefetch streams (R257) and hoist subscriptions (R258 to R260). -/

namespace Sys2Proof.Machine

/-! ### Operations -/

def semStrm (h : Head) (a : BitVec 6) (sid : BitVec 3) (tgt : Bool) (depthm1 : BitVec 8) : SlotSem :=
  cmdForm h noTl 0x88 (fun c => .strm (c.cA a) sid.toNat tgt (depthm1.toNat + 1)) fun _ s => s
def semStrmx (h : Head) (a : BitVec 6) (sid : BitVec 3) : SlotSem :=
  cmdForm h noTl 0x89 (fun c => .strmx (c.cA a) sid.toNat) fun _ s => s
def semHsub (h : Head) (a b : BitVec 6) (sid : BitVec 3) (dir : Bool) : SlotSem :=
  cmdForm h 6 0x8B (fun c => .hsub (c.cA a) (c.cB b) sid.toNat dir) fun _ s => s
def semHrel (h : Head) (sid : BitVec 3) : SlotSem := cmdForm h noTl 0x8C (fun _ => .hrel sid.toNat) fun _ s => s

/-! ### Subscriptions (R258 to R260) -/

/-- R258: the ring word. -/
def ringBase (b : Double) : Nat := fld b.toNat 0 22
def ringSlots (b : Double) : Nat := fld b.toNat 22 8 + 1
def ringLines (b : Double) : Nat := fld b.toNat 30 10 + 1

/-- R258: a running subscription with a number. -/
def Cmd.isSub (c : Cmd) (sid : Nat) : Bool := (match c.op with | .hsub _ _ k _ => k == sid | _ => false) && c.st == .run

/-- The subscriptions that are active. -/
def Core.activeSubs (c : Core) : List Cmd := c.eng.cmds.filter fun x => (match x.op with | .hsub .. => true | _ => false) && x.st == .run

/-- R256, R259: the end of a subscription without failure: its tags are put once, then the token goes out. -/
def endSub (c : Cmd) (s : State) : State :=
  let (c, s) := if c.closed then (c, s) else s.putTagsOf c
  match c.dst with
  | some d => endCopy { c with closed := true } d s
  | none => s.putCmd { c with st := .ended }

/-- HREL (R260): no further tile is started; the subscription ends once the entries that are due have gone out. One whose checks are
still to be made ends after them. -/
def State.releaseSub (s : State) (sid : Nat) : State :=
  let mine (c : Cmd) : Bool := (match c.op with | .hsub _ _ k _ => k == sid | _ => false) && (c.st == .run || c.st == .ready)
  let s := s.modEng fun e => { e with cmds := e.cmds.map fun c => if mine c then { c with rel := true } else c }
  match s.core.eng.cmds.find? fun c => c.isSub sid with
  | none => s
  | some c => if c.owes then s else endSub c s

/-- R258: the checks made when the subscription begins; the memory bytes are checked as tiles reach them. -/
def subStart (c : Cmd) (a b : Double) (sid : Nat) (s : State) : State :=
  match s.readDesc (offsetOf a) with
  | .error e => failCopy c e 0 s
  | .ok d =>
    let out := match c.op with | .hsub _ _ _ o => o | _ => false
    let lines := ringLines b
    let bad := reasons [(0, out && d.syncen && d.sync % 16 != 0),
      (1, d.run == 0 || decide (2 ^ 31 < d.run) || (out && (fld d.ctl 0 7 != 0 || d.th == 3))),
      (4, decide (arraySize < ringBase b + 128 * lines * ringSlots b)), (5, d.fe),
      (10, s.core.eng.cmds.any (fun x => x.isSub sid) || ringBase b % 128 != 0 || d.run != 128 * lines)]
    match lowest bad with
    | some r => failCopy c (cpyFail r) 0 s
    | none =>
      let c := { c with st := .run, dst := if out then some d else none, src := if out then none else some d }
      if c.rel then endSub c s else s.putCmd c

/-- The offset of the ring slot of tile `k`. -/
def slotOff (b : Double) (k : Nat) : Nat := ringBase b + k % ringSlots b * (128 * ringLines b)

/-- R259: whether every line of a slot is full, or empty, and none is claimed. -/
def State.slotReady (s : State) (off n : Nat) (full : Bool) : Bool :=
  (List.range n).all fun i => s.lineReady (arrayBase s.no + off + 128 * i) full

/-- R259: whether tags are carried slot for slot. -/
def wholeSlots (d : Desc) (b : Double) : Bool := d.run % 2048 == 0 && ringBase b % 2048 == 0 && d.startsOk 2048

/-- R258: whether `n` bytes from `va` lie in HBM; a translation that fails gives its own cause. -/
def State.inHbm (s : State) (store : Bool) : Nat → Nat → Nat → Except EFail Unit
  | 0, _, _ => .ok ()
  | fuel + 1, va, n =>
    if n = 0 then .ok ()
    else match s.engXl store false va with
      | .error e => .error (if e.1 = 0 then cpyFail 10 else e)
      | .ok x => if regionOf x.pa ≠ .hbm then .error (cpyFail 10) else
        let k := min n (2048 - va % 2048)
        s.inHbm store fuel (va56 (va + k)) (n - k)

/-- The carve test of a slot's bytes (R246). -/
def Core.slotCarved (c : Core) (off n : Nat) : Bool := c.carved (off + n - 1)

/-- The memory slots of a run of whole slots. -/
def State.runSlots (s : State) (store : Bool) (va n : Nat) : List Nat :=
  (List.range (n / 2048)).map fun i => match s.engXl store false (va56 (va + 2048 * i)) with | .ok x => x.pa | .error _ => 0

/-- Sets tags of consecutive slots of the own array. -/
def State.setOwnTags (s : State) (off : Nat) (tags : List Nat) : State :=
  s.modPkg fun p => ((tags.zip (List.range tags.length)).foldl (fun p x => setTag p (arrayBase s.no + off + 2048 * x.2) (BitVec.ofNat 16 x.1)) p)

/-- The 2 KiB slots that `n` bytes of a core array from `off` touch get tag 0x0000. -/
def State.zeroOwnTags (s : State) (off n : Nat) : State :=
  s.setOwnTags (off / 2048 * 2048) ((List.range ((off + n - 1) / 2048 + 1 - off / 2048)).map fun _ => 0)

/-- A tile of a subscription is done; after the last one the subscription ends (R259). -/
def tileDone (c : Cmd) (d : Desc) (s : State) : State :=
  let c := { c with t := c.t + d.run }
  if c.t = d.len ∧ !c.owes then endSub c s else s.putCmd c

/-- HOIST_TILE_IN (R259). -/
def hoistIn (sid : Nat) (s : State) : State :=
  match s.core.eng.cmds.find? fun c => c.isSub sid with
  | none => s
  | some c =>
    match c.op, c.src with
    | .hsub _ b _ false, some d =>
      let k := c.t / d.run
      let off := slotOff b k
      let n := ringLines b
      let va := d.vaOf c.t
      if c.rel then endSub c s
      else if s.core.slotCarved off d.run then failCopy c (cpyFail 3) c.t s
      else if !s.slotReady off n false then s
      else
        (match s.inHbm false (d.run / 2048 + 2) va d.run with
         | .error e => failCopy c e c.t s
         | .ok () =>
           match s.engRead false va d.run with
           | .error e => failCopy c e c.t s
           | .ok bs =>
             let slots := if wholeSlots d b then s.runSlots false va d.run else []
             if slots.any (badTag s.pkg) then failCopy c (Cause.memue.no, 0) c.t s
             else if s.ownOutside off d.run then failCopy c (Cause.specout.no, 0) c.t s
             else
               let s := s.writeOwn off bs
               let s := if wholeSlots d b then s.setOwnTags off (slots.map fun pa => (tagAt s.pkg pa).toNat) else s.zeroOwnTags off d.run
               let s := s.modPkg fun p => setFullN p (arrayBase s.no + off) n true
               tileDone c d s)
    | _, _ => s

/-- Writes the bytes of a run to memory, one beat at a time, and marks the slots written. -/
def writeRun (xl : State → Nat → Except EFail Xl) : Nat → Nat → List Byte → Cmd → State → Except EFail (Cmd × State)
  | 0, _, _, c, s => .ok (c, s)
  | fuel + 1, va, bs, c, s =>
    if bs.isEmpty then .ok (c, s)
    else
      let k := min bs.length (32 - va % 32)
      match xl s va with
      | .error e => .error e
      | .ok x => writeRun xl fuel (va56 (va + k)) (bs.drop k) (c.markSlot x.pa k 0) (s.writePhysBytes x.pa (bs.take k))

/-- R259: the tags of the ring slots from `ring` go to the memory slots of a run. -/
def carryOut (ring : Nat) (slots : List Nat) (p : Pkg) : Pkg :=
  (slots.zip (List.range slots.length)).foldl (fun p x => setTag p x.1 (tagAt p (ring + 2048 * x.2))) p

/-- HOIST_TILE_OUT (R259): the slot is read and set empty, then the run is written. An entry that is due goes first (R256). -/
def hoistOut (sid : Nat) (s : State) : State :=
  match s.core.eng.cmds.find? fun c => c.isSub sid with
  | none => s
  | some c =>
    match c.op, c.dst with
    | .hsub _ b _ true, some d =>
      let off := slotOff b (c.t / d.run)
      let ring := arrayBase s.no + off
      let n := ringLines b
      let va := d.vaOf c.t
      (match pushDue c d with
       | some v => (match s.pushEntry c d v with
         | some s => s.putCmd { c with pushed := c.pushed + 1, wait := none }
         | none => blocked c s)
       | none =>
         if c.rel ∨ c.t = d.len then endSub c s
         else if s.core.slotCarved off d.run then failCopy c (cpyFail 3) c.t s
         else if !s.slotReady off n true then s
         else match s.inHbm true (d.run / 2048 + 2) va d.run with
           | .error e => failCopy c e c.t s
           | .ok () =>
             let whole := wholeSlots d b
             if badData s.pkg ring d.run ∨ (whole ∧ (List.range (d.run / 2048)).any fun i => badTag s.pkg (ring + 2048 * i)) then
               failCopy c (Cause.memue.no, 0) c.t s
             else
               let slots := if whole then s.runSlots true va d.run else []
               let bs := readBytes s.pkg ring d.run
               let s := s.modPkg fun p => setFullN p ring n false
               match writeRun (fun s => s.engXl true false) (d.run / 32 + 2) va bs c s with
               | .error e => failCopy c e c.t s
               | .ok (c', s) =>
                 let (c, s) := if whole then (c, s.modPkg (carryOut ring slots)) else (c', s)
                 match (if d.syncen then s.syncCount d.sync d.run else .ok s) with
                 | .error e => failCopy c e (c.t + d.run) s
                 | .ok s => tileDone c d s)
    | _, _ => s

/-- A subscription whose marker has been dispatched begins, or is settled. -/
def subBegin (s : State) : State :=
  match s.core.eng.cmds.find? fun c => (match c.op with | .hsub .. => true | _ => false) && (c.st == .ready || c.st == .failed) with
  | none => s
  | some c =>
    match c.op, c.st with
    | .hsub a b sid _, .ready => subStart c a b sid s
    | _, _ => settle c s

/-! ### Prefetch (R257) -/

/-- R257: the fill of a line of a bound stream: the line with virtual line number `line` holds a byte of the window. A line that
would fault or is not HBM or host memory is skipped; a fill into the home slice changes nothing a program sees. DESIGN CHOICE: log entry 70. -/
def prefetch (sid line : Nat) (s : State) : State :=
  match fget none s.core.eng.streams sid with
  | none => s
  | some x =>
    let d := x.desc
    let lo := d.run * x.p
    let here := (List.range (128 * x.depth)).any fun i =>
      decide (lo + i < d.len) && d.vaOf (lo + i) / 128 == line
    if !x.cc || !here then s
    else match s.engXl false false (128 * line) with
      | .error _ => s
      | .ok y => if cacheable y.dev y.nc y.cell y.pa then s.fillLine (128 * line) y.pa else s

/-! ### What happens at a marker (R146) -/

/-- STRM, STRMX and HREL act when their marker is dispatched. A descriptor that cannot be read leaves the binding, and one with RUN = 0 takes it away.
DESIGN CHOICE: log entry 106. -/
def streamAct (c : Cmd) (s : State) : State :=
  match c.op with
  | .strm a sid cc depth =>
    (match s.readDesc (offsetOf a) with
     | .ok d =>
       let b : Option Stream := if d.run = 0 then none else some { desc := d, cc, depth, p := 0 }
       s.modEng fun e => { e with streams := fset none e.streams sid b }
     | .error _ => s)
  | .strmx a sid =>
    let n := fld a.toNat 0 32
    s.modEng fun e =>
      let b := if n = 0 then none else (fget none e.streams sid).map fun x => { x with p := x.p + n }
      { e with streams := fset none e.streams sid b }
  | .hrel sid => s.releaseSub sid
  | _ => s

/-! ### The events -/

/-- HOIST_TILE_IN (R259). -/
def execHoistTileIn (sid : Nat) (s : State) : Host.Outcome State Fault Refusal := event (fun s => hoistIn sid (subBegin s)) s

/-- HOIST_TILE_OUT (R259). -/
def execHoistTileOut (sid : Nat) (s : State) : Host.Outcome State Fault Refusal := event (fun s => hoistOut sid (subBegin s)) s

/-- PREFETCH_FILL (R257). -/
def execPrefetchFill (sid line : Nat) (s : State) : Host.Outcome State Fault Refusal := event (prefetch sid line) s

/-- STRM (R257). Binds a prefetch stream. -/
def execStrm (h : Head) (a : BitVec 6) (sid : BitVec 3) (tgt : Bool) (depthm1 : BitVec 8) (s : State) : Host.Outcome State Fault Refusal :=
  issueSingle (.strm h a sid tgt depthm1) (semStrm h a sid tgt depthm1) s

/-- STRMX (R257). Advances or unbinds a prefetch stream. -/
def execStrmx (h : Head) (a : BitVec 6) (sid : BitVec 3) (s : State) : Host.Outcome State Fault Refusal :=
  issueSingle (.strmx h a sid) (semStrmx h a sid) s

/-- HSUB (R258). Subscribes a ring to a memory stream through the hoist. -/
def execHsub (h : Head) (a b : BitVec 6) (sid : BitVec 3) (dir : Bool) (s : State) : Host.Outcome State Fault Refusal :=
  issueSingle (.hsub h a b sid dir) (semHsub h a b sid dir) s

/-- HREL (R260). Releases a hoist subscription. -/
def execHrel (h : Head) (sid : BitVec 3) (s : State) : Host.Outcome State Fault Refusal :=
  issueSingle (.hrel h sid) (semHrel h sid) s

end Sys2Proof.Machine
end

