-- ==== Sys2Proof/Machine/Coll.lean ====
section
/-! DEFINITION. Collectives (R263 to R282): a member reads its descriptor and table and meets its partners, each receiver then takes
its data one beat, or one plane of a chunk, at a time, and the members end. Also the cancel of a transfer, and QUEUE_DISPATCH, whose
marker is the point at which PCANCEL and the stream operations act. -/

namespace Sys2Proof.Machine

def collFail (r : Nat) : EFail := (Cause.collfail.no, r)

/-- R281: an engine failure as a collective reports it. -/
def collErr (e : EFail) : EFail := if e = cpyFail 3 then collFail 6 else if e = cpyFail 11 then collFail 5 else e

/-- Translation of an access of a collective: R245 names no collective and R281 no CMPLOAD, so a CMP page is as any other.
DEDUCED: log entry 87. -/
def State.collXl (s : State) (store : Bool) (va : Nat) : Except EFail Xl :=
  match s.anyXl store true va with
  | .error e => .error (collErr e)
  | .ok x => .ok x

def State.collRead (s : State) (va n : Nat) : Except EFail (List Byte) := s.readBeats (s.collXl false) (n / 32 + 2) va n

/-! ### The operations (R266, R279) -/

def semColl (h : Head) (a : BitVec 6) (kind : BitVec 3) (ctx : BitVec 1) : SlotSem :=
  cmdForm h (4 + ctx.toNat) 0x94 (fun c => .coll (c.cA a) kind.toNat) fun _ s => s
def semPcancel (h : Head) (a : BitVec 6) : SlotSem := cmdForm h noTl 0x95 (fun c => .pcancel (c.cA a)) fun _ s => s

/-! ### The descriptor (R265) -/

def Cmd.comm (c : Cmd) : Nat := va56 (c.cfld 0 64)
def Cmd.csrc (c : Cmd) : Nat := va56 (c.cfld 64 64)
def Cmd.cdst (c : Cmd) : Nat := va56 (c.cfld 128 64)
def Cmd.pcb (c : Cmd) : Nat := c.cfld 192 32
def Cmd.ntile (c : Cmd) : Nat := c.cfld 224 32
def Cmd.xid (c : Cmd) : Nat := c.cfld 256 32
def Cmd.croot (c : Cmd) : Nat := c.cfld 288 16
def Cmd.sfmt (c : Cmd) : Nat := c.cfld 304 8
def Cmd.dfmt (c : Cmd) : Nat := c.cfld 312 8
def Cmd.dcode (c : Cmd) : Nat := c.cfld 320 8
/-- The issuing core's rank and NRANK. -/
def Cmd.rank (c : Cmd) : Nat := c.aux.getD 1 0
def Cmd.nrank (c : Cmd) : Nat := c.aux.getD 2 0
def Cmd.kind (c : Cmd) : Nat := match c.op with | .coll _ k => k | _ => 7
/-- The core-array offset of the descriptor. -/
def Cmd.coff (c : Cmd) : Nat := match c.op with | .coll a _ => offsetOf a | _ => 0

/-- R269: the planes of a chunk. -/
def Cmd.depth (c : Cmd) : Nat := planeDepth c.dcode
def Cmd.planes (c : Cmd) : Bool := c.dfmt == 0x10

/-- R266: whether rank `q` reads a source, or writes a destination, in a transfer of this kind. -/
def reads (kind root q : Nat) : Bool := if kind = 0 then q == root else kind != 6
def writes (kind root q : Nat) : Bool :=
  if kind = 0 then q != root else if kind = 1 then q == root else kind != 5

/-- R266: the chunks of the destination at a rank that has one. -/
def Cmd.chunks (c : Cmd) : Nat := if c.kind = 1 ∨ c.kind = 2 then c.nrank * c.ntile else c.ntile

/-- R266: the rank and chunk that chunk `t` of an unreduced destination receives. -/
def Cmd.origin (c : Cmd) (t : Nat) : Nat × Nat :=
  if c.kind = 1 ∨ c.kind = 2 then (t / c.ntile, t % c.ntile) else (c.croot, t)

/-- R265: the bytes of a plain chunk. -/
def chunkBytes (fmt : Nat) : Nat := 128 * fmtBits fmt

def Cmd.reduces (c : Cmd) : Bool := c.kind == 3 || c.kind == 4

/-- The bytes a receiver writes into its destination. -/
def Cmd.total (c : Cmd) : Nat :=
  if c.planes then 128 * (1 + c.depth) * c.chunks else chunkBytes c.dfmt * c.chunks

/-- R266: the ranks that take part: SEND and RECV pair two of them. -/
def Cmd.expected (c : Cmd) : List Nat := if 5 ≤ c.kind then [c.rank, c.croot] else List.range c.nrank

/-- The ranks that receive. -/
def Cmd.receivers (c : Cmd) : List Nat :=
  if c.kind = 5 then [c.croot] else if c.kind = 6 then [c.rank] else (List.range c.nrank).filter (writes c.kind c.croot)

/-- R267: what the members must agree in; SEND and RECV name each other. -/
def Cmd.sig (c : Cmd) : List Nat :=
  let fmts := [c.ntile, c.sfmt, c.dfmt, c.dcode]
  if c.kind = 5 then [5, c.rank, c.croot] ++ fmts
  else if c.kind = 6 then [5, c.croot, c.rank] ++ fmts
  else [c.kind, c.croot] ++ fmts

/-! ### The checks (R264, R265, R268, R281) -/

/-- R268. -/
def formatsOk (kind sfmt dfmt : Nat) : Bool :=
  let float (f : Nat) : Bool := f == 1 || f == 2 || f == 3
  if kind = 3 ∨ kind = 4 then (float sfmt && float dfmt) || (sfmt == 0x08 && dfmt == 0x08)
  else if dfmt = 0x10 then float sfmt
  else sfmt == dfmt && fmtKnown sfmt && !([0x00, 0x10, 0x06, 0x07, 0x0C, 0x0D, 0x0E, 0x0F].contains sfmt)

/-- R264: the rank words of a participant table, and where one of its bytes cannot be read, why. -/
def State.readTable (s : State) (comm : Nat) : Except EFail (List Nat) :=
  if comm % 8 ≠ 0 then .error (collFail 0)
  else match s.collRead comm 8 with
    | .error e => .error e
    | .ok d0 =>
      let n := leNat d0
      if n = 0 ∨ 4096 < n then .error (collFail 1)
      else match s.collRead (va56 (comm + 8)) (4 * n) with
        | .error e => .error e
        | .ok bs =>
          let ws := (List.range n).map fun r => leNat ((bs.drop (4 * r)).take 4)
          if ws.any fun w => w / 2 ^ 19 ≠ 0 then .error (collFail 1) else .ok ws

/-- R264: the core and the package of a rank word. -/
def wordCore (w : Nat) : Nat := fld w 0 10
def wordPkg (w : Nat) : Nat := fld w 10 9

/-- The ranks of a core of this package in a table. -/
def ranksOf (p : Pkg) (ws : List Nat) (n : Nat) : List Nat :=
  (List.range ws.length).filter fun r => nth ws r == n + p.mgmt.pkgNo * 2 ^ 10

/-- R281 LINKDOWN: a rank on a lost die, or in a package that cannot be reached. A core number that no core has is one of a lost die. DESIGN CHOICE: log
entry 115. -/
def memberLost (p : Pkg) (w : Nat) : Bool :=
  if wordPkg w = p.mgmt.pkgNo then !liveCore p (wordCore w)
  else pkgLost p (wordPkg w) || !p.mgmt.peertab.any fun e => e.2.getLsbD 15 && fld e.2.toNat 0 9 == wordPkg w

/-- The checks of a descriptor that its own fields decide. `c` has read it. -/
def collStatic (c : Cmd) (carvedPcb : Bool) : Option EFail :=
  let rd := reads c.kind c.croot c.rank
  let wr := writes c.kind c.croot c.rank
  let pcb := wr && c.planes
  let bad := reasons [
    (0, (rd && c.csrc % 64 != 0) || (wr && c.cdst % (if c.planes then 128 else 64) != 0) || (pcb && c.pcb % 16 != 0)),
    (1, c.cfld 328 120 != 0 || c.ntile == 0 || decide (2 ^ 24 < c.ntile) || !formatsOk c.kind c.sfmt c.dfmt ||
      decide (4 < c.dcode)),
    (2, (c.kind == 0 || c.kind == 1 || 5 ≤ c.kind) && decide (c.nrank ≤ c.croot)),
    (6, pcb && carvedPcb), (7, pcb && decide (arraySize < c.pcb + 16 * c.chunks))]
  (lowest bad).map collFail

/-! ### Members -/

/-- What `f` does on core `n`. -/
def State.onCore (s : State) (n : Nat) (f : State → State) : State := (f (s.switchTo n)).switchTo s.no

/-- The transfer a command takes part in. -/
def Transfer.has (t : Transfer) (n : Nat) (c : Cmd) : Bool := t.members.any fun m => m.2.1 == n && m.2.2.2 == c.id

def State.transferOf (s : State) (c : Cmd) : Option Transfer := s.pkg.transfers.find? fun t => t.has s.no c

/-- Replaces a transfer's record. -/
def State.putTransfer (s : State) (old t : Transfer) : State :=
  s.modPkg fun p => { p with transfers := p.transfers.map fun x => if x = old then t else x }

/-- R267: SEND and RECV pair two ranks that name each other; any other two commands of one (COMM, XID) belong together. -/
def sameParty (a b : List Nat) : Bool :=
  match a, b with
  | 5 :: x :: y :: _, 5 :: z :: w :: _ => (x == z && y == w) || (x == w && y == z)
  | _, _ => true

/-- What the members of a transfer in other packages have told: the messages that have arrived from its ranks there. -/
def State.remotes (s : State) (t : Transfer) : List RemoteMsg :=
  s.pkg.env.inbox.filter fun m =>
    decide (m.since ≤ s.clk) && m.xid == t.xid && (m.comm == t.comm || m.addr == t.addr) && t.ranks.contains m.rank &&
      wordPkg (nth t.comm m.rank) != s.pkg.mgmt.pkgNo && (match m.what with | .join sig _ => sameParty t.sig sig | _ => true)

/-- What rank `r` of another package contributes, once it has arrived. -/
def State.remoteData (s : State) (t : Transfer) (r : Nat) : Option (List Byte) :=
  (s.remotes t).findSome? fun m => match m.what with | .join _ data => if m.rank = r then some data else none | _ => none

/-- The transfer ends: its record goes, and with it what other packages have told of it. -/
def State.dropTransfer (s : State) (t : Transfer) : State :=
  let told := s.remotes t
  s.modPkg fun p => { p with transfers := p.transfers.filter (fun x => x ≠ t),
                             env := { p.env with inbox := p.env.inbox.filter fun m => !told.contains m } }

/-- Whether a rank has arrived: a member of this package by its command, one of another package by its message. -/
def State.arrived (s : State) (t : Transfer) (r : Nat) : Bool := t.members.any (fun m => m.1 == r) || (s.remoteData t r).isSome

/-- R267: a SEND or RECV that names its own rank has no partner: the two pair up across two ranks. -/
def Transfer.paired (t : Transfer) : Bool := match t.sig with | 5 :: x :: y :: _ => x != y | _ => true

/-- R267: whether all members have arrived. -/
def State.gathered (s : State) (t : Transfer) : Bool := t.paired && t.ranks.all (s.arrived t)

/-- R267, R281: why a transfer cannot go on: a member is lost, members disagree, or one in another package has failed. -/
def State.transferFault (s : State) (t : Transfer) : Option EFail :=
  let ms := s.remotes t
  if t.ranks.any fun r => memberLost s.pkg (nth t.comm r) then some (collFail 5)
  else if ms.any fun m => match m.what with | .join sig _ => sig != t.sig || m.comm != t.comm | _ => false then some (collFail 3)
  else ms.findSome? fun m => match m.what with | .fail c r => some (c, r) | _ => none

/-- R280: whether the cancel of a transfer has reached this package. -/
def State.cancelReached (s : State) (t : Transfer) : Bool := t.cancelled || (s.remotes t).any fun m => m.what == .cancel

/-- R272: the counter words of a receiver. -/
def freezeWord (canc : Bool) (w : Nat) : Nat :=
  if canc then (if bit w 9 then w else (w ||| 2 ^ 8 ||| 2 ^ 10)) else w ||| 2 ^ 8

/-- Changes the counter word of chunk `t` of the current core's command. -/
def Cmd.ctrOff (c : Cmd) (t : Nat) : Nat := c.pcb + 16 * t

/-- R280, R281: freezes every counter of a member on the current core that are not in the carve-out. -/
def freezeCounters (canc : Bool) (c : Cmd) (s : State) : State :=
  if c.st = .run ∧ c.planes ∧ writes c.kind c.croot c.rank then
    (List.range c.chunks).foldl (fun s t =>
      let off := c.ctrOff t
      if s.core.carved off then s else s.writeOwn off (leBytes 8 (freezeWord canc (s.counterWord off)))) s
  else s

/-- R266: the status double, where it can be written: that of a transfer that fails or is cancelled stays as it was outside the region of a speculative
evaluation. DESIGN CHOICE: log entry 120. -/
def writeStatus (c : Cmd) (v : Nat) (s : State) : State :=
  let off := c.coff + 56
  if c.coff % 64 ≠ 0 ∨ arraySize ≤ off ∨ s.core.carved off ∨ s.ownOutside off 8 then s else s.writeOwn off (leBytes 8 v)

/-- R281: the destination stream offset below which every byte was performed. -/
def Cmd.performed (c : Cmd) : Nat :=
  if !c.planes then c.t
  else
    let n := c.chunks
    let d := c.depth
    let region := 128 * (1 + d)
    if (d - 1) * n ≤ c.t then
      let k := c.t - (d - 1) * n
      if k = n then region * n else region * k + 128 * d
    else if c.t = 0 then 0
    else 128 * (1 + cdiv c.t n)

/-- R281: CPYSTAT of a collective. -/
def collStat (c : Cmd) (f : EFail) : Nat :=
  min c.performed (2 ^ 32 - 1) * 2 ^ 32 + (if f.1 = Cause.collfail.no ∨ f.1 = Cause.xlate.no then f.2 else 0) * 2 ^ 24 +
    0x94 * 2 ^ 16 + (c.tl - 4) * 2 ^ 14

/-- A member on the current core fails. -/
def failMember (f : EFail) (c : Cmd) (s : State) : State :=
  failWith c f (collStat c f) (writeStatus c 3 (freezeCounters false c s))

/-- R280: a member on the current core is cancelled. -/
def cancelMember (c : Cmd) (s : State) : State :=
  ((writeStatus c 2 (freezeCounters true c s)).modPkg c.putTags).putCmd { c with st := .ended, wait := none }

/-- A member's command, if it is still running. -/
def State.member (s : State) (m : Nat × Nat × Nat × Nat) : Option Cmd :=
  (s.coreAt m.2.1).eng.cmds.find? fun c => c.id == m.2.2.2 && c.st == .run

/-- R281: a failure ends every member's command, and the transfer. -/
def failTransfer (t : Transfer) (f : EFail) (s : State) : State :=
  t.members.foldl (fun s m =>
    match s.member m with
    | some c => s.onCore m.2.1 (failMember f c)
    | none => s) (s.dropTransfer t)

/-- An access of a member cannot be made: it waits, or the transfer fails (R369). -/
def stallTransfer (c : Cmd) (t : Transfer) (f : EFail) (s : State) : State := s.orWait c f (failTransfer t)

/-- A transfer that cannot go on fails. -/
def checkTransfer (t : Transfer) (s : State) : State := match s.transferFault t with | some f => failTransfer t f s | none => s

/-- A command fails at its start, or its transfer fails. -/
def failColl (c : Cmd) (f : EFail) (s : State) : State :=
  match s.transferOf c with
  | some t => failTransfer t f s
  | none => failMember f c s

/-- A member's command has ended; the record goes once all members of this package have ended. -/
def leaveTransfer (t : Transfer) (r : Nat) (s : State) : State :=
  let t' := { t with finished := r :: t.finished }
  let here := t.ranks.filter fun q => wordPkg (nth t.comm q) == s.pkg.mgmt.pkgNo
  if here.all fun q => t'.finished.contains q then s.dropTransfer t else s.putTransfer t t'

/-! ### Arrival (R267) -/

/-- R272: the initial counter words of a receiver. -/
def writeCounters (c : Cmd) (s : State) : State :=
  if c.planes ∧ writes c.kind c.croot c.rank then
    (List.range c.chunks).foldl (fun s t => s.writeOwn (c.ctrOff t) (leBytes 16 (c.xid * 2 ^ 32 + c.depth * 2 ^ 16))) s
  else s

/-- Whether a counter word of the command lies in the carve-out. -/
def State.countersCarved (s : State) (c : Cmd) : Bool :=
  decide (0 < c.chunks ∧ c.pcb < arraySize) && (s.core.carved c.pcb || s.core.carved (min (arraySize - 1) (c.pcb + 16 * c.chunks - 1)))

/-- R326: whether a member's counter words leave the private region of a speculative evaluation. -/
def State.countersOutside (s : State) (c : Cmd) : Bool :=
  c.planes && writes c.kind c.croot c.rank && s.ownOutside c.pcb (16 * c.chunks)

/-- R267: the transfer of this package that a command belongs to which has read its descriptor `x` and has not joined it: of its XID and of its table
`ws`, or where that cannot be read of the table's address in its job. -/
def State.partyOf (s : State) (c : Cmd) (x : Nat) (ws : Option (List Nat)) : Option Transfer :=
  s.pkg.transfers.find? fun t =>
    let me (q : Nat) : Cmd := { c with aux := [x, q, t.comm.length] }
    t.xid == (me 0).xid && (ws == some t.comm || (t.job == s.core.un.job && t.addr == (me 0).comm)) &&
      (match ranksOf s.pkg t.comm s.no with | q :: _ => sameParty t.sig (me q).sig | [] => decide ((me 0).kind < 5))

/-- R281: a command fails at its start: its transfer fails with it, at every member that has arrived. -/
def failStart (c : Cmd) (x : Nat) (ws : Option (List Nat)) (f : EFail) (s : State) : State :=
  failMember f c (match s.partyOf c x ws with | some t => failTransfer t f s | none => s)

/-- A transfer that a command opens, with the members given. -/
def Cmd.opens (c : Cmd) (ws : List Nat) (job : Nat) (members : List (Nat × Nat × Nat × Nat)) (canc : Option Nat) : Transfer :=
  { comm := ws, addr := c.comm, job, xid := c.xid, ranks := c.expected, sig := c.sig, members, recvDone := [], finished := [],
    cancelled := c.rel, cancelClk := canc, enc := [] }

/-- R280: the record that the cancel of this command has opened before its turn goes with its turn, where no member has joined it. -/
def State.dropOpened (s : State) (c : Cmd) : State :=
  if c.aux.isEmpty then s
  else s.modPkg fun p => { p with transfers := p.transfers.filter fun t =>
    !(t.members.isEmpty && t.xid == c.xid && t.addr == c.comm && t.job == s.core.un.job) }

/-- COLL_RENDEZVOUS: the member reads its descriptor and its table, writes its counters and meets the others. Of several failures the one found first is
reported: at the descriptor's offset, at the table, at the membership, then the lowest of what its fields decide. DESIGN CHOICE: log entry 107. -/
def collStart (c : Cmd) (s : State) : State :=
  let off := c.coff
  let now := s.dropOpened c
  if off % 64 ≠ 0 then failMember (collFail 0) c now
  else if arraySize ≤ off then failMember (collFail 7) c now
  else if s.core.carved off then failMember (collFail 6) c now
  else if badData s.pkg (arrayBase s.no + off) 64 then failMember (Cause.memue.no, 0) c now
  else
    let x := s.own off 64
    let canc := if c.rel then some c.startClk else none
    let was := c
    let c := { c with aux := [x, 0, 0], startClk := s.clk }
    match s.readTable c.comm with
    | .error e => s.orWait c e fun e s => failStart c x none e (s.dropOpened was)
    | .ok ws =>
      let s := now
      match ranksOf s.pkg ws s.no with
      | [q] =>
        let c := { c with aux := [x, q, ws.length] }
        match (match collStatic c (s.countersCarved c) with | none => if s.countersOutside c then some (Cause.specout.no, 0) else none | e => e) with
        | some e => failStart c x (some ws) e s
        | none =>
          let s := writeCounters c s
          let c := { c with st := .run }
          let s := s.putCmd c
          let me := (q, s.no, c.tl, c.id)
          let joins (t : Transfer) : Bool := t.xid == c.xid && (t.comm == ws || (t.job == s.core.un.job && t.addr == c.comm)) &&
            sameParty t.sig c.sig && (t.comm != ws || !t.members.any fun m => m.1 == q)
          (match s.pkg.transfers.find? joins with
           | some t =>
             let t' := { t with members := t.members ++ [me], cancelled := t.cancelled || c.rel, cancelClk := t.cancelClk.or canc }
             let s := s.putTransfer t t'
             if t.sig ≠ c.sig ∨ t.comm ≠ ws then failTransfer t' (collFail 3) s else checkTransfer t' s
           | none =>
             let t := c.opens ws s.core.un.job [me] canc
             checkTransfer t (s.modPkg fun p => { p with transfers := p.transfers ++ [t] }))
      | _ => failStart c x (some ws) (collFail 2) s

/-- NOPEER: 2^32 clk have passed since the descriptor was read and a partner is missing. -/
def noPeerEnd (tl : Nat) (s : State) : State :=
  match s.core.head tl with
  | some c =>
    (match s.transferOf c with
     | some t => if c.st = .run ∧ c.startClk + 2 ^ 32 ≤ s.clk ∧ !s.gathered t then failTransfer t (collFail 4) s else s
     | none => s)
  | none => s

/-! ### Plane form (R269 to R271) -/

/-- Bits of a word from a list of Bools. -/
def bitsWord (l : List Bool) : Nat := l.foldr (fun b acc => b2n b + 2 * acc) 0

/-- R270: floor(|x| · 2^(d−2−e)). -/
def planeMag (d : Nat) (e : Int) (x : XR) : Nat :=
  match x with
  | .fin _ r => let (a, b) := scaled r ((d : Int) - 2 - e); a / b
  | _ => 0

/-- R270, R271: the header and the planes of a group of elements: sign bits and values. -/
def encodeGroup (dcode : Nat) (xs : List (Bool × XR)) : Nat × List Nat :=
  let d := planeDepth dcode
  let signs := bitsWord (xs.map Prod.fst)
  let vals := xs.map Prod.snd
  let isInf (x : XR) : Bool := match x with | .inf _ => true | _ => false
  let mags (depth : Nat) (e : Int) : List Nat :=
    (List.range (depth - 1)).map fun i => bitsWord (vals.map fun x => bit (planeMag depth e x) (depth - 2 - i))
  let hdr (kind : Nat) (e : Int) : Nat := kind * 2 ^ 30 + dcode * 2 ^ 27 + (tr 16 e).toNat
  if vals.any (fun x => x.isNan || isInf x) then
    let e := (maxExp vals).getD 0
    (hdr 2 e, [signs, bitsWord (vals.map XR.isNan), bitsWord (vals.map isInf)] ++ mags (d - 2) e)
  else match maxExp vals with
    | none => (hdr 1 0, signs :: List.replicate (d - 1) 0)
    | some e => (hdr 0 e, signs :: mags d e)

/-- R269: the bytes of a region, from a chunk's 1,024 elements. -/
def encodeChunk (sfmt dcode : Nat) (bs : List Byte) : List Byte :=
  let w := fmtBits sfmt
  let raw := elems w 1024 (leNat bs)
  let groups := (List.range 32).map fun j =>
    encodeGroup dcode (((raw.drop (32 * j)).take 32).map fun x => (bit x (w - 1), elemValue sfmt x))
  ((groups.map fun g => leBytes 4 g.1).flatten) ++
    ((List.range (planeDepth dcode)).map fun p => (groups.map fun g => leBytes 4 (nth g.2 p)).flatten).flatten

/-! ### Moving data (R266, R273, R276) -/

/-- Source bytes of a rank. DESIGN CHOICE: log entry 36. -/
def State.rankBytes (s : State) (t : Transfer) (r off n : Nat) : Except EFail (List Byte) :=
  match t.members.find? fun m => m.1 == r with
  | some m =>
    (match s.member m with
     | some c => (s.switchTo m.2.1).collRead (va56 (c.csrc + off)) n
     | none => .ok [])
  | none => .ok ((((s.remoteData t r).getD []).drop off).take n)

/-- Whether a rank still sends: its command has not ended. -/
def Transfer.sends (t : Transfer) (r : Nat) : Bool := !t.finished.contains r

/-- R276: the reduction of one element over the ranks, in order. -/
def reduceElem (sfmt dfmt : Nat) (xs : List Nat) : Nat :=
  if sfmt = 0x08 then (tr 32 (satS ((xs.map fun x => sx x 32).sum) 32)).toNat
  else match xs with
    | [] => 0
    | x :: rest =>
      roundTo dfmt .rne (decodeF .fp32 (rest.foldl (fun acc y => roundNE .fp32 (xadd (decodeF .fp32 acc) (elemValue sfmt y)))
        (roundNE .fp32 (elemValue sfmt x))))

/-- The sources of the ranks for the elements of a reduced beat: `first` the first element of rank r's contribution. -/
def State.rankElems (s : State) (t : Transfer) (sfmt first n : Nat) : List Nat → Except EFail (List (List Nat))
  | [] => .ok []
  | r :: rs =>
    let w := fmtBits sfmt
    match s.rankBytes t r (first * w / 8) (n * w / 8) with
    | .error e => .error e
    | .ok bs =>
      match s.rankElems t sfmt first n rs with
      | .error e => .error e
      | .ok l => .ok (elems w n (leNat bs) :: l)

/-- The bytes of the next 32-byte beat of a plain destination; `none`: a sender it needs has stopped. -/
def State.plainBeat (s : State) (t : Transfer) (c : Cmd) : Except EFail (Option (List Byte)) :=
  if c.reduces then
    let ranks := List.range c.nrank
    if !ranks.all t.sends then .ok none
    else
      let n := 256 / fmtBits c.dfmt
      let first := c.t * 8 / fmtBits c.dfmt + (if c.kind = 3 then 1024 * c.rank * c.ntile else 0)
      match s.rankElems t c.sfmt first n ranks with
      | .error e => .error e
      | .ok l =>
        .ok (some (leBytes 32 (packElems (fmtBits c.dfmt)
          ((List.range n).map fun i => reduceElem c.sfmt c.dfmt (l.map fun xs => nth xs i)))))
  else
    let (r, k) := c.origin (c.t / chunkBytes c.dfmt)
    if !t.sends r then .ok none
    else (s.rankBytes t r (k * chunkBytes c.dfmt + c.t % chunkBytes c.dfmt) 32).map some

/-- R270: the encoding of a rank's chunk, made once. DEDUCED: log entry 37. -/
def State.encoded (s : State) (t : Transfer) (c : Cmd) (r k : Nat) : Except EFail (List Byte × Transfer) :=
  let key := r * 2 ^ 25 + k
  let old := fget [] t.enc key
  if !old.isEmpty then .ok (old, t)
  else match s.rankBytes t r (k * chunkBytes c.sfmt) (chunkBytes c.sfmt) with
    | .error e => .error e
    | .ok bs =>
      let v := encodeChunk c.sfmt c.dcode bs
      .ok (v, { t with enc := fset [] t.enc key v })

/-- R273: the next plane of the next chunk: the headers go with plane 0. -/
def planeMove (t : Transfer) (c : Cmd) (s : State) : State :=
  let p := c.t / c.chunks
  let k := c.t % c.chunks
  let (r, sk) := c.origin k
  if !t.sends r then s
  else match s.encoded t c r sk with
    | .error e => stallTransfer c t e s
    | .ok (v, t') =>
      let s := s.putTransfer t t'
      let off := if p = 0 then 0 else 128 * (1 + p)
      let n := if p = 0 then 256 else 128
      match writeRun (fun s => s.collXl true) (n / 32 + 1) (va56 (c.cdst + 128 * (1 + c.depth) * k + off)) ((v.drop off).take n) c s with
      | .error e => stallTransfer c t' e s
      | .ok (c, s) => s.putCmd { c with t := c.t + 1 }

/-- The next beat of a plain destination. -/
def plainMove (t : Transfer) (c : Cmd) (s : State) : State :=
  match s.plainBeat t c with
  | .error e => stallTransfer c t e s
  | .ok none => s
  | .ok (some bs) =>
    match writeRun (fun s => s.collXl true) 2 (va56 (c.cdst + c.t)) bs c s with
    | .error e => stallTransfer c t e s
    | .ok (c, s) => s.putCmd { c with t := c.t + 32 }

/-- Whether all of a receiver's destination and counters has been performed. -/
def State.recvComplete (s : State) (c : Cmd) : Bool :=
  if c.planes then c.t == c.depth * c.chunks && (List.range c.chunks).all fun k => bit (s.counterWord (c.ctrOff k)) 9
  else c.t == c.total

/-- R266: the bytes of a member's source. -/
def Cmd.srcTotal (c : Cmd) : Nat := if !reads c.kind c.croot c.rank then 0 else chunkBytes c.sfmt * (if c.kind = 3 then c.nrank * c.ntile else c.ntile)

/-- R266: whether a receiver of the transfer lies in another package, so that the member sends its source over a link. Receivers of this package take
their bytes themselves. -/
def State.sendsAway (s : State) (t : Transfer) (c : Cmd) : Bool := c.receivers.any fun r => wordPkg (nth t.comm r) != s.pkg.mgmt.pkgNo

/-- R266: the next beat of a member's source goes to the receivers in other packages. DESIGN CHOICE: log entry 36. -/
def sendAway (t : Transfer) (c : Cmd) (s : State) : State :=
  match s.collRead (va56 (c.csrc + c.u)) 32 with
  | .error e => stallTransfer c t e s
  | .ok bs => (s.modPkg fun p => { p with env := { p.env with sent := p.env.sent ++ [(c.comm, c.xid, c.rank, bs)] } }).putCmd { c with u := c.u + 32 }

/-- R263: the end of a member whose own writes are performed and whose receivers have what it sent. A status double that cannot be written fails the
transfer (R281). -/
def collEnd (t : Transfer) (c : Cmd) (s : State) : State :=
  let ok := if reads c.kind c.croot c.rank then
      c.receivers.all fun r => t.recvDone.contains r || (s.remotes t).any fun m => m.rank == r && m.what == .done
    else true
  if !ok then s
  else if s.core.carved (c.coff + 56) then failTransfer t (collFail 6) s
  else if s.ownOutside (c.coff + 56) 8 then failTransfer t (Cause.specout.no, 0) s
  else match c.slotsLost s.pkg with
    | some e => stallTransfer c t e s
    | none => leaveTransfer t c.rank ((writeStatus c 1 (s.modPkg c.putTags)).putCmd { c with st := .ended, wait := none })

/-- COLL_TRANSFER. -/
def collMove (tl : Nat) (s : State) : State :=
  match s.core.head tl with
  | none => s
  | some c =>
    match s.transferOf c with
    | none => s
    | some t =>
      if c.st ≠ .run then s
      else if (s.transferFault t).isSome then checkTransfer t s
      else if !s.gathered t then s
      else if writes c.kind c.croot c.rank ∧ !t.recvDone.contains c.rank then
        if s.recvComplete c then s.putTransfer t { t with recvDone := c.rank :: t.recvDone }
        else if c.planes then (if c.t < c.depth * c.chunks then planeMove t c s else s)
        else plainMove t c s
      else if s.sendsAway t c ∧ c.u < c.srcTotal then sendAway t c s
      else collEnd t c s

/-- PRECISION_COUNTER_UPDATE (R273). -/
def counterUpdate (tl k : Nat) (s : State) : State :=
  match s.core.head tl with
  | none => s
  | some c =>
    let off := c.ctrOff k
    let w := s.counterWord off
    let p := fld w 0 8
    if c.st = .run ∧ c.planes ∧ writes c.kind c.croot c.rank ∧ k < c.chunks ∧ p < c.depth ∧ p * c.chunks + k < c.t ∧ !bit w 8 then
      if s.core.carved off then failColl c (collFail 6) s
      else if s.ownOutside off 16 then failColl c (Cause.specout.no, 0) s
      else s.writeOwn off (leBytes 8 (w + 1 + (if p + 1 = c.depth then 2 ^ 9 else 0)))
    else s

/-! ### Cancellation (R279, R280) -/

/-- CANCEL_ARRIVAL. -/
def cancelArrive (tl : Nat) (s : State) : State :=
  match s.core.head tl with
  | none => s
  | some c =>
    match s.transferOf c with
    | some t => if s.cancelReached t ∧ c.st = .run then leaveTransfer t c.rank (cancelMember c s) else s
    | none => s

/-- R280: the clk by which a cancel has reached every member in one package has come. -/
def State.cancelDue (s : State) (c : Cmd) : Bool :=
  match s.transferOf c with
  | some t => (match t.cancelClk with | some k => decide (k + 3999 ≤ s.clk) | none => false)
  | none => false

/-- The transfer a command of the current core takes part in is cancelled: its own counters freeze at once. One whose turn in its context is still to come
has no counters yet: the members that have arrived freeze, and those that arrive after, and it ends as it joins them. -/
def cancelOf (c : Cmd) (s : State) : State :=
  if c.st = .ready then
    let c := { c with rel := true, startClk := if c.rel then c.startClk else s.clk }
    let s := s.putCmd c
    let off := c.coff
    if off % 64 ≠ 0 ∨ arraySize ≤ off ∨ s.core.carved off ∨ badData s.pkg (arrayBase s.no + off) 64 then s
    else
      let x := s.own off 64
      let ws := match s.readTable ({ c with aux := [x] } : Cmd).comm with | .ok ws => some ws | .error _ => none
      match s.partyOf c x ws with
      | some t => s.putTransfer t { t with cancelled := true, cancelClk := t.cancelClk.or (some s.clk) }
      | none =>
        match ws, (ranksOf s.pkg (ws.getD []) s.no) with
        | some ws, [q] =>
          let c := { c with aux := [x, q, ws.length] }
          (s.putCmd c).modPkg fun p => { p with transfers := p.transfers ++ [c.opens ws s.core.un.job [] (some s.clk)] }
        | _, _ => s
  else if c.st = .run then
    match s.transferOf c with
    | some t =>
      let t' := { t with cancelled := true, cancelClk := t.cancelClk.or (some s.clk) }
      leaveTransfer t' c.rank (cancelMember c (s.putTransfer t t'))
    | none => s
  else s

/-- R280: a cancel of a level acts as a PCANCEL of every transfer in flight that a unit of it issued: here, those of core `n`. -/
def cancelCore (n : Nat) (s : State) : State :=
  s.onCore n fun s =>
    (s.core.eng.cmds.filter fun c => match c.op with | .coll .. => true | _ => false).foldl (fun s c =>
      match s.findCmd c.id with | some c => cancelOf c s | none => s) s

/-- PCANCEL at its marker: reads COMM and XID; where the descriptor cannot be read, it names no transfer. -/
def cancelNamed (off : Nat) (s : State) : State :=
  if off % 64 ≠ 0 ∨ arraySize ≤ off ∨ s.core.carved off ∨ badData s.pkg (arrayBase s.no + off) 64 then s
  else
    let x := s.own off 64
    let probe (c : Cmd) : Nat × Nat := (c.comm, c.xid)
    let want := probe { Cmd.fresh 0 4 0 (.coll 0 0) 0 0 0 with aux := [x] }
    let mine (c : Cmd) : Bool := match c.op with
      | .coll .. =>
        (c.st == .run && probe c == want) ||
          (c.st == .ready && c.coff % 64 == 0 && decide (c.coff < arraySize) && probe { c with aux := [s.own c.coff 64] } == want)
      | _ => false
    (s.core.eng.cmds.filter mine).foldl (fun s c => cancelOf c s) s

/-- R282: a die has been lost: a transfer with a member on it fails at every surviving member. -/
def failLostTransfers (s : State) : State :=
  s.pkg.transfers.foldl (fun s t => checkTransfer t s) s

/-! ### QUEUE_DISPATCH (R139, R146) -/

/-- The commands without a number act when their marker is dispatched. -/
def actAtMarker (c : Cmd) (s : State) : State :=
  let s := s.dropCmd c.id
  match c.op with
  | .pcancel a => cancelNamed (offsetOf a) s
  | _ => streamAct c s

/-- Those whose marker has been dispatched act. -/
def actMarkers (s : State) : State :=
  (s.core.eng.cmds.filter fun c => c.tl == noTl && c.st == .ready).foldl (fun s c => actAtMarker c s) s

/-- QUEUE_DISPATCH (R139). -/
def execQueueDispatch (store : Bool) (s : State) : Host.Outcome State Fault Refusal := event (fun s => actMarkers (queueStep store s)) s

/-! ### The events -/

/-- The contexts of collectives (R263). -/
def onColl (tl : Nat) (f : State → State) (s : State) : State := if tl = 4 ∨ tl = 5 then f s else s

/-- COLL_RENDEZVOUS (R267). -/
def execCollRendezvous (ctx : Nat) (s : State) : Host.Outcome State Fault Refusal :=
  event (onColl ctx fun s => match s.core.head ctx with
    | some c => if c.st = .ready then collStart c s else settle c s
    | none => s) s

/-- NOPEER (R267). -/
def execNoPeer (ctx : Nat) (s : State) : Host.Outcome State Fault Refusal := event (onColl ctx (noPeerEnd ctx)) s

/-- COLL_TRANSFER (R266). -/
def execCollTransfer (ctx : Nat) (s : State) : Host.Outcome State Fault Refusal := event (onColl ctx (collMove ctx)) s

/-- PRECISION_COUNTER_UPDATE (R273). -/
def execPrecisionCounterUpdate (ctx chunk : Nat) (s : State) : Host.Outcome State Fault Refusal :=
  event (onColl ctx (counterUpdate ctx chunk)) s

/-- CANCEL_ARRIVAL (R280). -/
def execCancelArrival (ctx : Nat) (s : State) : Host.Outcome State Fault Refusal := event (onColl ctx (cancelArrive ctx)) s

/-- COLL (R266). Starts a collective transfer. -/
def execColl (h : Head) (a : BitVec 6) (kind : BitVec 3) (ctx : BitVec 1) (s : State) : Host.Outcome State Fault Refusal :=
  issueSingle (.coll h a kind ctx) (semColl h a kind ctx) s

/-- PCANCEL (R279). Cancels a collective transfer. -/
def execPcancel (h : Head) (a : BitVec 6) (s : State) : Host.Outcome State Fault Refusal :=
  issueSingle (.pcancel h a) (semPcancel h a) s

end Sys2Proof.Machine
end

