-- ==== Sys2Proof/Machine/Sched.lean ====
section
/-! DEFINITION. The work hierarchy (R302, R303, R309 to R318): cancelling, completion, dealing, and the pick-up of a unit. -/

namespace Sys2Proof.Machine

/-! ### Cancel (R318) -/

/-- The launches of a level: those of the graphs within it. A launch belongs to its graph's phase and job, whatever its records name (R23). -/
def levelLaunch (p : Pkg) (lvl : Level) (id : Nat) (slot : Nat) (l : Launch) : Bool :=
  let (job, phase) := match graphAt p l.graph with | some g => (g.job, g.phase) | none => (l.job, l.phase)
  match lvl with
  | .launch => slot == id
  | .graph => l.graph == id && !l.complete
  | .phase => phaseKey job phase == id && !l.complete
  | .job => job == id && !l.complete

/-- R298: with the launches that their units dispatched, and so on. -/
def withChildren (p : Pkg) : Nat → List Nat → List Nat
  | 0, slots => slots
  | fuel + 1, slots =>
    let live (k : Nat) : Bool := match launchAt p k with | some l => !l.complete | none => false
    let more := p.launches.filterMap fun e =>
      match e.2 with
      | some l => (match l.parent with
        | some k => if slots.contains k && live k && live e.1 && !slots.contains e.1 then some e.1 else none
        | none => none)
      | none => none
    if more.isEmpty then slots else withChildren p fuel (slots ++ more)

def levelSlots (p : Pkg) (lvl : Level) (id : Nat) : List Nat :=
  withChildren p p.launches.length
    (p.launches.filterMap fun e => match e.2 with | some l => if levelLaunch p lvl id e.1 l then some e.1 else none | none => none)

/-- R326: whether a speculative evaluation comes from a launch of a level, which may be complete; `slots`: the launches of the level that are not. -/
def levelHolds (lvl : Level) (id : Nat) (slots : List Nat) (f : SpecFrom) : Bool :=
  (match f.slot with | some k => slots.contains k | none => false) ||
  match lvl with
  | .launch => f.slot == some id
  | .graph => f.graph == some id
  | .phase => f.phase == id
  | .job => f.job == id

/-- R350: a context area is freed. -/
def State.dropSaved (s : State) (i : Nat) : State :=
  (s.modPkg fun p => { p with saved := p.saved.filter fun x => x.1.area ≠ i }).modJob (i / 65536) fun j =>
    { j with areas := j.areas.filter fun k => k ≠ i % 65536 }

/-- R318: a queued record is removed and its count lowered; an evaluator's evaluation fails. -/
def State.retireRec (s : State) (q : QRec) : State :=
  let s := s.unitDone (recLslot q.recd) q.argIdx
  let s := match q.saved with
    | some i => s.dropSaved i
    | none => s
  match q.evalOf with
  | some pa => s.evalFail pa q.pool
  | none => s

/-- Removes the records that `dead` names from every queue and run list. -/
def State.purge (s : State) (dead : QRec → Bool) : State :=
  let gone := (s.pkg.queues.map fun e => e.2.filter dead).flatten ++ s.pkg.unbound.filter dead ++
    (s.cores.map fun e => e.2.un.runList.filter dead).flatten
  let s := s.modPkg fun p =>
    { p with queues := (p.queues.map fun e => (e.1, e.2.filter fun q => !dead q)).filter (fun e => !e.2.isEmpty),
             unbound := p.unbound.filter fun q => !dead q }
  let s := s.cores.foldl (fun s e => s.modCore e.1 fun c => c.modUnit fun u => { u with runList := u.runList.filter fun q => !dead q }) s
  gone.foldl State.retireRec s

/-- R327: the chain entries of cancelled launches are removed and their counts lowered; a unit whose record is still being
written is retired when that is done, and leaves a cell that cannot be reached then. -/
def State.purgeChains (s : State) (dead : Nat → Bool) : State :=
  s.pkg.pool.foldl (fun s x =>
    match poolAt s.pkg x.1 with
    | some e =>
      (match e.cell with
       | some pa =>
         if dead (recLslot e.recd) ∧ !e.gone then
           if !e.ready then
             if peerLost s.pkg pa then s
             else s.modPkg fun p => setPool (relink p pa ((chainOf p pa).filter fun r => r ≠ x.1)) x.1 (some { e with cell := none, next := 0 })
           else
             let s := (s.unlink pa x.1).unitDone (recLslot e.recd) e.argIdx
             match e.evalOf with | some c => s.evalFail c e.evalPool | none => s
         else s
       | none => s)
    | none => s) s

/-- R318: nothing more of a launch is dealt. -/
def State.cancelLaunch (s : State) (slot : Nat) : State :=
  s.modLaunch slot fun l =>
    if l.cancelled ∨ l.complete then l
    else
      let left : Int := if l.isSelf then (if l.selfDealt then 0 else (l.counter : Int)) else (l.narg : Int) - l.next
      { l with cancelled := true, counter := l.counter - left, next := if l.isSelf then l.next else l.narg, selfDealt := true }

/-- R318: CANCEL of a level, and of every level within it. -/
def State.cancelLevel (s : State) (lvl : Level) (id : Nat) : State :=
  let slots := levelSlots s.pkg lvl id
  let dead (slot : Nat) : Bool := slots.contains slot
  let s := match lvl with
    | .launch => s
    | .graph => s.modGraph id fun g => { g with cancelled := true }
    | .phase =>
      let s := s.modPhase (id / 65536) (id % 65536) fun x => { x with cancelled := true }
      s.modPkg fun p => { p with graphs := p.graphs.map fun e => (e.1, e.2.map fun g =>
        if phaseKey g.job g.phase = id ∧ !g.complete then { g with cancelled := true } else g) }
    | .job =>
      let s := s.modJob id fun j => { j with level := { j.level with cancelled := true } }
      s.modPkg fun p => { p with
        graphs := p.graphs.map fun e => (e.1, e.2.map fun g => if g.job = id ∧ !g.complete then { g with cancelled := true } else g),
        phases := p.phases.map fun e => (e.1, e.2.map fun x => if e.1 / 65536 = id ∧ !x.complete then { x with cancelled := true } else x) }
  let s := slots.foldl State.cancelLaunch s
  let s := s.purgeChains dead
  let s := s.purge fun q => dead (recLslot q.recd)
  let s := s.discardSpec (levelHolds lvl id slots)
  (s.cores.filter fun e => e.2.occupied && dead (recLslot e.2.un.recd)).foldl (fun s e => cancelCore e.1 s) s

/-- R318: whether the launch in a slot has been cancelled. -/
def State.cancelled (s : State) (slot : Nat) : Bool := match launchAt s.pkg slot with | some l => l.cancelled | none => false

/-! ### Completion (R316) -/

/-- The physical address of a cell in a job's address space; a dispatcher has no local window. -/
def State.jobCell (s : State) (job va : Nat) (k : Acc) : Except XErr Nat :=
  if localBase ≤ va56 va then .error (.xlate 7)
  else (translate s (jobRoot s.pkg job) k 8 va).map fun x => x.pa

/-- R298, R316: FUT is resolved. One that is misaligned, unmapped or on no cell page names no cell, and nothing is resolved or raised. DEDUCED: log
entry 78. DESIGN CHOICE: log entry 109. -/
def State.futPlace (s : State) (l : Launch) : Option Nat :=
  if l.fut = 0 ∨ l.fut % 64 ≠ 0 then none else match s.jobCell l.job l.fut .cellOp with | .error _ => none | .ok pa => some pa

/-- DEDUCED: log entry 78. -/
def State.resolveFut (s : State) (l : Launch) : State :=
  match s.futPlace l with
    | none => s
    | some pa =>
      let d1 := if l.dispatched then l.nconv else (match l.status with | some v => v.toNat | none => 0)
      (s.resolveCell pa ((if l.cancelled then 2 else 1) + d1 * 2 ^ 64) none).1

/-- R308: whether nothing holds back the dealing of a launch. -/
def State.unblocked (s : State) (l : Launch) : Bool :=
  (!l.waits || (match graphAt s.pkg l.graph with | some g => fget 0 g.dc l.waitc == 0 | none => true)) && l.deps == 0

/-- R316: nothing of a launch remains to be dealt. -/
def State.dealt (s : State) (l : Launch) : Bool :=
  l.cancelled || (s.unblocked l && (if l.isSelf then l.selfDealt || l.par s.pkg == 0 else decide (l.narg ≤ l.next)))

/-- R369: a launch needs memory that cannot be reached: it waits, and where a peer has not been reached for 2^26 clk, `fail` follows. A host window is
waited for until a port is up. DESIGN CHOICE: log entry 57. -/
def State.launchWait (s : State) (slot : Nat) (l : Launch) (pa : Nat) (fail : State → State) : State :=
  let since := l.lost.getD s.clk
  if isPeer pa ∧ since + 2 ^ 26 ≤ s.clk then fail (s.modLaunch slot fun l => { l with lost := none })
  else s.modLaunch slot fun l => { l with lost := some since }

/-- R369: the resolution of a FUT that cannot be reached is never performed; its MEMUE is logged. -/
def futFault (slot : Nat) (l : Launch) (s : State) : State :=
  s.logH l.phjob slot (hostCause .memue 7 (va56 l.fut))

/-- R316: the launch is complete; `resolve`: FUT takes its value. -/
def endLaunch (slot : Nat) (l : Launch) (resolve : Bool) (s : State) : State :=
      let s := s.modLaunch slot fun l => { l with complete := true, waits := false }
      let mask := cardFld l.card 40 64
      let s := s.modGraph l.graph fun g =>
        { g with counter := g.counter - 1,
                 dc := (List.range 64).foldl (fun m c => if bit mask c then fset 0 m c (fget 0 m c - 1) else m) g.dc }
      let s := if resolve then s.resolveFut l else futFault slot l s
      let s := l.dependents.foldl (fun s d => s.modLaunch d fun x => { x with deps := x.deps - 1 }) s
      if l.host then s.ringEvent l.ring l.seq slot 2 (match l.status with | some v => v.toNat | none => 0) else s

/-- R316: a launch of which nothing is left is complete, once its FUT can be reached. -/
def completeLaunch (slot : Nat) (s : State) : State :=
  match launchAt s.pkg slot with
  | some l =>
    if l.complete ∨ l.counter ≠ 0 ∨ !s.dealt l then s
    else match s.futPlace l with
      | some pa => if peerLost s.pkg pa then s.launchWait slot l pa (endLaunch slot l false) else endLaunch slot l true s
      | none => endLaunch slot l true s
  | none => s

def completeGraph (g : Nat) (s : State) : State :=
  match graphAt s.pkg g with
  | some x =>
    if x.complete ∨ x.counter ≠ 0 then s
    else (s.modGraph g fun x => { x with complete := true }).modPhase x.job x.phase fun y => { y with counter := y.counter - 1 }
  | none => s

/-- R326: a phase's end discards the speculative evaluations its units started. -/
def completePhase (key : Nat) (s : State) : State :=
  match fget none s.pkg.phases key with
  | some x =>
    if x.complete ∨ x.counter ≠ 0 then s
    else
      let job := key / 65536
      let s := s.modPhase job (key % 65536) fun y => { y with complete := true }
      let s := s.modJob job fun j => { j with level := { j.level with counter := j.level.counter - 1 } }
      s.discardSpec fun f => f.phase == key
  | none => s

def completeJob (job : Nat) (s : State) : State :=
  s.modJob job fun j => if j.level.counter = 0 then { j with level := { j.level with complete := true } } else j

/-- LEVEL_COMPLETION (R316). -/
def execLevelCompletion (lvl : Level) (id : Nat) (s : State) : Host.Outcome State Fault Refusal :=
  event (match lvl with
    | .launch => completeLaunch id | .graph => completeGraph id | .phase => completePhase id | .job => completeJob id) s

/-! ### Dealing (R312, R315) -/

/-- R312: the size of the next chunk. -/
def Launch.chunk (p : Pkg) (l : Launch) : Nat :=
  let rest := l.narg - l.next
  let minch := max 1 (cardFld l.card 30 16)
  min rest (max minch (cdiv rest (2 * max 1 (l.par p))))

/-- R307: the record of a dealt unit. -/
def Launch.unitRec (l : Launch) (slot : Nat) (args : Nat) : Rec :=
  let hdr := cardFld l.card 0 32 / 2 ^ 29 * 2 ^ 29 + fld (cardFld l.card 0 32) 16 11 * 2 ^ 16 + slot
  BitVec.ofNat 512 (hdr + cardFld l.card 4 32 * 2 ^ 32 + cardFld l.card 8 32 * 2 ^ 64 + l.phjob * 2 ^ 96 + args * 2 ^ 128)

/-- Reads the bytes of the argument records of a grant in the launch's address space, 4 bytes at a time. -/
def State.readArgs (s : State) (job : Nat) : Nat → Nat → Except (XErr × Nat) (List Nat)
  | 0, _ => .ok []
  | n + 1, va =>
    match s.jobCell job va .load with
    | .error e => .error (e, va56 va)
    | .ok pa =>
      if badData s.pkg pa 4 then .error (.memue, va56 va)
      else match s.readArgs job n (va56 (va + 4)) with
        | .error e => .error e
        | .ok r => .ok (readNat s.pkg pa 4 :: r)

/-- R21, R369: the first word of the argument records that lies in memory which cannot be reached, and where. -/
def State.argLost (s : State) (job n va : Nat) : Option (Nat × Nat) :=
  (List.range n).findSome? fun i =>
    let a := va56 (va + 4 * i)
    match s.jobCell job a .load with | .ok pa => if peerLost s.pkg pa then some (a, pa) else none | .error _ => none

/-- Whether there is one. -/
def State.argsLost (s : State) (job n va : Nat) : Bool := (s.argLost job n va).isSome

/-- The number a list of words makes, lowest first. -/
def wordsNat (l : List Nat) : Nat := l.foldr (fun w acc => w + 2 ^ 32 * acc) 0

/-- R312: the cores a chunk may go to: idle, with an empty run list; a core that holds a grant already where P cores do. -/
def State.grantCores (s : State) (l : Launch) : List Nat :=
  let dies := maskDies s.pkg l.mask
  let full := decide (l.par s.pkg ≤ l.grants.length)
  (List.range 576).filter fun n =>
    dies.contains (n / 64) && (s.coreAt n).un.runList.isEmpty && (s.coreAt n).un.st == .idle && (!full || l.grants.any fun g => g.1 == n)

/-- The state in which a core reads the action table of a job; without the job it has none. -/
def State.ofJob (s : State) (job : Nat) : State :=
  let tab : Double := match fget none s.pkg.jobs job with | some j => j.acttab | none => 0
  { s with core := { s.core with trp := { s.core.trp with acttab := tab }, un := { s.core.un with job := job } } }

/-- R330: the entry of a job for a cause that no core raised. -/
def State.actForJob (s : State) (job cause : Nat) : ActEntry := (s.ofJob job).actFor cause

/-- R312, R332: the action for a cause of a launch: argument records that cannot be read, LOSTRUN. -/
def takeLaunch (slot : Nat) (l : Launch) (i : CauseInfo) (s : State) : State :=
  let a := s.actForJob l.job i.cause
  if i.cause = Cause.lostrun.no then
    if a.act = .kill then s.cancelLevel .job l.job else s.modJob l.job fun j => { j with stopped := true }
  else match a.now l.replays with
    | .replay =>
      (if i.cause = Cause.memue.no then s.logH l.phjob slot i else s).modLaunch slot fun l => { l with replays := l.replays + 1 }
    | .kill =>
      ((s.setStatus slot (0x80000000 + i.cause)).cancelLevel .launch slot).notifyH slot l.phjob i
    | _ => (s.modLaunch slot fun l => { l with stopped := true }).notifyH slot l.phjob i

/-- The same, once the action entry can be read (R330). DEDUCED: log entry 137. -/
def raiseLaunch (slot : Nat) (l : Launch) (i : CauseInfo) (s : State) : State :=
  match (s.ofJob l.job).actLost i.cause with
  | some _ => s.modLaunch slot fun l => { l with raised := some (i, s.clk) }
  | none => takeLaunch slot l i s

/-- A launch whose cause waits for its action entry: of a peer's it waits 2^26 clk, of the host's until a port is up. -/
def launchAgain (slot : Nat) (l : Launch) (i : CauseInfo) (since : Nat) (s : State) : State :=
  let go (s : State) : State := takeLaunch slot l i (s.modLaunch slot fun l => { l with raised := none })
  match (s.ofJob l.job).actLost i.cause with
  | none => go s
  | some pa =>
    if isPeer pa ∧ since + 2 ^ 26 ≤ s.clk then go (s.logH l.phjob slot (hostCause .memue 7 ((s.ofJob l.job).actVa i.cause))) else s

def argFault (slot : Nat) (l : Launch) (e : XErr) (va : Nat) (s : State) : State := raiseLaunch slot l { xerrCause e 15 va with eng := 5 } s

/-- CHUNK_GRANT (R312): a launch awaits its dependence counter until it is dealt (R308). The leader grants the next chunk to the first core that may take
it. A SELF launch queues its P units, P as it is when they are dealt; it counted P units when it was accepted. DESIGN CHOICE: log entry 110. -/
def grantChunk (slot : Nat) (s : State) : State :=
  match launchAt s.pkg slot with
  | none => s
  | some l =>
    let jobStopped : Bool := match fget none s.pkg.jobs l.job with | some j => j.stopped | none => false
    match (if l.complete ∨ l.cancelled then none else l.raised) with
    | some (i, since) => launchAgain slot l i since s
    | none =>
    if l.complete ∨ l.cancelled ∨ l.stopped ∨ jobStopped ∨ s.pkg.mgmt.quiesced = some l.job ∨ !s.unblocked l then s
    else
      if l.isSelf then
        if l.selfDealt then s
        else
          let cores := ((List.range 576).filter fun n => (maskDies s.pkg l.mask).contains (n / 64)).take (l.par s.pkg)
          let args := l.args % 2 ^ 64 + l.narg * 2 ^ 64 + l.asize * 2 ^ 96
          let q : QRec := { QRec.fresh (l.unitRec slot args) with self := true, since := s.clk }
          let s := s.modLaunch slot fun l => { l with selfDealt := true, waits := false }
          (cores.zip (List.range cores.length)).foldl (fun s (n, i) =>
            s.modCore n fun c => c.modUnit fun u => { u with runList := u.runList ++ [{ q with argIdx := some i }] }) s
      else
        let k := l.chunk s.pkg
        if k = 0 then s
        else match s.grantCores l with
          | [] => s
          | n :: _ =>
            match (if l.dispatched then none else s.argLost l.job (k * l.asize) (l.args + 4 * l.asize * l.next)) with
            | some (a, pa) => s.launchWait slot l pa (argFault slot l .memue a)
            | none =>
            match (if l.dispatched then .ok l.argWords else s.readArgs l.job (k * l.asize) (l.args + 4 * l.asize * l.next)) with
            | .error (e, va) => argFault slot l e va s
            | .ok ws =>
              let unit (i : Nat) : QRec :=
                { QRec.fresh (l.unitRec slot (wordsNat ((ws.drop (i * l.asize)).take l.asize))) with argIdx := some (l.next + i), since := s.clk }
              let idx := (List.range k).map fun i => l.next + i
              let s := s.modLaunch slot fun l =>
                { l with waits := false, next := l.next + k, replays := 0, lost := none, grants := l.grants ++ [(n, idx)] }
              s.modCore n fun c => c.modUnit fun u => { u with runList := u.runList ++ (List.range k).map unit }

def execChunkGrant (slot : Nat) (s : State) : Host.Outcome State Fault Refusal := event (grantChunk slot) s

/-- QUEUE_PROMOTION (R313): the head of a queue, once it has waited 2^24 clk. -/
def promote (die prio : Nat) (s : State) : State :=
  match dieQueue s.pkg die prio with
  | [] => s
  | q :: rest =>
    if prio < 7 ∧ q.since + 2 ^ 24 ≤ s.clk then
      (s.modPkg fun p => { p with queues := fset [] p.queues (8 * die + prio) rest }).pushQueue die (prio + 1) q
    else s

def execQueuePromotion (die prio : Nat) (s : State) : Host.Outcome State Fault Refusal := event (promote die prio) s

/-! ### Pick-up and binding (R302, R303, R313) -/

/-- R303: the image a unit is bound with: for the unit of a task that DISPATCH created the one of its method, for any other unit the first
table section of its object; `none`: the all-NOP image. -/
def unitImage (p : Pkg) (o : Obj) (q : QRec) : Option (Nat × Nat) :=
  let own := o.table.map fun t => (t.1, t.2 * 1024)
  match launchAt p (recLslot q.recd) with
  | some l => if l.dispatched && q.argIdx.isSome then (if l.trange = 0 then none else some (l.table, l.trange)) else own
  | none => own

/-- Writes the indices of an image into the shadow side, checked as TFILL checks them. -/
def fillImage (a first num : Nat) : List Nat → State → Option State
  | [], s => some s
  | i :: is, s =>
    match fillIndex a num first i (List.range 8) s with
    | .error _ => none
    | .ok s => if s.core.oneClass (first + i) then fillImage a first num is s else none

/-- The shadow side as all NOP. -/
def State.clearShadow (s : State) : State :=
  s.modTab fun t =>
    let side := !t.act
    { t with ents := t.ents.filter fun e => decide (e.1 / 1024 % 2 ≠ b2n side), cls := t.cls.filter fun e => decide (e.1 / 1024 ≠ b2n side) }

/-- R303: an image by the job whose address it has, as the active side remembers it. -/
def imageOf (job : Nat) (img : Option (Nat × Nat)) : Option (Nat × Nat × Nat) := img.map fun x => (job, x)

/-- R303: binds the image of the unit on the current core. -/
def bindImage (img : Option (Nat × Nat)) (s : State) : State :=
  let id := imageOf s.core.un.job img
  if s.core.tab.bound = some id then s
  else
    let s := s.clearShadow
    let done (s : State) : State := s.swapSides.modTab fun t => { t with bound := some id }
    match img with
    | none => done s
    | some (a, b) =>
      let first := fld b 0 10
      let num := fld b 10 11
      let bad (s : State) : State := s.modTab fun t => { t with bad := true, ever := true, bindBad := true }
      if num = 0 ∨ 1024 < first + num ∨ a % 8 ≠ 0 then bad s
      else match fillImage a first num (List.range num) s with
        | some s => done s
        | none => bad s

/-- R302: the registers a record loads. -/
def loadRecord (r : Rec) : FMap Double :=
  (List.range 6).foldl (fun m j =>
    let lo := recWord r (4 + 2 * j)
    let hi := recWord r (5 + 2 * j)
    let ext (w : Nat) : Double := if recSxt r then (BitVec.ofNat 32 w).signExtend 64 else BitVec.ofNat 64 w
    if bit (recJoin r) j then fset 0 m (1 + 2 * j) (BitVec.ofNat 64 (hi * 2 ^ 32 + lo))
    else fset 0 (fset 0 m (1 + 2 * j) (ext lo)) (2 + 2 * j) (ext hi)) []

/-- R302, R215, R233, R254: a core between units: the context state at its reset values; what belongs to the core stays. -/
def Core.cleared (c : Core) : Core :=
  { c with sca := { Sca.reset with seq := c.sca.seq },
           vec := { Vec.reset with asstat := c.vec.asstat, cbstall := c.vec.cbstall },
           tab := { c.tab with xnext := 0, wait := none, bindBad := false },
           lsu := { c.lsu with loadQ := [], storeQ := [], outst := [], seen := [], rinvHeld := none, utlb := [], walked := none, claims := [] },
           eng := { Eng.reset with nextCmd := c.eng.nextCmd },
           trp := { Trp.reset with acttab := c.trp.acttab, methctl := c.trp.methctl, ctxpool := c.trp.ctxpool, dbgmode := c.trp.dbgmode },
           un := { UnitSt.reset with runList := c.un.runList, perf := c.un.perf } }

/-- R332: a record whose handle no object has is parked for host software. -/
def State.parkUnbound (s : State) (q : QRec) : State :=
  let s := s.modPkg fun p => { p with unbound := p.unbound ++ [q] }
  (s.notifyH (recLslot q.recd) (recPhjob q.recd) (hostCause .unbound 5 (recHandle q.recd))).modMgmt fun m => { m with msix := m.msix ++ [21] }

/-- R303: the object a handle names, as loaded for the job if it is. -/
def objectOf (p : Pkg) (job handle : Nat) : Option Obj :=
  match p.objs.find? fun o => o.handle == handle && o.job == job with
  | some o => some o
  | none => p.objs.find? fun o => o.handle == handle

/-- The job a record's unit runs in: the one its PHJOB names. Where no such job exists, the job of its launch (R359: a ring takes the
cards of one job), else the job its object was loaded for. DEDUCED: log entry 45. -/
def recordJob (p : Pkg) (r : Rec) : Nat :=
  if (fget none p.jobs (recJob r)).isSome then recJob r
  else match launchAt p (recLslot r) with
    | some l => l.job
    | none => match p.objs.find? fun o => o.handle == recHandle r with | some o => o.job | none => recJob r

/-- R302, R303: the current core takes a record. Where it delivers a cell's value, resident lines of that cell take what it holds now, so that the loads
of one location never run backward (R141). ENTRY is a multiple of 32 (R301); where it is not, its low five bits are dropped. DESIGN CHOICE: log entry 39. -/
def startUnit (q : QRec) (s : State) : State :=
  let r := recTrim q.recd
  let jobNo := recordJob s.pkg r
  match objectOf s.pkg jobNo (recHandle r) with
  | none => s.parkUnbound q
  | some o =>
    let job := fget none s.pkg.jobs jobNo
    let c := s.core.cleared
    let g := loadRecord r
    let g := match q.deliver with | some d => if d.dst = 0 ∨ d.wbs then g else fset 0 g d.dst.toNat d.v | none => g
    let c := { c with
      sca := { c.sca with g := g, pc := va56 (o.code + recEntry r) / 32 * 32 },
      trp := { c.trp with acttab := (job.map Job.acttab).getD 0, methctl := (job.map Job.methctl).getD 0,
                          ctxpool := (job.map Job.ctxpool).getD 0 },
      un := { c.un with st := .running, recd := r, start := s.clk, code := o.code, codeLen := o.codeLen, maxdepth := o.maxdepth,
                        job := jobNo, evalOf := q.evalOf, pool := q.pool, argIdx := q.argIdx, self := q.self, deliver := q.deliver } }
    let s := (bindImage (unitImage s.pkg o q) { s with core := c }).modSca fun c => { c with land1 := q.deliver.map fun d => (c.seq, d.v) }
    let s := match q.deliver with | some d => s.refreshLine d.line | none => s
    let s := match o.phases.find? fun x => x.1 == recPhase r with
      | some (_, code) => if code = s.core.lsu.size then s else s.moveTo code
      | none => s
    s.perf 15 1

/-- R313: removes the first element that passes a test. -/
def takeFirst {α : Type} (ok : α → Bool) : List α → Option (α × List α)
  | [] => none
  | x :: xs => if ok x then some (x, xs) else (takeFirst ok xs).map fun (y, r) => (y, x :: r)

/-- The records of a die, highest priority first. -/
def State.takeFromDie (s : State) (die : Nat) (ok : QRec → Bool) : Option (QRec × State) :=
  ([7, 6, 5, 4, 3, 2, 1, 0].filterMap fun prio =>
    (takeFirst ok (dieQueue s.pkg die prio)).map fun (q, rest) =>
      (q, s.modPkg fun p => { p with queues := fset [] p.queues (8 * die + prio) rest })).head?

def dieTotal (p : Pkg) (die : Nat) : Nat := ((List.range 8).map fun k => (dieQueue p die k).length).sum

/-- The dies, the fullest first, lowest number first on ties. -/
def insertDie (p : Pkg) (d : Nat) : List Nat → List Nat
  | [] => [d]
  | x :: xs => if dieTotal p x < dieTotal p d then d :: x :: xs else x :: insertDie p d xs

/-- R380: the units of a job held still are not picked up. -/
def State.pickable (s : State) (q : QRec) : Bool := s.pkg.mgmt.quiesced != some (recordJob s.pkg q.recd)

/-- R313: the next work of core `n`, and the state without it. -/
def State.nextWork (s : State) (n : Nat) : Option (QRec × State) :=
  match takeFirst s.pickable (s.coreAt n).un.runList with
  | some (q, rest) => some (q, s.modCore n fun c => c.modUnit fun u => { u with runList := rest })
  | none =>
    let die := n / 64
    match s.takeFromDie die s.pickable with
    | some x => some x
    | none =>
      let order := s.pkg.live.foldl (fun l d => insertDie s.pkg d l) []
      (order.filterMap fun d => s.takeFromDie d fun q => s.pickable q && (slotDies s.pkg (recLslot q.recd)).contains die).head?

/-- The idle core that takes work next: the current one, else the lowest-numbered. -/
def State.idleCores (s : State) : List Nat :=
  let ok (n : Nat) : Bool := liveCore s.pkg n && (s.coreAt n).un.st == .idle
  (if ok s.no then [s.no] else []) ++ (List.range 576).filter ok

/-- Whether a queue or a run list holds anything. -/
def State.anyWork (s : State) : Bool := !s.pkg.queues.isEmpty || s.cores.any fun e => !e.2.un.runList.isEmpty

/-- The work an idle core would take. DESIGN CHOICE: log entry 40. -/
def State.pick (s : State) : Option (Nat × QRec × State) :=
  if !s.anyWork then none
  else (s.idleCores.filterMap fun n => (s.nextWork n).map fun (q, t) => (n, q, t)).head?

/-- R303, R369: where an image that core `n` would have to read for a record lies in memory that cannot be reached: its address, and the place. -/
def State.imageLost (s : State) (n : Nat) (q : QRec) : Option (Nat × Nat) :=
  let job := recordJob s.pkg q.recd
  match objectOf s.pkg job (recHandle q.recd) with
  | none => none
  | some o =>
    let img := unitImage s.pkg o q
    if (s.coreAt n).tab.bound = some (imageOf job img) then none
    else match img with
      | none => none
      | some (a, b) =>
        let len := 64 * fld b 10 11
        (List.range (cdiv len 65536 + 1)).findSome? fun i =>
          match s.jobCell job (va56 (a + min (65536 * i) (len - 1))) .load with
          | .ok pa => if peerLost s.pkg pa then some (a, pa) else none
          | .error _ => none

/-- UNIT_PICKUP (R313): once the image to bind can be reached; where a peer that holds it has not been for 2^26 clk, the binding fails (R303). -/
def pickUp (s : State) : State :=
  match s.pick with
  | some (n, q, t) =>
    if q.saved.isSome then s
    else match t.imageLost n q with
      | some (a, pa) => (s.switchTo n).waitFar a (isPeer pa) (fun _ => t.onCore n (startUnit q) |>.switchTo n) |>.switchTo s.no
      | none => t.onCore n (startUnit q)
  | none => s

def execUnitPickup (s : State) : Host.Outcome State Fault Refusal := event pickUp s

end Sys2Proof.Machine
end

