-- ==== Sys2Proof/Machine/Tasks.lean ====
section
/-! DEFINITION. The cell, task and dispatch instructions (R290 to R300, R310 to R326): what they enqueue, and what is done when they are
performed. Also ACCESS_PERFORMED, which performs every access that is no cell operation and no dispatch. -/

namespace Sys2Proof.Machine

/-! ### Issue (R296, R310) -/

/-- A store-queue instruction of R310: a release at pkg scope, then its own entry. -/
def State.enqTask (s : State) (h : Head) (far : Bool) (op : QOp) : State := (s.enqPlain true h false (.relTok 2)).enqPlain true h far op

/-- The same with a result. -/
def State.enqTaskRes (s : State) (h : Head) (dst : BitVec 5) (wbs far : Bool) (op : QOp) : State :=
  (s.enqPlain true h false (.relTok 2)).enqResult true .s1 h dst wbs far op

/-- R320: the cell address of an operation: aligned, and on a cell page. `b`: a record or value address that must be aligned too. -/
def cellForm (h : Head) (k : Acc) (a : BitVec 6) (b : Option (BitVec 6)) (enq : State → Nat → Xl → State → State) : SlotSem :=
  let addr (p : State) : Nat := (p.core.src .s1 false a).toNat
  { op := fun p s => guarded h p s fun s =>
      let ea := addr p
      if ea % 64 ≠ 0 then .trap (slotCause .align 1 0 ea)
      else
        let bv := match b with | some f => (p.core.src .s1 true f).toNat | none => 0
        if bv % 64 ≠ 0 then .trap (slotCause .align 1 0 bv)
        else match translate p p.root k 8 ea with
          | .error e => .trap (xerrCause e 1 ea)
          | .ok x => .ok (enq p ea x s)
    wait := fun p => accessWait h true 64 (addr p) p }

def semCellmk (h : Head) (a b : BitVec 6) : SlotSem :=
  cellForm h .cellOp a (some b) fun p ea x s => s.enqTask h (p.far x.pa) (.cellmk ea x.pa (p.core.src .s1 true b).toNat false)
def semCellmkFut (h : Head) (a : BitVec 6) : SlotSem :=
  cellForm h .cellOp a none fun p ea x s => s.enqTask h (p.far x.pa) (.cellmk ea x.pa 0 true)

def semResolve (h : Head) (a b : BitVec 6) : SlotSem :=
  cellForm h .cellOp a (some b) fun p ea x s => s.enqTask h (p.far x.pa) (.resolve ea x.pa (p.core.src .s1 true b).toNat)
def semResolveOn (h : Head) (a b : BitVec 6) (tl : BitVec 3) : SlotSem :=
  cellForm h .cellOp a none fun p ea x s => s.enqTask h (p.far x.pa) (.resolveOn ea x.pa tl.toNat (p.core.src .s1 true b))

/-- R325: FREG; the landing of a value acts as an acquire at pkg scope. DEDUCED: log entry 85. -/
def semFreg (h : Head) (dst : BitVec 5) (wbs : Bool) (a b : BitVec 6) : SlotSem :=
  cellForm h .cellRd a (some b) fun p ea x s =>
    let s := s.enqPlain true h false (.relTok 2)
    let id := s.core.sca.seq
    (s.enqResult true .s1 h dst wbs (p.far x.pa) (.freg ea x.pa (p.core.src .s1 true b).toNat)).enqPlain false h false (.acqTok 2 (some id))

def semSpecev (h : Head) (a b : BitVec 6) : SlotSem :=
  cellForm h .cellOp a none fun p ea x s => s.enqTask h (p.far x.pa) (.specev ea x.pa (p.core.src .s1 true b))

/-- An operation whose first source is the address of a 64-byte block. -/
def blockForm (h : Head) (a : BitVec 6) (enq : State → Nat → State → State) : SlotSem :=
  { op := fun p s => guarded h p s fun s =>
      let ea := (p.core.src .s1 false a).toNat
      if ea % 64 ≠ 0 then .trap (slotCause .align 1 0 ea) else .ok (enq p ea s)
    wait := fun p => activeWait h p (if (p.core.src .s1 false a).toNat % 64 ≠ 0 then .go else queueWait true p) }

def semSpawn (h : Head) (a b : BitVec 6) : SlotSem := blockForm h a fun p ea s => s.enqTask h false (.spawn ea (p.core.src .s1 true b))
def semLaunch (h : Head) (dst : BitVec 5) (wbs : Bool) (a : BitVec 6) : SlotSem :=
  blockForm h a fun _ ea s => s.enqTaskRes h dst wbs false (.launch ea)

def semChunk (h : Head) (dst : BitVec 5) (wbs : Bool) : SlotSem :=
  { op := fun p s => guarded h p s fun s => .ok (s.enqResult false .s1 h dst wbs false .chunk)
    wait := fun p => activeWait h p (queueWait false p) }

/-- R317: CNTRD; a value with COMPLETE acts as an acquire at pkg scope. DEDUCED: log entry 85. -/
def semCntrd (h : Head) (dst : BitVec 5) (wbs : Bool) (a : BitVec 6) (lvl : BitVec 3) : SlotSem :=
  { op := fun p s => guarded h p s fun s => .ok ((s.enqResult false .s1 h dst wbs false (.cntrd (p.core.src .s1 false a) lvl.toNat)).enqPlain false h false (.acqTok 2 (some s.core.sca.seq)))
    wait := fun p => activeWait h p (queueWait false p) }

def semCancel (h : Head) (a : BitVec 6) (lvl : BitVec 3) : SlotSem :=
  { op := fun p s => guarded h p s fun s => .ok (s.enqTask h false (.cancel (p.core.src .s1 false a) lvl.toNat))
    wait := fun p => activeWait h p (queueWait true p) }

/-- R294. -/
def semMlook (h : Head) (dst : BitVec 5) (wbs : Bool) (a : BitVec 6) : SlotSem :=
  { op := fun p s => guarded h p s fun s => .ok (s.enqResult false .s1 h dst wbs false (.mlook (p.core.src .s1 false a)))
    wait := fun p => activeWait h p (queueWait false p) }

/-- R296. -/
def semDispatch (h : Head) (dst : BitVec 5) (wbs : Bool) (a : BitVec 6) : SlotSem :=
  { op := fun p s => guarded h p s fun s =>
      let off := offsetOf (p.core.src .s1 false a)
      match offsetFault p.core 128 1 off with
      | some c => .trap c
      | none => .ok (s.enqTaskRes h dst wbs false (.dispatch off))
    wait := fun p => activeWait h p (queueWait true p) }

/-! ### Faults of the dispatchers (R299, R310) -/

/-- A cause the dispatcher finds for entry `e`. DESIGN CHOICE: log entry 21. -/
def dispCause (cause slot reason tstat : Nat) : CauseInfo :=
  { cause, slot, gmask := 0, reason, tl := 0, eng := 5, tlnum := 0, tstat }

/-- An engine-style read failure as the dispatcher names it; a read of a CMP page is CMPLOAD. DESIGN CHOICE: log entry 116. -/
def dispErr (e : EFail) (slot va : Nat) : CauseInfo :=
  if e = cpyFail 3 then dispCause Cause.xlate.no slot 4 va else dispCause e.1 slot e.2 va

/-- Reports a cause for an entry and lets `done` follow. Where the entry was killed the cause is suppressed, though a MEMUE is logged (R353); where the reports are full, nothing
happens yet, nor where memory that the entry reads cannot be reached, until a peer has not been for 2^26 clk (R369). DESIGN CHOICE: log entry 22. -/
def State.taskFault (s : State) (e : QEntry) (i : CauseInfo) (done : State → State) : State :=
  if i.cause = 0 then
    if i.reason = lostPeer.2 ∧ e.since + 2 ^ 26 ≤ s.clk then
      let i := { i with cause := Cause.memue.no, reason := 0 }
      let (s', ok) := if e.dead then (s.logMemue i, true) else s.reportAs e.res i e.tbun 8 0
      if ok then done s' else s
    else s
  else if e.dead then done (s.logMemue i)
  else
    let (s', ok) := s.reportAs e.res i e.tbun 8 0
    if ok then done s' else s

/-- An entry has been performed: its value returns. -/
def State.finishTask (s : State) (e : QEntry) (v : Double) : State := (s.dropOutst e.id).returnValue e v

/-- 64 bytes at an address of the unit. -/
def State.read64 (s : State) (va : Nat) : Except EFail Nat := (s.engRead false (va56 va) 64).map leNat

/-! ### The launch, graph, phase and job of the running unit -/

def State.myPhjob (s : State) : Nat := recPhjob s.core.un.recd
def State.myDie (s : State) : Nat := s.no / 64

/-- Whether the running unit is the evaluator of a cell. -/
def State.isEvaluator (s : State) (pa : Nat) : Bool :=
  s.core.un.evalOf == some (lineOf pa) && (cellAt s.pkg pa != .pending || cellEvid s.pkg pa == s.core.un.pool)

def State.evalRef (s : State) (pa : Nat) : Option Nat := if s.core.un.evalOf = some (lineOf pa) then some s.core.un.pool else none

/-! ### Cell operations (R319 to R327) -/

/-- R321: what is parked on the cell for a waiting unit: its record is written once the unit has suspended. -/
def waitEntry (s : State) (w : CellWait) : PoolEntry :=
  { PoolEntry.fresh s.core.un.recd s.myDie with
      wait := some w, ready := false, evalOf := s.core.un.evalOf, evalPool := s.core.un.pool,
      argIdx := s.core.un.argIdx, self := s.core.un.self }

/-- R327: the demand of a load or of FREG on a SUSPENDED or SPECULATIVE cell. -/
def State.triggered (s : State) (pa : Nat) : State :=
  match cellAt s.pkg pa with
  | .suspended => s.startEval pa s.mySlot s.myPhjob s.myDie none
  | _ => s.demand pa

/-- R321: the fetch address that the bundle after a cell load would have had: the one due; that after a suspension's own bundle; after a trap entry
the one that TEPC names. -/
def State.cellNext (s : State) (e : QEntry) : Nat :=
  match e.bank with
  | some 0 => s.core.sca.pc
  | some l => va56 (s.core.trp.bank l).tepc.toNat / 32 * 32
  | none => match s.core.un.st with | .leaving _ => s.core.sca.cellNext | _ => s.core.sca.pc

/-- R321: the unit takes a cell wait, which is a suspension point. In the bundle of a SUSPEND or a FINISH it comes in the place of that instruction's own
effect. DESIGN CHOICE: log entry 118. Where a trap or a park came between the load and its performance (R158), the wait is made once no handler runs
(R306). -/
def State.beginWait (s : State) (e : QEntry) (how : Leave) : State :=
  if e.bank.isSome then s.modTrp fun t => { t with resumeLeave := some how } else s.modUn fun u => { u with st := .leaving how }

/-- R353: whether what an operation reads of a cell fails ECC: its state bits; `val` bytes at `pa` of a VALUE cell; where `recd` says so the record of a
SUSPENDED one; where `word` says so the state word of a PENDING one. DEDUCED: log entry 140. -/
def cellBad (p : Pkg) (pa val : Nat) (recd word : Bool) : Bool :=
  badCell p pa || (match cellAt p pa with
    | .value => val != 0 && badData p pa val
    | .suspended => recd && badData p (lineOf pa) 64
    | .pending => word && badData p (lineOf pa) 64)

/-- A cell load (R321). `old`: an HWIN bundle has applied writes since it issued (R148). Resident lines take the bytes it returns, so that the loads of one location never run backward (R141). DEDUCED: log entry 75. -/
def cellLoad (e : QEntry) (va pa size : Nat) (signed : Bool) (old : Option (Bool × Nat × Nat)) (s : State) : State :=
  let line := lineOf pa
  let unstall (s : State) : State := s.modSca fun c => { c with cellStall := if c.cellStall = some e.id then none else c.cellStall }
  let now (s : State) : State :=
    let m := match old with | some (_, was, now) => beforeBytes size (readNat s.pkg pa size) was now | none => readNat s.pkg pa size
    unstall ((s.modLsu fun l => l.touch pa size m).finishTask e (loadValue size signed m))
  let bad : Bool := match old with | some (b, _, _) => b && cellAt s.pkg pa == .value | none => false
  if cellBad s.pkg pa size true true ∨ bad then
    let s' := s.accessMemue e va
    if s'.core.lsu.outst.length < s.core.lsu.outst.length then unstall s' else s
  else match cellAt s.pkg pa with
    | .value => now s
    | _ =>
      if e.dead then
        let s := if cellAt s.pkg pa = .suspended then s.triggered pa
          else if cellSpec s.pkg pa then s.demand pa else s
        unstall (s.dropOutst e.id)
      else if s.isEvaluator pa then
        s.taskFault e (dispCause Cause.selfdep.no 1 0 (lineOf (va56 va))) fun s => unstall (s.dropOutst e.id)
      else
        let s := s.triggered pa
        if cellAt s.pkg pa = .value then now s
        else
          let next := s.cellNext e
          let (ref, s) := s.appendChain line s.myDie (waitEntry s { dst := e.dst, wbs := e.wbs, size, off := pa - line, signed, line })
          (unstall (s.dropOutst e.id)).beginWait e (.cellWait next ref)

/-- CELLMK (R322). DESIGN CHOICE: log entry 129 (several faults at once). -/
def cellMake (e : QEntry) (va pa recd : Nat) (fut : Bool) (s : State) : State :=
  let drop (s : State) : State := s.dropOutst e.id
  if badCell s.pkg pa then s.taskFault e (dispCause Cause.memue.no 1 0 (va56 va)) drop
  else if cellAt s.pkg pa = .pending then s.taskFault e (dispCause Cause.cellbusy.no 1 0 (va56 va)) drop
  else if fut then drop (s.modPkg fun p => writePending p pa 0 0 0 0 s.mySlot false false)
  else match s.read64 recd with
    | .error x => s.taskFault e (dispErr x 1 recd) drop
    | .ok v =>
      let r := recTrim (BitVec.ofNat 512 v)
      if recKind r ≠ 1 ∨ recReserved r then s.taskFault e (dispCause Cause.badcard.no 1 0 recd) drop
      else drop (s.modPkg fun p => writeSuspended p pa r)

/-- RESOLVE (R324). -/
def cellResolve (e : QEntry) (va pa : Nat) (val : Except EFail Nat) (b : Nat) (s : State) : State :=
  let drop (s : State) : State := s.dropOutst e.id
  match val with
  | .error x => s.taskFault e (dispErr x 1 b) drop
  | .ok v =>
    if cellBad s.pkg pa 0 false true then s.taskFault e (dispCause Cause.memue.no 1 0 (va56 va)) drop
    else
    let (s', ok) := s.resolveCell pa v (s.evalRef pa)
    if ok then drop s' else s.taskFault e (dispCause Cause.dblres.no 1 0 (va56 va)) drop

/-- FREG (R325). -/
def cellRegister (e : QEntry) (va pa recd : Nat) (s : State) : State :=
  let reads (s : State) : State :=
    s.finishTask e ((BitVec.ofNat 64 (readNat s.pkg (lineOf pa) 8) &&& 0x3FFFFFFFFFFFFFFF) ||| 0x8000000000000000)
  let fails (i : CauseInfo) (s : State) : State :=
    s.taskFault e i fun s => let (n, s) := s.takeFree; s.finishTask e (Config.freeDouble n)
  if cellBad s.pkg (lineOf pa) 8 true true then fails (dispCause Cause.memue.no 1 0 (va56 va)) s
  else match s.read64 recd with
    | .error x => fails (dispErr x 1 recd) s
    | .ok v =>
      let r := recTrim (BitVec.ofNat 512 v)
      if (recKind r ≠ 0 ∧ recKind r ≠ 2) ∨ recReserved r then fails (dispCause Cause.badcard.no 1 0 recd) s
      else if cellAt s.pkg pa = .value then reads s
      else if s.isEvaluator pa then fails (dispCause Cause.selfdep.no 1 0 (lineOf (va56 va))) s
      else
        let s := s.triggered pa
        if cellAt s.pkg pa = .value then reads s
        else
          let r := recWithKind (recOwned r s.mySlot s.myPhjob) 2
          let (_, s) := s.appendChain (lineOf pa) s.myDie (PoolEntry.fresh r s.myDie)
          (s.launchAdd s.mySlot 1).finishTask e 0

/-- SPECEV (R326). -/
def cellSpecev (e : QEntry) (va pa : Nat) (b : Double) (s : State) : State :=
  let drop (s : State) : State := s.dropOutst e.id
  if cellBad s.pkg pa 0 true false then s.taskFault e (dispCause Cause.memue.no 1 0 (va56 va)) drop
  else if cellAt s.pkg pa = .suspended then
    (drop s).startEval pa s.mySlot s.myPhjob s.myDie (some (fld b.toNat 11 45 * 2048, (fld b.toNat 0 11 + 1) * 2048))
  else drop s

/-- R402: the clk a resolution is on its way at least: its fault is never reported before the second bundle after it has issued.
DEDUCED: log entry 88. -/
def resolveClk : Nat := 2

/-- CELL_OPERATION (R319): an operation reaches the cell's line. -/
def cellOperate (id : Nat) (s : State) : State :=
  match s.core.lsu.outst.find? fun e => e.id == id with
  | none => s
  | some e =>
    if !mayPerform e s.core.lsu.outst then s
    else if (match e.op.place with | some pa => peerLost s.pkg pa | none => false) then s
    else match e.op with
      | .load va pa size signed true _ _ => cellLoad e va pa size signed none s
      | .loadBefore va pa size signed true _ bad was now => cellLoad e va pa size signed (some (bad, was, now)) s
      | .cellmk va pa recd fut => cellMake e va pa recd fut s
      | .resolve va pa b => if s.clk < e.since + resolveClk then s else cellResolve e va pa (s.read64 b) b s
      | .freg va pa recd => cellRegister e va pa recd s
      | .specev va pa b => cellSpecev e va pa b s
      | _ => s

def execCellOperation (id : Nat) (s : State) : Host.Outcome State Fault Refusal := event (cellOperate id) s

/-- RESOLVE_ON_FIRE (R324): an armed resolution whose timeline has reached its value. One of a cell that cannot be reached waits (R369). The
faults of one that has been killed are suppressed (R310). -/
def fireArmed (i : Nat) (s : State) : State :=
  match s.core.eng.armed.drop i with
  | [] => s
  | a :: _ =>
    if s.core.tlValue a.tl < a.b.toNat then s
    else if peerLost s.pkg a.pa then
      let since := a.lost.getD s.clk
      let set (x : List Armed) : State := s.modEng fun e => { e with armed := e.armed.take i ++ x ++ e.armed.drop (i + 1) }
      if isPeer a.pa ∧ since + 2 ^ 26 ≤ s.clk then
        (if s.core.dying ∨ a.dead then (set []).logMemue { slotCause .memue 1 0 (va56 a.va) with eng := 7 }
         else
           let (s', took) := (set []).reportAs false { slotCause .memue 1 0 (va56 a.va) with eng := 7 } a.tbun 8 0
           if took then s' else s)
      else set [{ a with lost := some since }]
    else
      let s1 := s.modEng fun e => { e with armed := e.armed.take i ++ e.armed.drop (i + 1) }
      let fails (i : CauseInfo) : State :=
        if s.core.dying ∨ a.dead then s1.logMemue i
        else
          let (s3, took) := s1.reportAs false i a.tbun 8 0
          if took then s3 else s
      if cellBad s.pkg a.pa 0 false true then fails (dispCause Cause.memue.no 1 0 (va56 a.va))
      else
        let (s2, ok) := s1.resolveCell a.pa (1 + a.b.toNat * 2 ^ 64) (s.evalRef a.pa)
        if ok then s2 else fails (dispCause Cause.dblres.no 1 0 (va56 a.va))

def execResolveOnFire (i : Nat) (s : State) : Host.Outcome State Fault Refusal := event (fireArmed i) s

/-! ### LAUNCH, SPAWN, CHUNK, CNTRD, CANCEL (R311 to R318) -/

/-- LAUNCH (R311). -/
def doLaunch (e : QEntry) (va : Nat) (s : State) : State :=
  let fails (i : CauseInfo) : State := s.taskFault e i fun s => s.finishTask e (BitVec.allOnes 64)
  match s.read64 va with
  | .error x => fails (dispErr x 1 va)
  | .ok v =>
    let card : BitVec 512 := BitVec.ofNat 512 v
    match launchAt s.pkg s.mySlot with
    | none => fails (dispCause Cause.badcard.no 1 0 va)
    | some m =>
      if !cardOk s.pkg m.graph card then fails (dispCause Cause.badcard.no 1 0 va)
      else
        let slot := freeSlot s.pkg
        let l := Launch.ofCard card (s.core.un.job) s.myPhjob m.graph m.ring m.seq false
        let s := s.addLaunch slot { l with cancelled := false }
        let s := if m.cancelled then s.cancelLevel .launch slot else s
        s.finishTask e (BitVec.ofNat 64 slot)

/-- SPAWN (R311): the die a record is queued on. DESIGN CHOICE: log entry 40. -/
def spawnDie (b : Double) (slot : Nat) (s : State) : Nat × State :=
  let dies := slotDies s.pkg slot
  let k := fld b.toNat 0 2
  let d := fld b.toNat 2 4
  if k = 2 then
    let (n, s) := s.takeFree
    (if dies.isEmpty then s.myDie else nth dies (Config.choice n % dies.length), s)
  else if k = 3 ∧ dies.contains d then (d, s)
  else (s.myDie, s)

def doSpawn (e : QEntry) (va : Nat) (b : Double) (s : State) : State :=
  let drop (s : State) : State := s.dropOutst e.id
  match s.read64 va with
  | .error x => s.taskFault e (dispErr x 1 va) drop
  | .ok v =>
    let r := recTrim (BitVec.ofNat 512 v)
    if recKind r ≠ 0 ∨ recReserved r then s.taskFault e (dispCause Cause.badcard.no 1 0 va) drop
    else if s.cancelled s.mySlot then drop s
    else
      let r := recOwned r s.mySlot s.myPhjob
      let (die, s) := spawnDie b s.mySlot s
      drop ((s.queueUnit die (QRec.fresh r)).launchAdd s.mySlot 1)

/-- CHUNK (R312). Each grant to a SELF unit is logged; lost ones are granted again, ahead of new chunks (R315). -/
def doChunk (e : QEntry) (s : State) : State :=
  if s.core.un.self then
    match launchAt s.pkg s.mySlot with
    | some l =>
      let (b, k, again) := match l.again with
        | x :: rest => if l.cancelled then (l.next, 0, []) else (x.1, x.2, rest)
        | [] => (l.next, if l.cancelled then 0 else l.chunk s.pkg, [])
      let new := if l.again.isEmpty then k else 0
      (s.modLaunch s.mySlot fun l =>
        { l with next := l.next + new, again, chunks := if k = 0 then l.chunks else l.chunks ++ [(s.no, s.core.un.argIdx.getD 0, b, k)] }).finishTask e
          (BitVec.ofNat 64 (k * 2 ^ 32 + b % 2 ^ 32))
    | none => s.finishTask e 0
  else match s.core.un.argIdx with
    | some i => s.finishTask e (BitVec.ofNat 64 (2 ^ 32 + i))
    | none => s.finishTask e 0xFFFFFFFF

/-- R317: CNTRD. One that later accesses have passed while its level lacked COMPLETE returns what it would have returned then; without COMPLETE it
orders nothing, and its acquire goes. -/
def doCntrd (e : QEntry) (a : Double) (lvl : Nat) (s : State) : State :=
  let now := s.levelNow a lvl
  let v := if now.getLsbD 63 then (s.core.lsu.passed e.id).getD now else now
  (s.modLsu fun l => { l.forget e.id with loadQ := if v.getLsbD 63 then l.loadQ else l.loadQ.filter fun x => !x.op.follows e.id }).finishTask e v

def doCancel (e : QEntry) (a : Double) (lvl : Nat) (s : State) : State :=
  let s := s.dropOutst e.id
  match levelId s a lvl with
  | some (l, id) => s.cancelLevel l id
  | none => s

/-! ### The method table (R290 to R294) -/

def methBase (c : Double) : Nat := fld c.toNat 12 44 * 4096
def methLogn (c : Double) : Nat := fld c.toNat 0 5
def methOk (c : Double) : Bool := decide (6 ≤ methLogn c) && decide (methLogn c ≤ 20)

/-- R291: fields of a record. -/
def mKeyw (r : Nat) : Nat := fld r 0 32
def mKind (r : Nat) : Nat := fld r 29 2
def mTag (r i : Nat) : Nat := fld r (32 + 16 * i) 16
def mFlags (r : Nat) : Nat := fld r 80 16
def mHandle (r : Nat) : Nat := fld r 96 32
def mEntry (r : Nat) : Nat := fld r 128 32
def mTrange (r : Nat) : Nat := fld r 160 32
def mTable (r : Nat) : Nat := fld r 192 64
def mPref (r i : Nat) : Nat := fld r (256 + 16 * i) 16
def mRnum (r : Nat) : Nat := fld r 304 8
def mRden (r : Nat) : Nat := fld r 312 8

/-- R291: the fields a KIND does not use are zero. -/
def methZeros (r : Nat) : Bool :=
  let k := mKind r
  fld (mKeyw r) 14 15 == 0 && (List.range 3).all (fun i => mTag r i % 4 == 0) && fld r 320 192 == 0 &&
    (if k = 0 then fld (mFlags r) 2 14 == 0 && !bit (mFlags r) 0 && fld r 256 64 == 0
     else if k = 1 then fld (mFlags r) 2 14 == 0 && !bit (mFlags r) 0 && fld r 256 48 == 0 && mTag r 2 == 0
     else if k = 2 then (List.range 3).all (fun i => mTag r i == 0) && mFlags r / 2 == 0 && fld r 96 160 == 0 && fld r 304 16 == 0
     else false)

/-- R292: the bucket of a key. -/
def methBucket (logn kind op arity t0 t1 t2 : Nat) : Nat :=
  let k (t : Nat) : Nat := t % 2 ^ 16 / 4 * 4
  let h := (op * 2533) ^^^ (k t0 * 3) ^^^ (k t1 * 5) ^^^ (k t2 * 7) ^^^ (arity * 0x10000) ^^^ (kind * 0x40000)
  (h ^^^ (h >>> 16)) % 2 ^ logn

/-- R292: whether a record has a key. -/
def methMatch (r kind op arity t0 t1 t2 : Nat) : Bool :=
  let k (t : Nat) : Nat := t % 2 ^ 16 / 4 * 4
  mKind r == kind && fld (mKeyw r) 0 12 == op && fld (mKeyw r) 12 2 == arity && mTag r 0 == k t0 && mTag r 1 == k t1 && mTag r 2 == k t2 &&
    methZeros r

/-- R292: the probe from place `b + i`. -/
def methProbe (s : State) (ctl : Double) (kind op arity t0 t1 t2 b : Nat) : Nat → Nat → Except (EFail × Nat) (Option (Nat × Nat))
  | 0, _ => .ok none
  | n + 1, i =>
    let va := va56 (methBase ctl + 64 * ((b + i) % 2 ^ methLogn ctl))
    match s.read64 va with
    | .error e => .error (e, va)
    | .ok r =>
      if !bit (mKeyw r) 31 then .ok none
      else if methMatch r kind op arity t0 t1 t2 then .ok (some (va, r))
      else methProbe s ctl kind op arity t0 t1 t2 b n (i + 1)

/-- R292: Lookup: the record's address and contents. -/
def methLookup (s : State) (kind op arity t0 t1 t2 : Nat) : Except (EFail × Nat) (Option (Nat × Nat)) :=
  let ctl := s.core.trp.methctl
  if !methOk ctl then .ok none
  else methProbe s ctl kind op arity t0 t1 t2 (methBucket (methLogn ctl) kind op arity t0 t1 t2) 16 0

/-- MLOOK (R294). What lands where the table cannot be read is open. -/
def doMlook (e : QEntry) (a : Double) (s : State) : State :=
  let x := a.toNat
  match methLookup s (fld x 14 2) (fld x 0 12) (fld x 12 2) (fld x 16 16) (fld x 32 16) (fld x 48 16) with
  | .ok (some (va, _)) => s.finishTask e (BitVec.ofNat 64 va)
  | .ok none => s.finishTask e 0
  | .error (x, va) =>
    s.taskFault e (dispErr x 1 va) fun s => let (n, s) := s.takeFree; s.finishTask e (Config.freeDouble n)

/-! ### DISPATCH (R295 to R299) -/

/-- R284. -/
def tagMalformed (t : Nat) : Bool :=
  let f := fld t 11 5
  !fmtKnown f || decide (4 ≤ fld t 8 3) || decide (5 ≤ fld t 4 4) || ((f == 0x0C || f == 0x0D) && fld t 2 2 == 3)

/-- R295: a request: its fields, and whether they are good. -/
structure DispReq where
  op : Nat
  nin : Nat
  prio : Nat
  fut : Nat
  scr : Nat
  scrlen : Nat
  opds : List (Nat × Nat)
  ok : Bool

def parseReq (x : Nat) : DispReq :=
  let nin := fld x 16 8
  let nopd := fld x 24 8
  let opds := (List.range (min nopd 4)).map fun j => (fld x (256 + 128 * j) 64, fld x (320 + 128 * j) 64)
  let scr := fld x 128 64
  { op := fld x 0 12, nin, prio := fld x 32 8, fut := fld x 64 64, scr, scrlen := fld x 192 64, opds,
    ok := fld x 12 4 == 0 && decide (nin ≤ 3) && decide (nin ≤ nopd) && decide (nopd ≤ 4) && decide (fld x 32 8 ≤ 7) && fld x 40 24 == 0 &&
      scr % 2048 == 0 && fld x 768 256 == 0 &&
      opds.all fun o => o.1 % 2048 == 0 && o.2 % 2048 == 0 && decide (2048 ≤ o.2) && decide (o.2 ≤ 2 ^ 43 - 2048) }

/-- R298: a task to be created: its method record, its operands and the number of conversions it waits for. -/
structure DispTask where
  meth : Nat
  opds : List (Nat × Nat)

/-- Why a dispatch fails: a reason of R299, or a read that failed. -/
inductive DispFail where
  | reason (r : Nat)
  | read (e : EFail) (va : Nat)

/-- The tags of the key operands. On a device page no access size is tested. DESIGN CHOICE: log entry 117. -/
def keyTags (s : State) : List (Nat × Nat) → Except DispFail (List Nat)
  | [] => .ok []
  | (a, _) :: os =>
    match s.engXl false false (va56 a) with
    | .error e => .error (.read e (va56 a))
    | .ok x =>
      if badTag s.pkg x.pa then .error (.read (Cause.memue.no, 0) (va56 a))
      else
        let t := if tagged x.pa then (tagAt s.pkg x.pa).toNat else 0
        if tagMalformed t then .error (.reason 4)
        else (keyTags s os).map fun r => t :: r

def lookupRec (s : State) (kind op arity t0 t1 t2 : Nat) : Except DispFail (Option Nat) :=
  match methLookup s kind op arity t0 t1 t2 with
  | .ok r => .ok (r.map Prod.snd)
  | .error (e, va) => .error (.read e va)

/-- R297: the conversions, operand by operand: what is left of the scratch, the operands as converted, the tasks. A record with RDEN = 0 gives a length
the spec does not state. DESIGN CHOICE: log entry 108. -/
def convert (s : State) (pref stop : Nat) : Nat → Nat → List Nat → List (Nat × Nat) → Except DispFail (List (Nat × Nat) × List DispTask)
  | _, _, [], os => .ok (os, [])
  | _, _, _ :: _, [] => .ok ([], [])
  | i, next, t :: ts, o :: os =>
    if t / 4 = mPref pref i / 4 then
      (convert s pref stop (i + 1) next ts os).map fun (r, cs) => (o :: r, cs)
    else match lookupRec s 1 0 2 t (mPref pref i) 0 with
      | .error e => .error e
      | .ok none => .error (.reason 1)
      | .ok (some c) =>
        let len := 2048 * (if mRden c = 0 then Config.rdenZero (o.2 * mRnum c) else cdiv (o.2 * mRnum c) (mRden c * 2048))
        if 2 ^ 43 - 2048 < len ∨ stop < next + len then .error (.reason 3)
        else (convert s pref stop (i + 1) (next + len) ts os).map fun (r, cs) =>
          ((next, len) :: r, { meth := c, opds := [o, (next, len)] } :: cs)

/-- R297: the decision: the conversions and the routine's task. -/
def decideTasks (s : State) (q : DispReq) : Except DispFail (List DispTask × DispTask) :=
  if !methOk s.core.trp.methctl ∨ !q.ok then .error (.reason 5)
  else match keyTags s (q.opds.take q.nin) with
    | .error e => .error e
    | .ok ts =>
      match lookupRec s 0 q.op q.nin (nth ts 0) (nth ts 1) (nth ts 2) with
      | .error e => .error e
      | .ok (some m) => .ok ([], { meth := m, opds := q.opds })
      | .ok none =>
        match lookupRec s 2 q.op q.nin 0 0 0 with
        | .error e => .error e
        | .ok none => .error (.reason 0)
        | .ok (some p) =>
          if !bit (mFlags p) 0 then .error (.reason 1)
          else match lookupRec s 0 q.op q.nin (mPref p 0) (mPref p 1) (mPref p 2) with
            | .error e => .error e
            | .ok none => .error (.reason 2)
            | .ok (some t) =>
              (convert s p (q.scr + q.scrlen) 0 q.scr ts q.opds).map fun (os, cs) => (cs, { meth := t, opds := os })

/-- R298: the record of a task, as a card whose one argument record it is. -/
def taskWords (o : List (Nat × Nat)) : List Nat :=
  let a (j : Nat) : Nat := (o.getD j (0, 0)).1
  let n (j : Nat) : Nat := (o.getD j (0, 0)).2
  ((List.range 4).map fun j => [a j % 2 ^ 32, a j / 2 ^ 32]).flatten ++ (List.range 4).map fun j => n j / 2048 % 2 ^ 32

/-- R298: the header of a task less its slot. -/
def taskHdr (prio : Nat) : Nat := prio * 2 ^ 29 + 0x061E0000

/-- R298: a launch of one argument record, not dealt before its conversions are complete. -/
def makeTask (q : DispReq) (t : DispTask) (fut deps nconv : Nat) (s : State) : Nat × State :=
  let slot := freeSlot s.pkg
  let m := launchAt s.pkg s.mySlot
  let card : BitVec 512 := BitVec.ofNat 512
    (taskHdr q.prio + mHandle t.meth * 2 ^ 32 + mEntry t.meth * 2 ^ 64 + 1 * 2 ^ 192 + 12 * 2 ^ 224 + b2n (bit (mFlags t.meth) 1) * 2 ^ 232 +
      (fut % 2 ^ 64) * 2 ^ 384)
  let l := Launch.ofCard card (s.core.un.job) s.myPhjob ((m.map Launch.graph).getD 0) ((m.map Launch.ring).getD 0)
    ((m.map Launch.seq).getD 0) false
  let s := s.addLaunch slot { l with dispatched := true, parent := some s.mySlot, argWords := taskWords t.opds, trange := mTrange t.meth, table := va56 (mTable t.meth), nconv, deps, waits := false }
  let s := if (m.map Launch.cancelled).getD false then s.cancelLevel .launch slot else s
  (slot, s)

/-- Creates the conversion launches. -/
def makeConvs (q : DispReq) : List DispTask → State → List Nat × State
  | [], s => ([], s)
  | t :: ts, s =>
    let (slot, s) := makeTask q t 0 0 0 s
    let (r, s) := makeConvs q ts s
    (slot :: r, s)

/-- R297: the tasks of a decision. DESIGN CHOICE: log entry 43. -/
def createTasks (q : DispReq) (convs : List DispTask) (t : DispTask) (s : State) : State :=
  let (slots, s) := makeConvs q convs s
  let n := convs.length
  let (slot, s) := makeTask q t q.fut n n s
  slots.foldl (fun s c => s.modLaunch c fun l => { l with dependents := [slot] }) s

/-- DISPATCH_DECISION (R297, R299). -/
def doDispatch (e : QEntry) (off : Nat) (s : State) : State :=
  let fails (i : CauseInfo) : State := s.taskFault e i fun s => s.finishTask e (BitVec.allOnes 64)
  if !methOk s.core.trp.methctl then fails (dispCause Cause.nomethod.no 1 5 off)
  else if s.core.carved off then fails (dispCause Cause.xlate.no 1 4 (localBase + off))
  else if badData s.pkg (arrayBase s.no + off) 128 then fails (dispCause Cause.memue.no 1 0 (localBase + off))
  else
    let q := parseReq (s.own off 128)
    match decideTasks s q with
    | .error (.reason r) => fails (dispCause Cause.nomethod.no 1 r off)
    | .error (.read x va) => fails (dispErr x 1 va)
    | .ok (convs, t) => (createTasks q convs t s).finishTask e (BitVec.ofNat 64 convs.length)

def dispatchStep (id : Nat) (s : State) : State :=
  match s.core.lsu.outst.find? fun e => e.id == id with
  | some e => (match e.op with | .dispatch off => doDispatch e off s | _ => s)
  | none => s

def execDispatchDecision (id : Nat) (s : State) : Host.Outcome State Fault Refusal := event (dispatchStep id) s

/-! ### ACCESS_PERFORMED (R138) -/

/-- What an access of the queues does when it is performed. -/
def performTask (e : QEntry) (s : State) : State :=
  match e.op with
  | .mlook key => doMlook e key s
  | .launch va => doLaunch e va s
  | .spawn va b => doSpawn e va b s
  | .chunk => doChunk e s
  | .cntrd a l => doCntrd e a l s
  | .cancel a l => doCancel e a l s
  | .resolveOn va pa tl b =>
    (s.dropOutst e.id).modEng fun g => { g with armed := g.armed ++ [{ va, pa, tl, b, lslot := s.mySlot, tbun := e.tbun, lost := none, id := e.id, sq := e.sq, bank := e.bank, dead := e.dead }] }
  | .cellmk .. | .resolve .. | .freg .. | .specev .. | .dispatch _ => s
  | _ => performAccess e s

/-- ACCESS_PERFORMED: the access with issue number `id`, where the order of R140 lets it be performed. -/
def accessStep (id : Nat) (s : State) : State :=
  match s.core.lsu.outst.find? fun e => e.id == id with
  | none => s
  | some e =>
    if !mayPerform e s.core.lsu.outst then s
    else if (match e.op, e.op.place with | .resolveOn .., _ => false | _, some pa => peerLost s.pkg pa | _, none => false) then s
    else performTask e s

def execAccessPerformed (id : Nat) (s : State) : Host.Outcome State Fault Refusal := event (accessStep id) s

/-- PEER_UNREACHABLE (R369): 2^26 clk have passed and the peer cannot be reached: a store or atomic gives its count back and is reported; a load raises MEMUE. With no such
access: what the dispatchers have still to do at cells. -/
def peerGone (id : Nat) (s : State) : State :=
  match s.core.lsu.outst.find? fun e => e.id == id with
  | none => farStep s
  | some e =>
    match e.op.place with
    | none => s
    | some pa =>
      if !isPeer pa || !peerLost s.pkg pa || decide (s.clk < e.since + 2 ^ 26) then s
      else
        let va := match e.op with
          | .load va .. | .store va .. | .atomic _ va .. | .tagget va _ | .tagset va _ _ | .cellmk va .. | .resolve va .. | .freg va .. | .specev va .. => va56 va
          | _ => 0
        let i := { slotCause .memue e.slot 0 va with eng := if e.op.isLoad then 0 else 7 }
        let (s', ok) := if e.dead then (s.logMemue i, true) else s.reportAs e.op.isLoad i e.tbun 8 0
        if ok then
          ((s'.dropOutst id).modLsu fun l => { l with ackcnt := if e.far && e.op.isWrite then l.ackcnt - 1 else l.ackcnt }).modSca fun c =>
            { c with cellStall := if c.cellStall = some id then none else c.cellStall }
        else s

def execPeerUnreachable (id : Nat) (s : State) : Host.Outcome State Fault Refusal := event (peerGone id) s

/-- CELLMK (R322). Writes a record into a cell and sets it SUSPENDED. -/
def execCellmk (h : Head) (a b : BitVec 6) (s : State) : Host.Outcome State Fault Refusal :=
  issueSingle (.cellmk h a b) (semCellmk h a b) s

/-- CELLMK_FUT (R322). Makes a cell a PENDING future. -/
def execCellmkFut (h : Head) (a : BitVec 6) (s : State) : Host.Outcome State Fault Refusal :=
  issueSingle (.cellmkFut h a) (semCellmkFut h a) s

/-- RESOLVE (R324). Resolves a cell with a 64-byte value. -/
def execResolve (h : Head) (a b : BitVec 6) (s : State) : Host.Outcome State Fault Refusal :=
  issueSingle (.resolve h a b) (semResolve h a b) s

/-- RESOLVE_ON (R324). Arms a resolution of a cell that fires when a timeline reaches a value. -/
def execResolveOn (h : Head) (a b : BitVec 6) (tl : BitVec 3) (s : State) : Host.Outcome State Fault Refusal :=
  issueSingle (.resolveOn h a b tl) (semResolveOn h a b tl) s

/-- FREG (R325). Registers a continuation on a cell, or returns its value. -/
def execFreg (h : Head) (dst : BitVec 5) (wbs : Bool) (a b : BitVec 6) (s : State) : Host.Outcome State Fault Refusal :=
  issueSingle (.freg h dst wbs a b) (semFreg h dst wbs a b) s

/-- SPAWN (R311). Queues a record in the issuer's launch. -/
def execSpawn (h : Head) (a b : BitVec 6) (s : State) : Host.Outcome State Fault Refusal :=
  issueSingle (.spawn h a b) (semSpawn h a b) s

/-- LAUNCH (R311). Reads a job card and creates a launch in the issuer's graph. -/
def execLaunch (h : Head) (dst : BitVec 5) (wbs : Bool) (a : BitVec 6) (s : State) : Host.Outcome State Fault Refusal :=
  issueSingle (.launch h dst wbs a) (semLaunch h dst wbs a) s

/-- CHUNK (R312). Claims a range of argument indices. -/
def execChunk (h : Head) (dst : BitVec 5) (wbs : Bool) (s : State) : Host.Outcome State Fault Refusal :=
  issueSingle (.chunk h dst wbs) (semChunk h dst wbs) s

/-- CNTRD (R317). Reads a level's completion counter and state. -/
def execCntrd (h : Head) (dst : BitVec 5) (wbs : Bool) (a : BitVec 6) (lvl : BitVec 3) (s : State) : Host.Outcome State Fault Refusal :=
  issueSingle (.cntrd h dst wbs a lvl) (semCntrd h dst wbs a lvl) s

/-- CANCEL (R318). Cancels a level of the work hierarchy. -/
def execCancel (h : Head) (a : BitVec 6) (lvl : BitVec 3) (s : State) : Host.Outcome State Fault Refusal :=
  issueSingle (.cancel h a lvl) (semCancel h a lvl) s

/-- SPECEV (R326). Starts a speculative evaluation of a SUSPENDED cell. -/
def execSpecev (h : Head) (a b : BitVec 6) (s : State) : Host.Outcome State Fault Refusal :=
  issueSingle (.specev h a b) (semSpecev h a b) s

/-- MLOOK (R294). Looks up a method table record by key. -/
def execMlook (h : Head) (dst : BitVec 5) (wbs : Bool) (a : BitVec 6) (s : State) : Host.Outcome State Fault Refusal :=
  issueSingle (.mlook h dst wbs a) (semMlook h dst wbs a) s

/-- DISPATCH (R296). Hands a dispatch request to the dispatcher after a release. -/
def execDispatch (h : Head) (dst : BitVec 5) (wbs : Bool) (a : BitVec 6) (s : State) : Host.Outcome State Fault Refusal :=
  issueSingle (.dispatch h dst wbs a) (semDispatch h dst wbs a) s

end Sys2Proof.Machine
end

