-- ==== Sys2Proof/Machine/Leave.lean ====
section
/-! DEFINITION. How a unit leaves its core and comes back: SUSPEND, FINISH, cell waits and kills (R304 to R306, R331), contexts saved
and restored (R338 to R350), pre-emption (R314, R347), the landing of results with the assay (R71, R217, R218), and DEPTH. -/

namespace Sys2Proof.Machine

/-! ### SUSPEND and FINISH (R304, R305) -/

def semSuspend (h : Head) (a : BitVec 6) (off : BitVec 21) : SlotSem :=
  { op := fun p s => guarded h p s fun s =>
      .ok (s.modUn fun u => { u with st := .leaving (.suspend (p.core.src .s0 false a) (relTarget p.core.sca.pc off)) })
    wait := noWait }

def semFinish (h : Head) (a : BitVec 6) : SlotSem :=
  { op := fun p s => guarded h p s fun s => .ok (s.modUn fun u => { u with st := .leaving (.finish (p.core.src .s0 false a)) })
    wait := noWait }

/-! ### What a suspension waits for (R150, R262, R282, R305, R324) -/

/-- R305: every result has landed, and every access issued has been performed and acknowledged (R150). -/
def Core.drained (c : Core) : Bool :=
  c.sca.inflight.isEmpty && c.lsu.loadQ.isEmpty && c.lsu.storeQ.isEmpty && c.lsu.outst.isEmpty && c.lsu.ackcnt == 0 && c.trp.assay.isNone &&
    c.trp.reentry.isNone

/-- Whether a command no longer holds up its unit's departure. Inside a handler no report can be taken (R337). -/
def Core.cmdDone (c : Core) (x : Cmd) : Bool := x.st == .ended || (decide (0 < c.trp.level) && (x.st == .reported || x.st == .failed))

/-- R260, R262: every subscription that is active, or is about to be, is released. -/
def State.releaseSubs (s : State) : State :=
  (s.core.eng.cmds.filter fun c => c.st == .run || c.st == .ready).foldl (fun s c => match c.op with | .hsub _ _ sid _ => s.releaseSub sid | _ => s) s

/-- R234: all timelines advance. -/
def State.advanceAll (s : State) : State := (List.range 8).foldl (fun s tl => advanceTl tl s) s

/-- R324: armed resolutions whose timeline will not reach them are dropped. -/
def State.dropArmed (s : State) : State :=
  s.modEng fun e => { e with armed := e.armed.filter fun a => decide (a.b.toNat ≤ fget 0 e.tl a.tl) }

/-- The waits of a suspension point or a kill: `none` while one of them lasts. -/
def State.settled (s : State) : Option State :=
  if !s.core.drained then none
  else
    let s := s.releaseSubs
    if s.core.eng.cmds.all s.core.cmdDone then
      let s := s.advanceAll.dropArmed
      if s.core.eng.armed.isEmpty then some (s.modEng fun e => { e with streams := [] }) else none
    else none

/-! ### The record (R305) -/

/-- R305: the live words of a header's LIVE and JOIN. -/
def Core.liveWords (c : Core) (live join : Nat) : List Nat :=
  (List.range 12).map fun k =>
    if live ≤ k then 0
    else
      let g := (c.greg (1 + k / 2 * 2)).toNat
      if bit join (k / 2) then fld g (32 * (k % 2)) 32 else fld (c.greg (1 + k)).toNat 0 32

/-- R305: the record written back: the header, the new ENTRY, the live words. -/
def Core.record (c : Core) (hdr target : Nat) : Rec :=
  let entry := (tr 32 ((target : Int) - c.un.code)).toNat
  BitVec.ofNat 512 (hdr + recHandle c.un.recd * 2 ^ 32 + entry * 2 ^ 64 + recPhjob c.un.recd * 2 ^ 96 +
    wordsNat (c.liveWords (fld hdr 23 4) (fld hdr 17 6)) * 2 ^ 128)

/-- R304: the header SUSPEND gives. -/
def suspendHdr (hdr : Nat) (a : Double) : Nat :=
  let d := a.toNat
  let prio := if bit d 14 then fld hdr 29 3 else fld d 11 3
  prio * 2 ^ 29 + fld hdr 27 2 * 2 ^ 27 + min (fld d 0 4) 12 * 2 ^ 23 + fld d 4 6 * 2 ^ 17 + b2n (bit d 10) * 2 ^ 16 + fld hdr 0 16

/-- The queued form of the running unit with a new record. -/
def Core.requeue (c : Core) (r : Rec) : QRec :=
  { QRec.fresh r with evalOf := c.un.evalOf, pool := c.un.pool, argIdx := c.un.argIdx, self := c.un.self }

/-! ### The departure -/

/-- R15, R219: a core with a MARKED bit goes to a spare at a suspension point; where its die has none, vector 19 names it. DESIGN CHOICE: log entry 52. -/
def State.retireCore (s : State) : State :=
  if fld s.core.vec.asstat.toNat 40 8 = 0 then s
  else
    let die := s.no / 64
    let used := fget 0 s.pkg.mgmt.spares die
    if used < 8 then
      let s := s.modMgmt fun m => { m with spares := fset 0 m.spares die (used + 1) }
      let s := s.modVec fun v => { v with asstat := 0, cbstall := 0 }
      let s := s.modTab fun t => { t with swstall := 0, swcount := 0 }
      (s.modLsu fun l => { l with cache := [] }).modUn fun u => { u with perf := [] }
    else s.modMgmt fun m => { m with msix := m.msix ++ [19 + 64 * s.no] }

/-- R148: every buffered host write is applied. -/
def State.drainIngress (s : State) : State := applyIngress s.core.lsu.ingress.length s


/-- Removes an entry from its cell's chain. -/
def State.unpark (s : State) (ref : Nat) : State :=
  match poolAt s.pkg ref with
  | some e => (match e.cell with | some pa => s.unlink pa ref | none => s.modPkg fun p => setPool p ref none)
  | none => s

/-- A handler has ended the unit: the cell wait it interrupted, or that came meanwhile, is over. -/
def State.dropWait (s : State) : State := match s.core.trp.resumeLeave with | some (.cellWait _ ref) => s.unpark ref | _ => s

/-- The core is free for its next unit (R215, R233, R302). -/
def State.freeCore (s : State) : State := let s := s.dropWait.drainIngress.retireCore; { s with core := s.core.cleared }

/-- R316: the unit is counted out, and an evaluation that is not resolved fails (R327). DEDUCED: log entry 42. -/
def State.countOut (s : State) : State :=
  let s := s.unitDone s.mySlot s.core.un.argIdx
  match s.core.un.evalOf with
  | some pa => s.evalFail pa s.core.un.pool
  | none => s

/-- R305 step 4. -/
def endSuspend (a : Double) (target : Nat) (s : State) : State :=
  if s.cancelled s.mySlot then s.countOut.freeCore
  else (s.queueUnit s.myDie (s.core.requeue (s.core.record (suspendHdr (recWord s.core.un.recd 0) a) target))).freeCore

/-- R305 step 5. -/
def endFinish (a : Double) (s : State) : State :=
  let v := fld a.toNat 0 32
  let s := if v ≠ 0 ∧ !s.cancelled s.mySlot then s.setStatus s.mySlot v else s
  s.countOut.freeCore

/-- R321: the record of a cell wait is complete: a value that came meanwhile is delivered. DEDUCED: log entry 41. -/
def endCellWait (next ref : Nat) (s : State) : State :=
  if s.cancelled s.mySlot then (s.unpark ref).countOut.freeCore
  else
    let r := s.core.record (recWord s.core.un.recd 0) next
    match poolAt s.pkg ref with
    | some e =>
      let s := match e.got, e.wait with
        | some v, some w =>
          (s.modPkg fun p => setPool p ref none).queueUnit e.die { s.core.requeue r with deliver := some { dst := w.dst, wbs := w.wbs, v, line := w.line } }
        | _, _ => s.modPkg fun p => setPool p ref (some { e with recd := r, ready := true })
      s.freeCore
    | none => s.freeCore

/-- R331, R404: the kill report. DEDUCED: log entry 53. -/
def killReport (c : Core) (no gts : Nat) (info : CauseInfo) (tepc tbun : Nat) : List (BitVec 256) :=
  let d1 (type level : Nat) : Nat := logD1 (recPhjob c.un.recd) (recLslot c.un.recd) type level no
  [logDoubles gts (d1 1 0) (causeWord info).toNat info.tstat, logDoubles gts (d1 2 0) tepc tbun] ++
    ((List.range c.trp.level).map fun l =>
      let b := c.trp.bank (l + 1)
      [logDoubles gts (d1 3 (l + 1)) b.tcause.toNat b.tstat.toNat, logDoubles gts (d1 4 (l + 1)) b.tepc.toNat b.tbun.toNat]).flatten

/-- R331: the end of a kill. -/
def endKill (info : CauseInfo) (tepc tbun ref : Nat) (s : State) : State :=
  let s := if ref = 0 then s else s.unpark ref
  let s := s.setStatus s.mySlot (0x80000000 + info.cause)
  let s := s.logGroup (killReport s.core s.no s.pkg.gts info tepc tbun)
  s.countOut.freeCore

/-- R306: a core that is leaving has its turn: reports are taken where the unit stands, then the waits are made, then it goes. After a TRET what
the trap level banked is re-injected first (R339): the unit has no bundle to issue. A cell load of its own bundle comes before its reports (R321). -/
def leaveTurn (how : Leave) (s : State) : State :=
  let s := if s.core.sca.hold ≤ s.clk ∧ s.core.trp.assay.isNone then s.reenter true else s
  let wait (s : State) (done : State → State) : State :=
    if s.core.sca.inflight.isEmpty && s.core.trp.assay.isNone && s.core.trp.reentry.isNone && s.core.sca.cellStall.isNone then
      match reportDue s with
      | some r => takeReport s r
      | none => match s.settled with | some s => done s | none => s.releaseSubs
    else s
  match s.core.trp.raised with
  | some r => (s.raiseAgain r).getD s
  | none =>
  match how with
  | .suspend a target => wait s (endSuspend a target)
  | .finish a => wait s (endFinish a)
  | .cellWait next ref => wait s (endCellWait next ref)
  | .killed info tepc tbun ref => (match s.settled with | some s => endKill info tepc tbun ref s | none => s.releaseSubs)
  | .preempt | .park _ _ => s

/-! ### Landing (R71, R212, R217, R218) -/

/-- The group and the index of a step that is in flight. -/
def stepWhere : Effect → Option (Nat × Nat)
  | .stepF g _ _ _ _ _ idx false => some (g, idx)
  | .stepI g _ _ _ _ _ idx false => some (g, idx)
  | _ => none

/-- R217, R219: whether the step's next assay mismatches; if so it is counted. -/
def State.mismatches (s : State) (g : Nat) : Option State :=
  if s.pkg.env.mismatch.contains (s.no, g) then
    some ((s.modPkg fun p => { p with env := { p.env with mismatch := removeFirst (s.no, g) p.env.mismatch } }).modVec fun v =>
      { v with asstat := countMismatch v.asstat g })
  else none

/-- R217, R354: ASSAY, for a step whose replays are spent. -/
def assayCause (g idx : Nat) : CauseInfo :=
  { cause := Cause.assay.no, slot := 2, gmask := 2 ^ g, reason := 0, tl := 0, eng := 6, tlnum := 0, tstat := idx }

/-- R218: the replays the action table allows. -/
def State.assayReplays (s : State) : Nat := let e := s.actFor Cause.assay.no; if e.act = .replay then e.rcount else 0

/-- R218: the sequencer stops: what is in flight is kept with its remaining clk, and XNEXT is held. `n`: the replays made, with the one that begins; `asks`:
whether one begins is still to be seen. DEDUCED: log entry 24. -/
def stopForAssay (x : Pending) (rest : List Pending) (n : Nat) (asks : Bool) (s : State) : State :=
  let rem := s.core.tab.xnext - s.clk
  (s.modTrp fun t => { t with assay := some (x, n), assayAsks := asks, assayRecs := rest.map (fun y => { y with due := y.due - s.clk }), assayRem := rem,
                              assayHold := s.core.sca.hold - s.clk, assayClk := s.clk,
                              assayDue := s.clk + 199 }).modSca fun c => { c with inflight := [] }

/-- R218 step 5: the records are re-injected and the stopped bundle may issue. A re-entry that was still to come is as much later. -/
def resumeAfterAssay (s : State) : State :=
  let t := s.clk
  let late := s.clk - s.core.trp.assayClk
  let recs := s.core.trp.assayRecs
  let rem := s.core.trp.assayRem
  let wait := s.core.trp.assayHold
  let s := s.modTrp fun t => { t with assay := none, assayRecs := [], assayRem := 0, assayHold := 0, assayClk := 0, assayDue := 0, assayAsks := false,
                                      reentry := t.reentry.map fun r => { r with start := r.start + late } }
  let s := s.modTab fun x => { x with xnext := t + rem }
  s.modSca fun c => { c with hold := t + wait, inflight := (recs.map fun x => { x with due := t + x.due }).foldl (fun l x => insPending x l) c.inflight }

/-- RESULT_LAND (R71): the first result that is due lands. -/
def landNext (s : State) : State :=
  match s.core.sca.inflight with
  | [] => s
  | x :: rest =>
    if s.clk < x.due then s
    else
      let out := s.modSca fun c => { c with inflight := rest }
      match stepWhere x.eff with
      | none => applyEff x.iss x.eff out
      | some (g, idx) =>
        match out.mismatches g with
        | none => applyEff x.iss x.eff out
        | some s1 =>
          if (s1.actLost Cause.assay.no).isSome then stopForAssay x rest 0 true s1
          else if 0 < s1.assayReplays then (stopForAssay x rest 1 false s1).perf 14 1
          else s1.reportHeld (assayCause g idx) x.tbun

def execResultLand (s : State) : Host.Outcome State Fault Refusal := event landNext s

/-- R218: what follows a mismatch after `n` replays. Where none is left the update is never applied. -/
def assayNext (x : Pending) (n g idx : Nat) (s : State) : State :=
  if n < s.assayReplays then (s.modTrp fun t => { t with assay := some (x, n + 1), assayAsks := false, assayDue := s.clk + 199 }).perf 14 1
  else resumeAfterAssay (s.reportHeld (assayCause g idx) x.tbun)

/-- ASSAY_REPLAY (R218): the step is recomputed and assayed again; `n` counts the replays with this one. The action
entry is waited for where it cannot be reached (R330). DEDUCED: log entry 137. -/
def assayAgain (s : State) : State :=
  match s.core.trp.assay with
  | none => s
  | some (x, n) =>
    match stepWhere x.eff with
    | none => resumeAfterAssay s
    | some (g, idx) =>
      let ask (s : State) : State := s.awaitAct Cause.assay.no (assayNext x n g idx)
      if s.core.trp.assayAsks then ask s
      else match s.mismatches g with
        | none => resumeAfterAssay (applyEff x.iss x.eff s)
        | some s1 => ask (s1.modTrp fun t => { t with assayAsks := true })

def execAssayReplay (s : State) : Host.Outcome State Fault Refusal := event assayAgain s

/-! ### Pre-emption (R314, R347) -/

/-- R314: a record waits at a priority above the running unit's, on its die or on its core's run list. DESIGN CHOICE: log entry 130 (a
speculative evaluation). -/
def State.higherWaits (s : State) : Bool :=
  ((List.range 8).any fun k => decide (recPrio s.core.un.recd < k) && !(dieQueue s.pkg s.myDie k).isEmpty) ||
    s.core.un.runList.any fun q => decide (recPrio s.core.un.recd < recPrio q.recd)

/-- PREEMPTION_DUE. -/
def preemptionDue (s : State) : State :=
  if s.core.un.st = .running ∧ s.core.un.start + 2 ^ 22 ≤ s.clk ∧ s.higherWaits then s.modTrp fun t => { t with preemptDue := true } else s

def execPreemptionDue (s : State) : Host.Outcome State Fault Refusal := event preemptionDue s

/-- CTXPOOL (R348): the size of an area, and the first area. -/
def poolSize (c : Double) : Nat := fld c.toNat 56 8 * 65536
def poolBase (c : Double) : Nat := fld c.toNat 16 40 * 65536

/-- R106, R168, R214, R262, R282: a boundary at which the unit may be pre-empted: no subscription is active or on its way. -/
def State.mayPreempt (s : State) : Bool :=
  let c := s.core
  let step (e : Effect) : Bool := match e with | .stepF .. | .stepI .. | .azero .. => true | _ => false
  c.un.st == .running && c.sca.br1.isNone && c.sca.br2.isNone && c.tab.wait.isNone && c.vec.opened == 0 && c.trp.assay.isNone &&
    c.sca.cellStall.isNone && c.trp.resumeLeave.isNone && !c.landings.any (fun x => step x.eff) &&
    c.eng.cmds.all (fun x => !(match x.op with | .coll .. | .hsub .. => true | _ => false) || x.st == .ended) && s.freeArea.isSome

/-- R347: the accumulators whose OPEN bit has been 1 for more than MAXDEPTH + 4,096 clk and that have raised nothing yet. -/
def State.tooDeep (s : State) : List (Nat × Nat) :=
  s.core.vec.openSince.filterMap fun e =>
    match e.2 with
    | some t => if s.core.un.maxdepth + 4096 < s.clk - t ∧ !s.core.vec.depthRaised.getLsbD e.1 then some (e.1, t) else none
    | none => none

/-- DEPTH (R347), once for each opening of an accumulator. -/
def depthCheck (s : State) : State :=
  match s.tooDeep with
  | (k, t) :: _ =>
    let i : CauseInfo := { cause := Cause.depth.no, slot := 15, gmask := 0, reason := 0, tl := 0, eng := 7, tlnum := 0, tstat := s.clk - t }
    let (s', ok) := s.report i s.core.sca.pc 0 0
    if ok then s'.modVec fun v => { v with depthRaised := v.depthRaised ||| (1#32 <<< k) } else s
  | [] => s

def execDepth (s : State) : Host.Outcome State Fault Refusal := event depthCheck s

/-! ### Landing records in an area (R340) -/

/-- The signed significand and exponent of an exact sum, truncated toward zero to 64 bits. What stands for an infinity or a NaN is
the model's. -/
def sumDoubles (x : XR) : Nat × Nat :=
  match x with
  | .fin neg r =>
    let e := (r.den.log2 : Int)
    let drop := (Nat.log2 r.num.natAbs + 1) - 63
    let m : Int := (r.num.natAbs / 2 ^ drop : Nat)
    ((tr 64 (if neg then -m else m)).toNat, (tr 64 ((drop : Int) - e)).toNat)
  | .inf neg => (if neg then 2 ^ 64 - 1 else 1, 2 ^ 63 - 1)
  | .nan => (0, 2 ^ 63 - 1)

/-- The doubles of a list of step sums, 1,024 elements. -/
def sumsNat (rows cols : Nat) (f : Nat → XR) : List Byte :=
  ((List.range 1024).map fun i =>
    let (m, e) := if i / 32 < rows ∧ i % 32 < cols then sumDoubles (f (i / 32 * cols + i % 32)) else (0, 0)
    leBytes 8 m ++ leBytes 8 e).flatten

/-- R340: KIND, GROUP, TARGET and payload of a result. The rule numbers TARGET of the KINDs 1 and 5 in full; how the others tell apart what shares a KIND
is the model's. DESIGN CHOICE: log entry 121. -/
def recordOf (e : Effect) : Nat × Nat × Nat × List Byte :=
  match e with
  | .reg ch wbs dst v => (1, 0, dst.toNat + b2n wbs * 32 + (match ch with | .s0 => 0 | .s1 => 64), leBytes 8 v.toNat)
  | .tile g t v => (2, g, t, leBytes 2048 v.toNat)
  | .tileSeg g t off _ v _ => (2, g, t + off * 32, leBytes 2048 (v * 2 ^ (8 * off)))
  | .tileMask g t m v => (2, g, t, leBytes 2048 (v &&& m).toNat)
  | .desc g t m v => (3, g, t, leBytes 4 v.toNat ++ leBytes 4 m.toNat)
  | .side g t v => (4, g, t, leBytes 512 v.toNat)
  | .stepF g a z r c sums _ _ => (5, g, a + b2n z * 4, sumsNat r c fun i => sums.getD i (.fin false 0))
  | .stepI g a z r c sums _ _ => (5, g, a + b2n z * 4, sumsNat r c fun i => xint (sums.getD i 0))
  | .azero g a => (6, g, a, [])
  | .array g off bs => (7, g, off / 32, bs)
  | .tag _ off v => (8, 0, off / 2048, leBytes 8 v.toNat)
  | .full off n => (8, 0, off / 128, leBytes 8 (n * 2 ^ 32 + 1))
  | .ptr g q v => (9, g, q, leBytes 8 v.toNat)
  | .stride g q v => (9, g, q + 8, leBytes 8 v.toNat)
  | .kreg n v => (10, 0, n, leBytes 32 v.toNat)
  | .kword n j v => (10, 0, n + 8 * (j + 1), leBytes 32 (v.toNat * 2 ^ (32 * j)))
  | .psnap g v => (11, g, 0, leBytes 8 v.toNat)
  | .asstat g res => (11, g, 1, leBytes 8 (1 + 2 * b2n (res.getD false)))
  | .lcSet n v => (12, 0, n, leBytes 8 v.toNat)
  | .base r v => (12, 0, 32 + r.toNat, leBytes 8 v.toNat)
  | .spr n v => (12, 0, 64 + n, leBytes 8 v.toNat)
  | .held sl b v => (12, 0, 96 + heldIdx sl b, leBytes 8 v.toNat)

/-- R340: a landing record; `lim` is the issue count of the pending branch's bundle, for the kill mark of R106. -/
def recordBytes (lim : Nat) (x : Pending) : List Byte :=
  let (kind, g, target, pay) := recordOf x.eff
  let n := pay.length / 8
  leBytes 8 (kind * 2 ^ 56 + b2n (x.sq && decide (x.iss < lim)) * 2 ^ 55 + g * 2 ^ 52 + (x.due % 2 ^ 16) * 2 ^ 32 +
    (if 256 ≤ n then 0 else n) * 2 ^ 24 + target % 2 ^ 24) ++ pay

/-- The issue count a pending redirect kills below. -/
def killLim (b1 b2 : Option (Nat × Nat)) : Nat := match b1, b2 with | some (_, l), _ => l | none, some (_, l) => l | none, none => 0

/-- R348: the landing records of banks 0 to 2: those captured at level 0, which stand beside the registers of level 1 (R333), at level 1, and at the
park or the pre-emption, which comes at the highest level. -/
def Core.recordArea (c : Core) : List Byte :=
  ((c.trp.bank1.recs.map (recordBytes (killLim c.trp.bank1.br1 c.trp.bank1.br2))) ++ (c.trp.bank2.recs.map (recordBytes (killLim c.trp.bank2.br1 c.trp.bank2.br2))) ++
    (c.trp.bank0recs.map (recordBytes (killLim c.sca.br1 c.sca.br2)))).flatten

/-! ### The context area (R348) -/

/-- The group sections: tiles, sides, accumulators, descriptors; then for each pointer its word and its stride's. DESIGN CHOICE: log entry 122. -/
def Core.groupArea (c : Core) (g : Nat) : List (Nat × List Byte) :=
  let base := 0x31_0000 + 0x2_0000 * g
  [(base, ((List.range 32).map fun t => leBytes 2048 (c.tileOf g t).toNat).flatten),
   (base + 0x1_0000, ((List.range 32).map fun t => leBytes 512 (c.sideOf g t).toNat).flatten),
   (base + 0x1_4000, ((List.range 4).map fun a => leBytes 4096 (c.accOf g a).toNat).flatten),
   (base + 0x1_8000, ((List.range 32).map fun t => leBytes 4 (c.descOf g t)).flatten),
   (base + 0x1_8080, ((List.range 8).map fun q => leBytes 4 (c.ptrOf g q) ++ leBytes 4 (fget 0 c.vec.strides (8 * g + q)).toNat).flatten)]

/-- One side of the tables: groups 0 to 7, each with entries 0 to 1,023; and its class vector. -/
def Core.sideArea (c : Core) (side : Bool) : List Byte :=
  ((List.range 8).map fun g => ((List.range 1024).map fun i => leBytes 8 (fget 0 c.tab.ents (entKey side g i)).toNat).flatten).flatten
def Core.classArea (c : Core) (side : Bool) : List Byte :=
  (List.range 512).map fun i => BitVec.ofNat 8 ((fget 0 c.tab.cls (clsKey side (2 * i))).toNat + (fget 0 c.tab.cls (clsKey side (2 * i + 1))).toNat * 16)

/-- One double of the core-state section: how it is saved and how it comes back. -/
structure CtxWord where
  get : Core → Nat
  put : Nat → Core → Core

def scaWord (get : Sca → Nat) (put : Nat → Sca → Sca) : CtxWord :=
  { get := fun c => get c.sca, put := fun v c => { c with sca := put v c.sca } }
def vecWord (get : Vec → Nat) (put : Nat → Vec → Vec) : CtxWord :=
  { get := fun c => get c.vec, put := fun v c => { c with vec := put v c.vec } }
def engWord (get : Eng → Nat) (put : Nat → Eng → Eng) : CtxWord :=
  { get := fun c => get c.eng, put := fun v c => { c with eng := put v c.eng } }
def trpWord (get : Trp → Nat) (put : Nat → Trp → Trp) : CtxWord :=
  { get := fun c => get c.trp, put := fun v c => { c with trp := put v c.trp } }

/-- Two doubles of a pending redirect: its target with bit 0 set, zero where there is none; the issue count it kills below. -/
def redirWord (k : Nat) (r : Option (Nat × Nat)) : Nat :=
  match r with | some (t, l) => if k = 0 then t + 1 else l | none => 0
def redirPut (k v : Nat) (r : Option (Nat × Nat)) : Option (Nat × Nat) :=
  if k = 0 then (if bit v 0 then some (va56 v / 32 * 32, 0) else none) else r.map fun x => (x.1, v)

/-- The doubles of a list of at most `n` elements: its length, then `k` for each element. -/
def listWords {α : Type} (n k : Nat) (dflt : α) (enc : α → Nat → Nat) (dec : Nat → Nat → α → α) (get : Core → List α)
    (set : List α → Core → Core) : List CtxWord :=
  { get := fun c => (get c).length, put := fun v c => set (List.replicate (min v n) dflt) c } ::
    (List.range (n * k)).map fun i =>
      { get := fun c => match (get c)[i / k]? with | some x => enc x (i % k) | none => 0
        put := fun v c => let l := get c; match l[i / k]? with | some x => set (l.set (i / k) (dec (i % k) v x)) c | none => c }

/-- The doubles of a bank of trap registers, a pending redirect and held operands (R333, R334). Reserved bits come back as zero. -/
def bankWords (l : Nat) : List CtxWord :=
  let w (get : TrapBank → Nat) (put : Nat → TrapBank → TrapBank) : CtxWord :=
    trpWord (fun t => get (t.bank l)) fun v t => t.setBank l (put v (t.bank l))
  [w (fun b => b.tcause.toNat) (fun v b => { b with tcause := BitVec.ofNat 64 v }), w (fun b => b.tepc.toNat) (fun v b => { b with tepc := BitVec.ofNat 64 (v % 2 ^ 56 / 32 * 32) }),
   w (fun b => b.tstat.toNat) (fun v b => { b with tstat := BitVec.ofNat 64 v }), w (fun b => b.tsave.toNat) (fun v b => { b with tsave := BitVec.ofNat 64 (v % 2 ^ 56) }),
   w (fun b => b.tbun.toNat) (fun v b => { b with tbun := BitVec.ofNat 64 (v % 2 ^ 56 / 32 * 32) }), w TrapBank.xrem (fun v b => { b with xrem := v })] ++
  ((List.range 4).map fun k => w (fun b => (fget 0 b.held k).toNat) fun v b => { b with held := fset 0 b.held k (BitVec.ofNat 64 v) }) ++
  ((List.range 2).map fun k => w (fun b => redirWord k b.br1) fun v b => { b with br1 := redirPut k v b.br1 }) ++
  ((List.range 2).map fun k => w (fun b => redirWord k b.br2) fun v b => { b with br2 := redirPut k v b.br2 })

/-- The five doubles of a report that is held (R337). -/
def reportWord (r : Report) (k : Nat) : Nat :=
  match k with
  | 0 => (causeWord r.info).toNat | 1 => r.info.tstat | 2 => r.tbun | 3 => r.gts
  | _ => r.ord % 2 ^ 8 + b2n r.deferred * 2 ^ 8 + r.cmd * 2 ^ 9
def reportPut (k v : Nat) (r : Report) : Report :=
  match k with
  | 0 => { r with info := { r.info with cause := fld v 0 6, slot := fld v 6 4, gmask := fld v 10 8, reason := fld v 18 8, tl := fld v 26 3,
                                        eng := fld v 29 3, tlnum := fld v 32 32 } }
  | 1 => { r with info := { r.info with tstat := v } }
  | 2 => { r with tbun := va56 v / 32 * 32 }
  | 3 => { r with gts := v }
  | _ => { r with ord := fld v 0 8, deferred := bit v 8, cmd := v / 2 ^ 9 }

/-- R348: the doubles of the core-state section, in the model's order: the spec names what it holds and gives no layout. DESIGN CHOICE: log entry 49. -/
def ctxWords : List CtxWord :=
  [{ get := fun c => c.lsu.size, put := fun v c => { c with lsu := { c.lsu with size := min v 4 } } }] ++
  ((List.range 31).map fun k => scaWord (fun c => (fget 0 c.g (k + 1)).toNat) fun v c => { c with g := fset 0 c.g (k + 1) (BitVec.ofNat 64 v) }) ++
  [scaWord Sca.pc (fun v c => { c with pc := va56 v / 32 * 32 }), scaWord (fun c => c.spst.toNat) fun v c => { c with spst := BitVec.ofNat 40 v }] ++
  ((List.range 4).map fun k => scaWord (fun c => (fget 0 c.held k).toNat) fun v c => { c with held := fset 0 c.held k (BitVec.ofNat 64 v) }) ++
  ((List.range 3).map fun k => scaWord (fun c => (fget 0 c.lc k).toNat) fun v c => { c with lc := fset 0 c.lc k (BitVec.ofNat 64 v) }) ++
  ((List.range 2).map fun k => scaWord (fun c => redirWord k c.br1) fun v c => { c with br1 := redirPut k v c.br1 }) ++
  ((List.range 2).map fun k => scaWord (fun c => redirWord k c.br2) fun v c => { c with br2 := redirPut k v c.br2 }) ++
  [vecWord (fun x => x.vmode.toNat) (fun v x => { x with vmode := BitVec.ofNat 1 v }), vecWord (fun x => x.pbase.toNat) (fun v x => { x with pbase := BitVec.ofNat 22 v }),
   vecWord (fun x => x.psnap.toNat) (fun v x => { x with psnap := BitVec.ofNat 64 v }),
   vecWord (fun x => x.intm.toNat * 2 ^ 32 + x.opened.toNat) (fun v x => { x with intm := BitVec.ofNat 32 (fld v 32 32), opened := BitVec.ofNat 32 (fld v 0 32) }),
   vecWord (fun x => x.cbMark.toNat + x.cbEver.toNat * 4) (fun v x => { x with cbMark := BitVec.ofNat 2 (fld v 0 2), cbEver := BitVec.ofNat 2 (fld v 2 2) })] ++
  ((List.range 8).map fun k => vecWord (fun x => (fget 1 x.rngs k).toNat) fun v x => { x with rngs := fset 1 x.rngs k (BitVec.ofNat 32 v) }) ++
  ((List.range 32).map fun k => vecWord (fun x => fld (fget 0 x.kregs (k / 4)).toNat (64 * (k % 4)) 64)
    fun v x => { x with kregs := fset 0 x.kregs (k / 4) (putFld (fget 0 x.kregs (k / 4)) (64 * (k % 4)) 64 v) }) ++
  ((List.range 32).map fun k => vecWord (fun x => fld (fget 0 x.cb (k / 4)).toNat (64 * (k % 4)) 64)
    fun v x => { x with cb := fset 0 x.cb (k / 4) (putFld (fget 0 x.cb (k / 4)) (64 * (k % 4)) 64 v) }) ++
  [trpWord Trp.level (fun v t => { t with level := min v 2 }), trpWord Trp.parkRem (fun v t => { t with parkRem := v })] ++ bankWords 1 ++ bankWords 2 ++
  ((List.range 8).map fun k =>
    ({ get := fun c => fld c.un.recd.toNat (64 * k) 64, put := fun v c => { c with un := { c.un with recd := putFld c.un.recd (64 * k) 64 v } } } : CtxWord)) ++
  [{ get := fun c => b2n c.tab.bad + b2n c.tab.ever * 2, put := fun v c => { c with tab := { c.tab with bad := bit v 0, ever := bit v 1 } } }] ++
  ((List.range 8).map fun k => engWord (fun e => fget 0 e.tl k) fun v e => { e with tl := fset 0 e.tl k v }) ++
  ((List.range 8).map fun k => engWord (fun e => fget 0 e.issued k) fun v e => { e with issued := fset 0 e.issued k v }) ++
  ((List.range 4).map fun q => listWords 32 1 (QVal.value 0) (fun x _ => match x with | .value v => v.toNat | .eos => 2 ^ 63)
    (fun _ v _ => if bit v 63 then .eos else .value (BitVec.ofNat 63 v)) (fun c => fget [] c.eng.iq q)
    fun l c => { c with eng := { c.eng with iq := fset [] c.eng.iq q l } }).flatten ++
  listWords 16 5 { info := slotCause .step 0 0 0, tbun := 0, gts := 0, ord := 0, deferred := false, cmd := 0 } reportWord reportPut
    (fun c => c.trp.reports) fun l c => { c with trp := { c.trp with reports := l } }

/-- The core-state section, and a core with its contents. -/
def Core.ctxArea (c : Core) : List Byte := (ctxWords.map fun w => leBytes 8 (w.get c)).flatten
def Core.withCtx (c : Core) (x : Nat) : Core :=
  (ctxWords.zip (List.range ctxWords.length)).foldl (fun c w => w.1.put (fld x (64 * w.2) 64) c) c

/-- R348: the sections in order, without the header's VALID. -/
def State.sections (s : State) : List (Nat × List Byte) :=
  let c := s.core
  let a := arrayBase s.no
  let fe := (List.range 3072).map fun i =>
    BitVec.ofNat 8 (((List.range 8).map fun k => b2n (fullAt s.pkg (a + 128 * (8 * i + k))) * 2 ^ k).sum)
  let tags := ((List.range 1536).map fun i => leBytes 2 (tagAt s.pkg (a + 2048 * i)).toNat).flatten
  let recs := c.recordArea
  [(0, readBytes s.pkg a (min (c.lsu.carveBank * 65536) arraySize)), (0x30_0000, fe ++ tags)] ++
    ((List.range 8).map c.groupArea).flatten ++
    [(0x41_0000, c.sideArea c.tab.act ++ c.sideArea (!c.tab.act)), (0x43_0000, c.classArea c.tab.act ++ c.classArea (!c.tab.act)),
     (0x43_1000, c.ctxArea), (0x44_0000, leBytes 8 1 ++ leBytes 8 recs.length), (0x44_0040, recs)]

/-- The exact sum a significand and an exponent stand for (R340). -/
def sumOf (m e : Nat) : Rat := (sx m 64 : Rat) * 2 ^ (sx e 64)

/-- R340: a sum as its two doubles give it: the sum that is kept where they are those it was saved as. -/
def sumFrom (old : XR) (x i : Nat) : XR :=
  let (m, e) := (fld x (128 * i) 64, fld x (128 * i + 64) 64)
  if (m, e) = sumDoubles old then old else xr (bit m 63) (sumOf m e)

/-- R340: the element of the 32 by 32 payload that the `i`-th inside element of a step stands at. -/
def sumPlace (cols i : Nat) : Nat := i / max 1 cols * 32 + i % max 1 cols

/-- R340: what a record of the kind of `e` says with group `g`, TARGET `t` and payload `x`. -/
def effectFrom (e : Effect) (g t x : Nat) : Effect :=
  match e with
  | .reg .. => .reg (if bit t 6 then .s1 else .s0) (bit t 5) (BitVec.ofNat 5 t) (BitVec.ofNat 64 x)
  | .tile .. => .tile g (t % 32) (BitVec.ofNat 16384 x)
  | .tileSeg _ _ _ len _ cb => .tileSeg g (t % 32) (t / 32) len (fld x (8 * (t / 32)) (8 * len)) cb
  | .tileMask _ _ m _ => .tileMask g (t % 32) m (BitVec.ofNat 16384 x)
  | .desc .. => .desc g (t % 32) (BitVec.ofNat 32 (x / 2 ^ 32)) (BitVec.ofNat 32 x)
  | .side .. => .side g (t % 32) (BitVec.ofNat 4096 x)
  | .stepF _ _ _ r c sums idx h => .stepF g (t % 4) (bit t 2) r c ((sums.zip (List.range sums.length)).map fun (v, i) => sumFrom v x (sumPlace c i)) idx h
  | .stepI _ _ _ r c sums idx h =>
    .stepI g (t % 4) (bit t 2) r c ((sums.zip (List.range sums.length)).map fun (v, i) =>
      let k := sumPlace c i
      let p := (fld x (128 * k) 64, fld x (128 * k + 64) 64)
      if p = sumDoubles (xint v) then v else (sumOf p.1 p.2).floor) idx h
  | .azero .. => .azero g (t % 4)
  | .array _ off bs => .array g (32 * t + off % 32) (leBytes bs.length x)
  | .tag k off _ => .tag k (2048 * t + off % 2048) (BitVec.ofNat 16 x)
  | .full off _ => .full (128 * t + off % 128) (fld x 32 32)
  | .ptr .. | .stride .. => if bit t 3 then .stride g (t % 8) (BitVec.ofNat 21 x) else .ptr g (t % 8) (BitVec.ofNat 32 x)
  | .kreg .. => .kreg (t % 8) (BitVec.ofNat 256 x)
  | .kword _ j _ => .kword (t % 8) j (BitVec.ofNat 32 (fld x (32 * j) 32))
  | .psnap .. => .psnap g (BitVec.ofNat 8 x)
  | .asstat _ r => .asstat g (r.map fun _ => bit x 1)
  | .lcSet .. => .lcSet (t % 4) (BitVec.ofNat 32 x)
  | .base .. => .base (BitVec.ofNat 5 t) (BitVec.ofNat 64 x)
  | .spr n _ => .spr n (BitVec.ofNat 64 x)
  | .held sl b _ => .held sl b (BitVec.ofNat 64 x)

/-- R350: a record that is kept, as `n` bytes of the area give it. One whose KIND or SIZE there is another is not a record of it and stands as it was
saved. DESIGN CHOICE: log entry 49. -/
def recordFrom (lim : Nat) (old : Pending) (n x : Nat) : Pending :=
  let h := fld x 0 64
  let was := leNat ((recordBytes lim old).take 8)
  if fld h 56 8 ≠ fld was 56 8 ∨ fld h 24 8 ≠ fld was 24 8 then old
  else { old with due := fld h 32 16, sq := if bit h 55 = bit was 55 then old.sq else bit h 55,
                  eff := effectFrom old.eff (fld h 52 3) (fld h 0 24) (fld x 64 (8 * n - 64)) }

/-- R350: the records of a bank as the area gives them, the first at byte `at'`, and where the next bank begins. -/
def recordsFrom (lim x : Nat) : Nat → List Pending → List Pending × Nat
  | at', [] => ([], at')
  | at', r :: rs =>
    let n := (recordBytes lim r).length
    let (l, e) := recordsFrom lim x (at' + n) rs
    (recordFrom lim r n (fld x (8 * at') (8 * n)) :: l, e)

/-- R350: a core with its landing records as the area gives them. -/
def Core.withRecords (c : Core) (x : Nat) : Core :=
  let t := c.trp
  let (r1, a) := recordsFrom (killLim t.bank1.br1 t.bank1.br2) x 0 t.bank1.recs
  let (r2, b) := recordsFrom (killLim t.bank2.br1 t.bank2.br2) x a t.bank2.recs
  let (r0, _) := recordsFrom (killLim c.sca.br1 c.sca.br2) x b t.bank0recs
  { c with trp := { t with bank1 := { t.bank1 with recs := r1 }, bank2 := { t.bank2 with recs := r2 }, bank0recs := r0 } }

/-- R349: the first uncorrectable error that the section at `off` meets: its place in the section, and its offset in the own array. -/
def State.saveError (s : State) (off : Nat) : Option (Nat × Nat) :=
  let a := arrayBase s.no
  let n := min (s.core.lsu.carveBank * 65536) arraySize
  let here (xs : List Nat) (n : Nat) : List Nat := (xs.filter fun x => decide (a ≤ x) && decide (x < a + n)).map (· - a)
  if off = 0 then (lowest (here (s.pkg.env.badLines.map (32 * ·)) n)).map fun x => (x, x)
  else if off = 0x30_0000 then (lowest (here (s.pkg.env.badTags.map (2048 * ·)) arraySize)).map fun x => (3072 + x / 2048 * 2, x)
  else none

/-- Writes bytes at an address, one beat at a time; what was written before a failure stays. The context-save engine writes them: a speculative
evaluation is not held to its region (R326). -/
def saveBytes : Nat → Nat → List Byte → State → State × Option EFail
  | 0, _, _, s => (s, none)
  | fuel + 1, va, bs, s =>
    if bs.isEmpty then (s, none)
    else
      let k := min bs.length (32 - va % 32)
      match s.reachXl true false va with
      | .error e => (s, some e)
      | .ok x => saveBytes fuel (va56 (va + k)) (bs.drop k) (s.writePhysBytes x.pa (bs.take k))

/-- R349: the cause of a failed save. DEDUCED: log entry 51. -/
def saveCause (e : EFail) (tstat : Nat) : CauseInfo :=
  let e := if e = cpyFail 3 then (Cause.xlate.no, 4) else if e.1 = 0 then (Cause.memue.no, 0) else e
  { cause := e.1, slot := 15, gmask := 0, reason := e.2, tl := 0, eng := 7, tlnum := 0, tstat }

/-- R349: writes the sections of an area of `size` bytes at `base`, up to the first fault: the beat that cannot be read, or not be written, or lies past the
area's end. `need`: the bytes the whole save needs. -/
def saveSections (base size need : Nat) : List (Nat × List Byte) → State → State × Option CauseInfo
  | [], s => (s, none)
  | (off, bs) :: rest, s =>
    let fit := size - off
    let err := match s.saveError off with | some (p, x) => if p / 32 * 32 < fit then some (p / 32 * 32, x) else none | none => none
    let upto := match err with | some (p, _) => p | none => fit
    match saveBytes (bs.length / 32 + 2) (base + off) (bs.take upto) s with
    | (s, some e) => (s, some (saveCause e (base + off)))
    | (s, none) =>
      match err with
      | some (_, x) => (s, some (saveCause (Cause.memue.no, 0) (localBase + x)))
      | none => if fit < bs.length then (s, some (saveCause (Cause.saveend.no, 0) need)) else saveSections base size need rest s

/-- R233: the fills of a codebook bank that have failed and wait for their report end before a save; the reports stay, or are held until there is room.
One whose action entry cannot be read yet is waited for. -/
def State.endFills (s : State) : State :=
  s.core.eng.cmds.foldl (fun s c =>
    match c.op, c.st, c.fail with
    | .cbfill .., .reported, _ => s.putCmd { c with st := .ended }
    | .cbfill .., .failed, some f => if (s.actLost f.cause).isSome then s else (s.reportHeld (c.failInfo f) c.tbun).putCmd { c with st := .ended }
    | _, _, _ => s) s

/-- R233, R262, R348: what the save waits for: the accesses issued are performed, and the commands but active subscriptions have ended, fills of a
codebook bank among them. Another command that has failed and whose report waits does not hold it up: no report is taken before the context is back.
DESIGN CHOICE: log entry 114. -/
def State.saveReady (s : State) : Option State :=
  let sub (c : Cmd) : Bool := match c.op with | .hsub .. => c.st == .run | _ => false
  let waits (c : Cmd) : Bool := match c.op with | .cbfill .. => false | _ => c.st == .failed || c.st == .reported
  let quiet := s.core.lsu.loadQ.isEmpty && s.core.lsu.storeQ.isEmpty && s.core.lsu.outst.isEmpty && s.core.lsu.ackcnt == 0
  let s := s.endFills
  if quiet && s.core.eng.cmds.all (fun c => sub c || c.st == .ended || waits c) then
    let s := s.advanceAll
    if s.core.eng.armed.any fun a => decide (a.b.toNat ≤ fget 0 s.core.eng.tl a.tl) then none else some s
  else none

/-- R348: a saved context: the core holds none of it any more, and its record waits or is held for the host. DESIGN CHOICE: log entry 49. -/
def saved (how : Leave) (area : Nat) (s : State) : State :=
  let job := s.core.un.job
  let s := s.modUn fun u => { u with area := none }
  let key := job * 65536 + area
  let core := { s.core with lsu := { s.core.lsu with cache := [] }, eng := { s.core.eng with streams := [] } }
  let rec' (parked : Bool) (info : CauseInfo) (tbun : Nat) : Saved := { area := key, core := s.no, job, parked, info, tbun }
  let put (x : Saved) (s : State) : State := s.modPkg fun p => { p with saved := p.saved ++ [(x, core)] }
  let clear (s : State) : State :=
    let c := s.core.cleared
    { s with core := { c with lsu := { c.lsu with cache := [] } } }
  match how with
  | .park info tbun => clear ((put (rec' true info tbun) s).modMgmt fun m => { m with msix := m.msix ++ [21] })
  | _ =>
    let q := { s.core.requeue s.core.un.recd with saved := some key, since := s.clk }
    clear (((put (rec' false (slotCause .step 15 0 0) 0) s).modUn fun u => { u with runList := insertRun q u.runList }).perf 13 1)

/-- R349: the save has failed: the entry for its cause is applied, once it can be read (R330). DEDUCED: log entry 51. -/
def saveFailed (how : Leave) (i : CauseInfo) (s : State) : State :=
  s.awaitAct i.cause fun s =>
    let s := s.logMemue i
    match (s.actFor i.cause).now s.core.trp.replays with
    | .kill => s.startKill i s.core.sca.pc
    | .replay => (s.modTrp fun t => { t with replays := t.replays + 1 }).perf 14 1
    | _ => (s.modUn fun u => { u with st := .frozen how i }).modMgmt fun m => { m with msix := m.msix ++ [21] }

/-- R369: the first page of a range that lies in memory which cannot be reached, and whether that is a peer's. -/
def State.areaLost (s : State) (store : Bool) (va bytes : Nat) : Option Bool :=
  (List.range (cdiv bytes 65536)).findSome? fun k =>
    match s.reachXl store false (va56 (va + 65536 * k)) with
    | .error e => if e.1 = 0 then some (e == lostPeer) else none
    | .ok _ => none

/-- CONTEXT_SAVE (R348, R349). A park that found no area free takes one as it comes free. An area in memory that cannot be reached is waited for
(R369). -/
def contextSave (s : State) : State :=
  let go (how : Leave) : State :=
    match s.takeArea.drainIngress.saveReady, s.takeArea.core.un.area with
    | some s, some area =>
      let size := poolSize s.core.trp.ctxpool
      let base := poolBase s.core.trp.ctxpool + area * size
      let secs := s.sections
      let need := 0x44_0040 + s.core.recordArea.length
      (match s.areaLost true base (min size need) with
       | some peer => s.waitFar base peer fun s => saveFailed how (saveCause (Cause.memue.no, 0) base) s
       | none =>
         match saveSections base size need secs s with
         | (s, some i) => saveFailed how i s
         | (s, none) =>
           match saveBytes 2 (base + 0x44_0000) (leBytes 8 (2 ^ 63 + 1)) s with
           | (s, some e) => saveFailed how (saveCause e (base + 0x44_0000)) s
           | (s, none) => saved how area s)
    | _, _ => s.takeArea
  match s.core.un.st with
  | .leaving (.park i b) => go (.park i b)
  | .leaving .preempt => go .preempt
  | _ => s

def execContextSave (s : State) : Host.Outcome State Fault Refusal := event contextSave s

/-! ### Restore (R350) -/

/-- Places the numbers read from an area into a map: `n` entries of `w` bytes from key `k`. -/
def placeN {w : Nat} (m : FMap (BitVec w)) (k n bytes x : Nat) : FMap (BitVec w) :=
  (List.range n).foldl (fun m i => fset 0 m (k + i) (BitVec.ofNat w (fld x (8 * bytes * i) (8 * bytes)))) m

/-- Reads a section. -/
def State.readArea (s : State) (va n : Nat) : Except EFail Nat := (s.engRead false va n).map leNat

/-- Group `g` as its sections hold it: tiles, sides, accumulators, registers. -/
def restoreGroup (g t d a r : Nat) (v : Vec) : Vec :=
  let v := { v with tiles := placeN v.tiles (32 * g) 32 2048 t, sides := placeN v.sides (32 * g) 32 512 d, acc := placeN v.acc (4 * g) 4 4096 a,
                    descs := placeN v.descs (32 * g) 32 4 r }
  let p := fld r 1024 512
  (List.range 8).foldl (fun v q =>
    { v with ptrs := fset 0 v.ptrs (8 * g + q) (BitVec.ofNat 32 (fld p (64 * q) 32)),
             strides := fset 0 v.strides (8 * g + q) (BitVec.ofNat 21 (fld p (64 * q + 32) 32)) }) v

/-- The groups from `g` on, as the area holds them. -/
def readGroups (s : State) (base : Nat) : List Nat → Vec → Except EFail Vec
  | [], v => .ok v
  | g :: gs, v =>
    let b := base + 0x31_0000 + 0x2_0000 * g
    (s.readArea b 0x1_0000).bind fun t => (s.readArea (b + 0x1_0000) 0x4000).bind fun d => (s.readArea (b + 0x1_4000) 0x4000).bind fun a =>
      (s.readArea (b + 0x1_8000) 0xC0).bind fun r => readGroups s base gs (restoreGroup g t d a r v)

/-- Both table sides and class vectors from their sections: the saved active side goes to the active side `act`. -/
def restoreSides (t : Tab) (e k : Nat) : Tab :=
  let side (b : Bool) : Nat := b2n (b != t.act)
  let ents := [false, true].foldl (fun m b => (List.range 8).foldl (fun m g =>
    placeN m (entKey b g 0) 1024 8 (fld e (524288 * side b + 65536 * g) 65536)) m) t.ents
  let cls := [false, true].foldl (fun m b => (List.range 1024).foldl (fun m i =>
    fset 0 m (clsKey b i) (BitVec.ofNat 4 (fld k (4096 * side b + 4 * i) 4))) m) t.cls
  { t with ents, cls }

def readTables (s : State) (base : Nat) (t : Tab) : Except EFail Tab :=
  (s.readArea (base + 0x41_0000) 0x2_0000).bind fun e => (s.readArea (base + 0x43_0000) 1024).map (restoreSides t e)

/-- The scratchpad, its full/empty bits and its tags. -/
def readScratch (s : State) (base : Nat) : Except EFail State :=
  let a := arrayBase s.no
  let n := min (s.core.lsu.carveBank * 65536) arraySize
  (s.engRead false base n).bind fun bs => (s.readArea (base + 0x30_0000) 0x1800).map fun x =>
    s.modPkg fun p =>
      let p := writeBytes p a bs
      let p := { p with full := fput false p.full (a / 128) ((List.range 24576).map fun i => bit x i) }
      { p with tags := fput 0 p.tags (a / 2048) ((List.range 1536).map fun i => BitVec.ofNat 16 (fld x (24576 + 16 * i) 16)) }

/-- R350: reads an area in the order of R348: the state with the scratchpad and the tables, and the core as its sections and its landing records hold
it. -/
def readContext (t : State) (base : Nat) (old : Core) : Except EFail (State × Core) :=
  (readScratch t base).bind fun t' => (readGroups t base (List.range 8) old.vec).bind fun v => (readTables t base t.core.tab).bind fun tb =>
    (t.readArea (base + 0x43_1000) (8 * ctxWords.length)).bind fun x =>
      (t.readArea (base + 0x44_0000) (64 + old.recordArea.length)).map fun r =>
        ({ t' with core := { t'.core with tab := tb } }, (({ old with vec := v } : Core).withRecords (r / 2 ^ 512)).withCtx x)

/-- R119, R324: the armed resolutions of a context that is back are translated anew: a mapping that is gone meanwhile has no copy in a saved context. One
that has none any more is reported, and makes nothing. DEDUCED: log entry 141. -/
def State.rearm (s : State) : State :=
  s.core.eng.armed.foldl (fun s a =>
    match translate s s.root .cellOp 8 a.va with
    | .ok x => s.modEng fun e => { e with armed := e.armed ++ [{ a with pa := x.pa, bank := if a.bank = some 0 then none else a.bank }] }
    | .error x =>
      let i := { xerrCause x 1 (va56 a.va) with eng := 5 }
      if s.core.dying ∨ a.dead then s.logMemue i else s.reportOrHold i a.tbun 8) (s.modEng fun e => { e with armed := [] })

/-- R350: the context of `old` on the current core. Entries of its input queues come before those that have arrived since, all of them where that makes more
than 32. DESIGN CHOICE: log entry 105. Its landing records wait for the clk at which the next bundle issues (R339), at least the
clk after this one; the latches read zero after a context switch (R60). -/
def restoreCore (old : Core) (s : State) : State :=
  let now := s.core
  let t := s.clk + 1
  let iq := (List.range 4).foldl (fun m k => fset [] m k (fget [] old.eng.iq k ++ fget [] now.eng.iq k)) []
  let core : Core :=
    { old with
      sca := { old.sca.clearLatches with hold := t, seq := max old.sca.seq now.sca.seq, inflight := [], hwinHeld := false, flushHeld := false },
      vec := { old.vec with asstat := now.vec.asstat, cbstall := now.vec.cbstall },
      tab := { now.tab with ever := old.tab.ever, bad := old.tab.bad, bound := old.tab.bound, bindBad := old.tab.bindBad,
                            xnext := 0, wait := none },
      lsu := { now.lsu with utlb := [], walked := none, claims := old.lsu.claims },
      eng := { old.eng with iq, nextCmd := max old.eng.nextCmd now.eng.nextCmd },
      trp := { old.trp with dbgmode := now.trp.dbgmode, bank0recs := [], parkRem := 0, preemptDue := false,
                            reentry := some { recs := old.trp.bank0recs, rem := old.trp.parkRem, start := t } },
      un := { old.un with st := .running, start := s.clk, lost := [], runList := now.un.runList, perf := now.un.perf } }
  ({ s with core := core } : State).rearm.continueLeave

/-- CONTEXT_RESTORE (R350): the carve-out first goes back to the saved size, which the core-state section holds first. An area in memory that cannot be
reached is waited for (R369). -/
def restoreOn (q : QRec) (s t : State) : State :=
  match q.saved with
  | none => s
  | some key =>
    match s.pkg.saved.find? fun x => x.1.area == key with
    | none => t
    | some (sv, old) =>
      let pool := old.trp.ctxpool
      let base := poolBase pool + sv.area % 65536 * poolSize pool
      let t := t.modUn fun u => { u with job := sv.job }
      let dead (e : EFail) : State :=
        let r := (restoreCore old t).dropSaved key
        let i := saveCause e base
        (r.logMemue i).startKill i r.core.sca.pc
      let fail (e : EFail) : State := if e.1 = 0 then s.waitFar base (e == lostPeer) fun _ => dead e else dead e
      if s.core.lsu.move.isSome then s
      else match t.readArea (base + 0x43_1000) 8 with
      | .error e => fail e
      | .ok size =>
        if s.core.lsu.size ≠ min size 4 then s.moveTo (min size 4)
        else match readContext t base old with
        | .ok (t', old') =>
          let (t', _) := saveBytes 2 (base + 0x44_0000) (leBytes 8 1) t'
          (restoreCore old' t').dropSaved key
        | .error e => fail e

/-- DESIGN CHOICE: log entry 50. -/
def contextRestore (s : State) : State :=
  match s.pick with
  | some (n, q, t) => if q.saved.isSome then (restoreOn q (s.switchTo n) (t.switchTo n)).switchTo s.no else s
  | none => s

def execContextRestore (s : State) : Host.Outcome State Fault Refusal := event contextRestore s

/-- SUSPEND (R305). Ends the unit's stretch, writes its record back and requeues it. -/
def execSuspend (h : Head) (a : BitVec 6) (off : BitVec 21) (s : State) : Host.Outcome State Fault Refusal :=
  issueSingle (.suspend h a off) (semSuspend h a off) s

/-- FINISH (R305). Ends the unit and counts it complete. -/
def execFinish (h : Head) (a : BitVec 6) (s : State) : Host.Outcome State Fault Refusal :=
  issueSingle (.finish h a) (semFinish h a) s

end Sys2Proof.Machine
end

