-- ==== Sys2Proof/Machine/Flags.lean ====
section
/-! DEFINITION. Conditions. J1 keeps no flags (R45): a compare gives 1 or 0 as its result (R91), and minima and maxima compare
as signed or unsigned values. -/

namespace Sys2Proof.Machine

/-- R91: the result of a relation. -/
def flag (b : Bool) : Double := if b then 1 else 0

def minS (a b : Double) : Double := if a.toInt ≤ b.toInt then a else b
def maxS (a b : Double) : Double := if a.toInt ≤ b.toInt then b else a
def minU (a b : Double) : Double := if a.toNat ≤ b.toNat then a else b
def maxU (a b : Double) : Double := if a.toNat ≤ b.toNat then b else a

end Sys2Proof.Machine
end

