-- ==== Sys2Proof/Machine/Scalar.lean ====
section
/-! DEFINITION. Scalar arithmetic, logic, bit fields and constants (R85 to R101). -/

namespace Sys2Proof.Machine

/-! ### Shared forms -/

/-- An operation of the register form: both sources are read, the result lands after `lat` clk. -/
def regForm (lat : Nat) (f : Double → Double → Double) (sl : SSlot) (h : Head) (o : RegOps) : SlotSem :=
  { op := fun p s => guarded h p (regHolds o sl h p s) fun s =>
      .ok (s.land sl h o.dst o.wbs (f (p.core.src sl false o.srcA) (p.core.src sl true o.srcB)) lat)
    wait := noWait }

/-- R88: a .W operation reads bits 31 to 0 and its result is sign-extended. -/
def wForm (f : BitVec 32 → BitVec 32 → BitVec 32) (a b : Double) : Double := sext32 (f (a.setWidth 32) (b.setWidth 32))

/-- R88, R89: a division; a zero divisor, in the form's width `n`, raises INTDIV0 with the dividend as read at issue. -/
def divForm (n : Nat) (f : Double → Double → Double) (sl : SSlot) (h : Head) (o : RegOps) : SlotSem :=
  { op := fun p s => guarded h p (regHolds o sl h p s) fun s =>
      let a := p.core.src sl false o.srcA
      let b := p.core.src sl true o.srcB
      if b.toNat % 2 ^ n = 0 then .trap (slotCause .intdiv0 sl.pos.idx 0 a.toNat)
      else .ok (s.land sl h o.dst o.wbs (f a b) 18)
    wait := noWait }

/-- R91: a one-source operation. -/
def oneForm (f : Double → Double) (sl : SSlot) (h : Head) (o : RegOps1) : SlotSem :=
  { op := fun p s => guarded h p (holdRead sl h false o.hldA o.srcA p s) fun s =>
      .ok (s.land sl h o.dst o.wbs (f (p.core.src sl false o.srcA)) 1)
    wait := noWait }

/-- R57: an operation of the immediate form. -/
def immForm (f : Double → Double) (sl : SSlot) (h : Head) (o : ImmOps) : SlotSem :=
  { op := fun p s => guarded h p s fun s => .ok (s.land sl h o.dst o.wbs (f (p.core.src sl false o.srcA)) 1)
    wait := noWait }

/-! ### Integer arithmetic (R88) -/

/-- MULH: floor(sa · sb / 2^n). -/
def mulhS {n : Nat} (a b : BitVec n) : BitVec n := tr n (a.toInt * b.toInt / 2 ^ n)
/-- MULHU: floor(ua · ub / 2^n). -/
def mulhU {n : Nat} (a b : BitVec n) : BitVec n := tr n ((a.toNat * b.toNat / 2 ^ n : Nat) : Int)
def divS {n : Nat} (a b : BitVec n) : BitVec n := tr n (quoZ a.toInt b.toInt)
def divU {n : Nat} (a b : BitVec n) : BitVec n := tr n ((a.toNat / b.toNat : Nat) : Int)
def remS {n : Nat} (a b : BitVec n) : BitVec n := tr n (remZ a.toInt b.toInt)
def remU {n : Nat} (a b : BitVec n) : BitVec n := tr n ((a.toNat : Int) - (b.toNat : Int) * ((a.toNat / b.toNat : Nat) : Int))

def semNop (_ : SSlot) (_ : Head) : SlotSem := { op := fun _ s => .ok s, wait := noWait }
def semAddW := regForm 1 (wForm (· + ·))
def semAddD := regForm 1 (· + ·)
def semSubW := regForm 1 (wForm (· - ·))
def semSubD := regForm 1 (· - ·)
def semMulW := regForm 3 (wForm (· * ·))
def semMulD := regForm 3 (· * ·)
def semMulhW := regForm 3 (wForm mulhS)
def semMulhD := regForm 3 mulhS
def semMulhuW := regForm 3 (wForm mulhU)
def semMulhuD := regForm 3 mulhU
def semDivW := divForm 32 (wForm divS)
def semDivD := divForm 64 divS
def semDivuW := divForm 32 (wForm divU)
def semDivuD := divForm 64 divU
def semRemW := divForm 32 (wForm remS)
def semRemD := divForm 64 remS
def semRemuW := divForm 32 (wForm remU)
def semRemuD := divForm 64 remU

/-- R90: source B is the sign-extended immediate. -/
def semAddiW (sl : SSlot) (h : Head) (o : ImmOps) : SlotSem := immForm (fun a => wForm (· + ·) a (imm64 o.imm)) sl h o
def semAddiD (sl : SSlot) (h : Head) (o : ImmOps) : SlotSem := immForm (fun a => a + imm64 o.imm) sl h o

/-! ### Logic, shifts, counts and compares (R91 to R94) -/

/-- R91: a shift amount is b[5:0]. -/
def sh6 (b : Double) : Nat := b.toNat % 64

/-- CLZ: leading zero bits; 64 for zero. -/
def clz64 (a : Double) : Double := if a = 0 then 64 else BitVec.ofNat 64 (63 - a.toNat.log2)
def ctz64 (a : Double) : Double := BitVec.ofNat 64 (ctzFrom 64 a.toNat)
def popc64 (a : Double) : Double := BitVec.ofNat 64 (popc 64 a.toNat)

def semAnd := regForm 1 (· &&& ·)
def semOr := regForm 1 (· ||| ·)
def semXor := regForm 1 (· ^^^ ·)
def semAndn := regForm 1 fun a b => a &&& ~~~b
def semShl := regForm 1 fun a b => a <<< sh6 b
def semShr := regForm 1 fun a b => a >>> sh6 b
def semSar := regForm 1 fun a b => a.sshiftRight (sh6 b)
def semRotl := regForm 1 fun a b => a.rotateLeft (sh6 b)
def semClz := oneForm clz64
def semCtz := oneForm ctz64
def semPopc := oneForm popc64
def semMin := regForm 1 minS
def semMax := regForm 1 maxS
def semMinu := regForm 1 minU
def semMaxu := regForm 1 maxU
def semSeq := regForm 1 fun a b => flag (a == b)
def semSne := regForm 1 fun a b => flag (a != b)
def semSlt := regForm 1 fun a b => flag (decide (a.toInt < b.toInt))
def semSltu := regForm 1 fun a b => flag (decide (a.toNat < b.toNat))
def semSle := regForm 1 fun a b => flag (decide (a.toInt ≤ b.toInt))
def semSleu := regForm 1 fun a b => flag (decide (a.toNat ≤ b.toNat))

/-- R92: the condition is the destination register as it stands at issue. -/
def semSel (sl : SSlot) (h : Head) (o : RegOps) : SlotSem :=
  { op := fun p s => guarded h p (regHolds o sl h p s) fun s =>
      .ok (s.land sl h o.dst o.wbs
        (if dstValue p o.dst = 0 then p.core.src sl true o.srcB else p.core.src sl false o.srcA) 1)
    wait := noWait }

def semAndi (sl : SSlot) (h : Head) (o : ImmOps) : SlotSem := immForm (fun a => a &&& imm64 o.imm) sl h o
def semOri (sl : SSlot) (h : Head) (o : ImmOps) : SlotSem := immForm (fun a => a ||| imm64 o.imm) sl h o
def semXori (sl : SSlot) (h : Head) (o : ImmOps) : SlotSem := immForm (fun a => a ^^^ imm64 o.imm) sl h o
def semShli (sl : SSlot) (h : Head) (o : ImmOps) : SlotSem := immForm (fun a => a <<< (o.imm.toNat % 64)) sl h o
def semShri (sl : SSlot) (h : Head) (o : ImmOps) : SlotSem := immForm (fun a => a >>> (o.imm.toNat % 64)) sl h o
def semSari (sl : SSlot) (h : Head) (o : ImmOps) : SlotSem := immForm (fun a => a.sshiftRight (o.imm.toNat % 64)) sl h o

/-- R94: a[48:0] ‖ IMM[14:0]. -/
def semMovw (sl : SSlot) (h : Head) (o : ImmOps) : SlotSem := immForm (fun a => (a <<< 15) ||| o.imm.setWidth 64) sl h o

/-- R95. -/
def semLimm (h : Head) (o : LimmOps) : SlotSem :=
  { op := fun p s => guarded h p s fun s => .ok (s.land .s0 h o.dst o.wbs o.imm 1), wait := noWait }

/-! ### Bit fields and address add (R97) -/

/-- The body of R96 with one source. -/
def bfForm (f : State → Double → Double) (sl : SSlot) (h : Head) (dst : BitVec 5) (wbs : Bool) (srcA : BitVec 6) : SlotSem :=
  { op := fun p s => guarded h p s fun s => .ok (s.land sl h dst wbs (f p (p.core.src sl false srcA)) 1), wait := noWait }

def semBfx (sl : SSlot) (h : Head) (o : BfOps) : SlotSem :=
  bfForm (fun _ a => tr 64 (sx (fld a.toNat o.pos.toNat (o.wid.toNat + 1)) (o.wid.toNat + 1))) sl h o.dst o.wbs o.srcA
def semBfxu (sl : SSlot) (h : Head) (o : BfOps) : SlotSem :=
  bfForm (fun _ a => BitVec.ofNat 64 (fld a.toNat o.pos.toNat (o.wid.toNat + 1))) sl h o.dst o.wbs o.srcA
def semBfi (sl : SSlot) (h : Head) (o : BfOps) : SlotSem :=
  bfForm (fun p a => putFld (dstValue p o.dst) o.pos.toNat (o.wid.toNat + 1) a.toNat) sl h o.dst o.wbs o.srcA
def semBset (sl : SSlot) (h : Head) (o : BitOps) : SlotSem :=
  bfForm (fun _ a => a ||| (1#64 <<< o.pos.toNat)) sl h o.dst o.wbs o.srcA
def semBclr (sl : SSlot) (h : Head) (o : BitOps) : SlotSem :=
  bfForm (fun _ a => a &&& ~~~(1#64 <<< o.pos.toNat)) sl h o.dst o.wbs o.srcA
def semBtst (sl : SSlot) (h : Head) (o : BitOps) : SlotSem :=
  bfForm (fun _ a => flag (a.getLsbD o.pos.toNat)) sl h o.dst o.wbs o.srcA

/-- ADDP: bits 63 to 56 of a are carried, and the sum wraps within 56 bits. -/
def addpValue (a b : Double) (sh : Nat) : Double :=
  BitVec.ofNat 64 (a.toNat / 2 ^ 56 * 2 ^ 56 + (a.toNat % 2 ^ 56 + (b <<< sh).toNat) % 2 ^ 56)

def semAddp (sl : SSlot) (h : Head) (o : AddpOps) : SlotSem :=
  { op := fun p s => guarded h p s fun s =>
      .ok (s.land sl h o.dst o.wbs (addpValue (p.core.src sl false o.srcA) (p.core.src sl true o.srcB) o.sh.toNat) 1)
    wait := noWait }

/-- NOP (R101). Issues and does nothing. -/
def execNop (sl : SSlot) (h : Head) (s : State) : Host.Outcome State Fault Refusal :=
  issueSingle (.nop sl h) (semNop sl h) s

/-- ADD_W (R88). 32-bit add, sign-extended. -/
def execAddW (sl : SSlot) (h : Head) (o : RegOps) (s : State) : Host.Outcome State Fault Refusal :=
  issueSingle (.addW sl h o) (semAddW sl h o) s

/-- ADD_D (R88). 64-bit add. -/
def execAddD (sl : SSlot) (h : Head) (o : RegOps) (s : State) : Host.Outcome State Fault Refusal :=
  issueSingle (.addD sl h o) (semAddD sl h o) s

/-- SUB_W (R88). 32-bit subtract. -/
def execSubW (sl : SSlot) (h : Head) (o : RegOps) (s : State) : Host.Outcome State Fault Refusal :=
  issueSingle (.subW sl h o) (semSubW sl h o) s

/-- SUB_D (R88). 64-bit subtract. -/
def execSubD (sl : SSlot) (h : Head) (o : RegOps) (s : State) : Host.Outcome State Fault Refusal :=
  issueSingle (.subD sl h o) (semSubD sl h o) s

/-- MUL_W (R88). 32-bit multiply, low bits. -/
def execMulW (sl : SSlot) (h : Head) (o : RegOps) (s : State) : Host.Outcome State Fault Refusal :=
  issueSingle (.mulW sl h o) (semMulW sl h o) s

/-- MUL_D (R88). 64-bit multiply, low bits. -/
def execMulD (sl : SSlot) (h : Head) (o : RegOps) (s : State) : Host.Outcome State Fault Refusal :=
  issueSingle (.mulD sl h o) (semMulD sl h o) s

/-- MULH_W (R88). 32-bit signed multiply, high bits. -/
def execMulhW (sl : SSlot) (h : Head) (o : RegOps) (s : State) : Host.Outcome State Fault Refusal :=
  issueSingle (.mulhW sl h o) (semMulhW sl h o) s

/-- MULH_D (R88). 64-bit signed multiply, high bits. -/
def execMulhD (sl : SSlot) (h : Head) (o : RegOps) (s : State) : Host.Outcome State Fault Refusal :=
  issueSingle (.mulhD sl h o) (semMulhD sl h o) s

/-- MULHU_W (R88). 32-bit unsigned multiply, high bits. -/
def execMulhuW (sl : SSlot) (h : Head) (o : RegOps) (s : State) : Host.Outcome State Fault Refusal :=
  issueSingle (.mulhuW sl h o) (semMulhuW sl h o) s

/-- MULHU_D (R88). 64-bit unsigned multiply, high bits. -/
def execMulhuD (sl : SSlot) (h : Head) (o : RegOps) (s : State) : Host.Outcome State Fault Refusal :=
  issueSingle (.mulhuD sl h o) (semMulhuD sl h o) s

/-- DIV_W (R88). 32-bit signed divide; a zero divisor raises INTDIV0. -/
def execDivW (sl : SSlot) (h : Head) (o : RegOps) (s : State) : Host.Outcome State Fault Refusal :=
  issueSingle (.divW sl h o) (semDivW sl h o) s

/-- DIV_D (R88). 64-bit signed divide; a zero divisor raises INTDIV0. -/
def execDivD (sl : SSlot) (h : Head) (o : RegOps) (s : State) : Host.Outcome State Fault Refusal :=
  issueSingle (.divD sl h o) (semDivD sl h o) s

/-- DIVU_W (R88). 32-bit unsigned divide. -/
def execDivuW (sl : SSlot) (h : Head) (o : RegOps) (s : State) : Host.Outcome State Fault Refusal :=
  issueSingle (.divuW sl h o) (semDivuW sl h o) s

/-- DIVU_D (R88). 64-bit unsigned divide. -/
def execDivuD (sl : SSlot) (h : Head) (o : RegOps) (s : State) : Host.Outcome State Fault Refusal :=
  issueSingle (.divuD sl h o) (semDivuD sl h o) s

/-- REM_W (R88). 32-bit signed remainder. -/
def execRemW (sl : SSlot) (h : Head) (o : RegOps) (s : State) : Host.Outcome State Fault Refusal :=
  issueSingle (.remW sl h o) (semRemW sl h o) s

/-- REM_D (R88). 64-bit signed remainder. -/
def execRemD (sl : SSlot) (h : Head) (o : RegOps) (s : State) : Host.Outcome State Fault Refusal :=
  issueSingle (.remD sl h o) (semRemD sl h o) s

/-- REMU_W (R88). 32-bit unsigned remainder. -/
def execRemuW (sl : SSlot) (h : Head) (o : RegOps) (s : State) : Host.Outcome State Fault Refusal :=
  issueSingle (.remuW sl h o) (semRemuW sl h o) s

/-- REMU_D (R88). 64-bit unsigned remainder. -/
def execRemuD (sl : SSlot) (h : Head) (o : RegOps) (s : State) : Host.Outcome State Fault Refusal :=
  issueSingle (.remuD sl h o) (semRemuD sl h o) s

/-- ADDI_W (R90). 32-bit add of a sign-extended immediate. -/
def execAddiW (sl : SSlot) (h : Head) (o : ImmOps) (s : State) : Host.Outcome State Fault Refusal :=
  issueSingle (.addiW sl h o) (semAddiW sl h o) s

/-- ADDI_D (R90). 64-bit add of a sign-extended immediate. -/
def execAddiD (sl : SSlot) (h : Head) (o : ImmOps) (s : State) : Host.Outcome State Fault Refusal :=
  issueSingle (.addiD sl h o) (semAddiD sl h o) s

/-- AND (R91). Bitwise AND. -/
def execAnd (sl : SSlot) (h : Head) (o : RegOps) (s : State) : Host.Outcome State Fault Refusal :=
  issueSingle (.and sl h o) (semAnd sl h o) s

/-- OR (R91). Bitwise OR. -/
def execOr (sl : SSlot) (h : Head) (o : RegOps) (s : State) : Host.Outcome State Fault Refusal :=
  issueSingle (.or sl h o) (semOr sl h o) s

/-- XOR (R91). Bitwise XOR. -/
def execXor (sl : SSlot) (h : Head) (o : RegOps) (s : State) : Host.Outcome State Fault Refusal :=
  issueSingle (.xor sl h o) (semXor sl h o) s

/-- ANDN (R91). a AND NOT b. -/
def execAndn (sl : SSlot) (h : Head) (o : RegOps) (s : State) : Host.Outcome State Fault Refusal :=
  issueSingle (.andn sl h o) (semAndn sl h o) s

/-- SHL (R91). Shift left by b[5:0]. -/
def execShl (sl : SSlot) (h : Head) (o : RegOps) (s : State) : Host.Outcome State Fault Refusal :=
  issueSingle (.shl sl h o) (semShl sl h o) s

/-- SHR (R91). Logical shift right by b[5:0]. -/
def execShr (sl : SSlot) (h : Head) (o : RegOps) (s : State) : Host.Outcome State Fault Refusal :=
  issueSingle (.shr sl h o) (semShr sl h o) s

/-- SAR (R91). Arithmetic shift right by b[5:0]. -/
def execSar (sl : SSlot) (h : Head) (o : RegOps) (s : State) : Host.Outcome State Fault Refusal :=
  issueSingle (.sar sl h o) (semSar sl h o) s

/-- ROTL (R91). Rotate left by b[5:0]. -/
def execRotl (sl : SSlot) (h : Head) (o : RegOps) (s : State) : Host.Outcome State Fault Refusal :=
  issueSingle (.rotl sl h o) (semRotl sl h o) s

/-- CLZ (R91). Count leading zero bits. -/
def execClz (sl : SSlot) (h : Head) (o : RegOps1) (s : State) : Host.Outcome State Fault Refusal :=
  issueSingle (.clz sl h o) (semClz sl h o) s

/-- CTZ (R91). Count trailing zero bits. -/
def execCtz (sl : SSlot) (h : Head) (o : RegOps1) (s : State) : Host.Outcome State Fault Refusal :=
  issueSingle (.ctz sl h o) (semCtz sl h o) s

/-- POPC (R91). Count one bits. -/
def execPopc (sl : SSlot) (h : Head) (o : RegOps1) (s : State) : Host.Outcome State Fault Refusal :=
  issueSingle (.popc sl h o) (semPopc sl h o) s

/-- MIN (R91). Signed minimum. -/
def execMin (sl : SSlot) (h : Head) (o : RegOps) (s : State) : Host.Outcome State Fault Refusal :=
  issueSingle (.min sl h o) (semMin sl h o) s

/-- MAX (R91). Signed maximum. -/
def execMax (sl : SSlot) (h : Head) (o : RegOps) (s : State) : Host.Outcome State Fault Refusal :=
  issueSingle (.max sl h o) (semMax sl h o) s

/-- MINU (R91). Unsigned minimum. -/
def execMinu (sl : SSlot) (h : Head) (o : RegOps) (s : State) : Host.Outcome State Fault Refusal :=
  issueSingle (.minu sl h o) (semMinu sl h o) s

/-- MAXU (R91). Unsigned maximum. -/
def execMaxu (sl : SSlot) (h : Head) (o : RegOps) (s : State) : Host.Outcome State Fault Refusal :=
  issueSingle (.maxu sl h o) (semMaxu sl h o) s

/-- SEQ (R91). 1 if a = b. -/
def execSeq (sl : SSlot) (h : Head) (o : RegOps) (s : State) : Host.Outcome State Fault Refusal :=
  issueSingle (.seq sl h o) (semSeq sl h o) s

/-- SNE (R91). 1 if a differs from b. -/
def execSne (sl : SSlot) (h : Head) (o : RegOps) (s : State) : Host.Outcome State Fault Refusal :=
  issueSingle (.sne sl h o) (semSne sl h o) s

/-- SLT (R91). 1 if a < b, signed. -/
def execSlt (sl : SSlot) (h : Head) (o : RegOps) (s : State) : Host.Outcome State Fault Refusal :=
  issueSingle (.slt sl h o) (semSlt sl h o) s

/-- SLTU (R91). 1 if a < b, unsigned. -/
def execSltu (sl : SSlot) (h : Head) (o : RegOps) (s : State) : Host.Outcome State Fault Refusal :=
  issueSingle (.sltu sl h o) (semSltu sl h o) s

/-- SLE (R91). 1 if a ≤ b, signed. -/
def execSle (sl : SSlot) (h : Head) (o : RegOps) (s : State) : Host.Outcome State Fault Refusal :=
  issueSingle (.sle sl h o) (semSle sl h o) s

/-- SLEU (R91). 1 if a ≤ b, unsigned. -/
def execSleu (sl : SSlot) (h : Head) (o : RegOps) (s : State) : Host.Outcome State Fault Refusal :=
  issueSingle (.sleu sl h o) (semSleu sl h o) s

/-- SEL (R92). Selects a or b by its destination register's value. -/
def execSel (sl : SSlot) (h : Head) (o : RegOps) (s : State) : Host.Outcome State Fault Refusal :=
  issueSingle (.sel sl h o) (semSel sl h o) s

/-- ANDI (R93). AND with an immediate. -/
def execAndi (sl : SSlot) (h : Head) (o : ImmOps) (s : State) : Host.Outcome State Fault Refusal :=
  issueSingle (.andi sl h o) (semAndi sl h o) s

/-- ORI (R93). OR with an immediate. -/
def execOri (sl : SSlot) (h : Head) (o : ImmOps) (s : State) : Host.Outcome State Fault Refusal :=
  issueSingle (.ori sl h o) (semOri sl h o) s

/-- XORI (R93). XOR with an immediate. -/
def execXori (sl : SSlot) (h : Head) (o : ImmOps) (s : State) : Host.Outcome State Fault Refusal :=
  issueSingle (.xori sl h o) (semXori sl h o) s

/-- SHLI (R93). Shift left by an immediate. -/
def execShli (sl : SSlot) (h : Head) (o : ImmOps) (s : State) : Host.Outcome State Fault Refusal :=
  issueSingle (.shli sl h o) (semShli sl h o) s

/-- SHRI (R93). Logical shift right by an immediate. -/
def execShri (sl : SSlot) (h : Head) (o : ImmOps) (s : State) : Host.Outcome State Fault Refusal :=
  issueSingle (.shri sl h o) (semShri sl h o) s

/-- SARI (R93). Arithmetic shift right by an immediate. -/
def execSari (sl : SSlot) (h : Head) (o : ImmOps) (s : State) : Host.Outcome State Fault Refusal :=
  issueSingle (.sari sl h o) (semSari sl h o) s

/-- MOVW (R94). Shifts source A left by 15 and inserts a 15-bit immediate. -/
def execMovw (sl : SSlot) (h : Head) (o : ImmOps) (s : State) : Host.Outcome State Fault Refusal :=
  issueSingle (.movw sl h o) (semMovw sl h o) s

/-- LIMM (R95). Writes a 64-bit immediate carried in a LONG bundle. -/
def execLimm (h : Head) (o : LimmOps) (s : State) : Host.Outcome State Fault Refusal :=
  issueSingle (.limm h o) (semLimm h o) s

/-- BFX (R97). Extracts a bit field, sign-extended. -/
def execBfx (sl : SSlot) (h : Head) (o : BfOps) (s : State) : Host.Outcome State Fault Refusal :=
  issueSingle (.bfx sl h o) (semBfx sl h o) s

/-- BFXU (R97). Extracts a bit field, zero-extended. -/
def execBfxu (sl : SSlot) (h : Head) (o : BfOps) (s : State) : Host.Outcome State Fault Refusal :=
  issueSingle (.bfxu sl h o) (semBfxu sl h o) s

/-- BFI (R97). Inserts a bit field into the destination's value. -/
def execBfi (sl : SSlot) (h : Head) (o : BfOps) (s : State) : Host.Outcome State Fault Refusal :=
  issueSingle (.bfi sl h o) (semBfi sl h o) s

/-- BSET (R97). Sets bit p. -/
def execBset (sl : SSlot) (h : Head) (o : BitOps) (s : State) : Host.Outcome State Fault Refusal :=
  issueSingle (.bset sl h o) (semBset sl h o) s

/-- BCLR (R97). Clears bit p. -/
def execBclr (sl : SSlot) (h : Head) (o : BitOps) (s : State) : Host.Outcome State Fault Refusal :=
  issueSingle (.bclr sl h o) (semBclr sl h o) s

/-- BTST (R97). Returns bit p. -/
def execBtst (sl : SSlot) (h : Head) (o : BitOps) (s : State) : Host.Outcome State Fault Refusal :=
  issueSingle (.btst sl h o) (semBtst sl h o) s

/-- ADDP (R97). Adds a shifted offset within the 56-bit address. -/
def execAddp (sl : SSlot) (h : Head) (o : AddpOps) (s : State) : Host.Outcome State Fault Refusal :=
  issueSingle (.addp sl h o) (semAddp sl h o) s

end Sys2Proof.Machine
end

