-- ==== Sys2Proof/Machine/System.lean ====
section
/-! DEFINITION. The trap and system instructions (R341 to R346). -/

namespace Sys2Proof.Machine

/-! ### TRAP, DBGBRK, TRET -/

def semTrap (h : Head) (code : BitVec 16) : SlotSem :=
  { op := fun p s => guarded h p s fun _ => .trap (slotCause .swtrap 0 0 code.toNat), wait := noWait }

def semDbgbrk (h : Head) (code : BitVec 16) : SlotSem :=
  { op := fun p s => guarded h p s fun _ => .trap (slotCause .dbgbrk 0 0 code.toNat), wait := noWait }

/-- R342: the return is made at the bundle's end, after its other slots. -/
def semTret (h : Head) : SlotSem :=
  { op := fun p s => guarded h p s fun s =>
      if p.core.trp.level = 0 then .trap (slotCause .notrap 0 0 0) else .ok (s.modSca fun c => { c with tretNow := true })
    wait := noWait }

/-! ### Special registers (R343, R344) -/

/-- R133: PHASECTL. -/
def phasectl (l : Lsu) : Nat :=
  l.phaseno.toNat * 2 ^ 48 + l.grow.toNat * 2 ^ 40 + l.shrink.toNat * 2 ^ 32 + b2n l.move.isSome * 2 ^ 16 + b2n l.adapt * 2 ^ 12 +
    l.maxc * 2 ^ 8 + l.minc * 2 ^ 4 + l.size

/-- R344: CORENO. -/
def State.coreno (s : State) : Nat := s.pkg.mgmt.pkgNo * 2 ^ 16 + s.no / 64 * 2 ^ 10 + s.no

/-- R344: UNITREC. -/
def Core.unitrec (c : Core) : Nat := recPhjob c.un.recd * 2 ^ 32 + recLslot c.un.recd

/-- R344: the special register `n` of the core whose turn it is; IQPOP0 to IQPOP3 apart. -/
def State.readSpr (s : State) (n : Nat) : Double :=
  let c := s.core
  if n = 0x000 then c.vec.vmode.setWidth 64
  else if n = 0x001 then c.vec.pbase.setWidth 64
  else if n = 0x002 then c.sca.spst.setWidth 64
  else if 0x004 ≤ n ∧ n ≤ 0x006 then c.lcReg (n - 4)
  else if 0x008 ≤ n ∧ n ≤ 0x00F then (fget 1 c.vec.rngs (n - 8)).setWidth 64
  else if n = 0x010 then BitVec.ofNat 64 (phasectl c.lsu)
  else if n = 0x011 then BitVec.ofNat 64 (c.lsu.ackcnt % 2 ^ 16)
  else if n = 0x012 then BitVec.ofNat 64 c.tabst
  else if n = 0x013 then c.tab.swstall
  else if n = 0x014 then c.tab.swcount.setWidth 64
  else if n = 0x015 then c.vec.psnap
  else if n = 0x016 then BitVec.ofNat 64 (c.vec.intm.toNat * 2 ^ 32 + c.vec.opened.toNat)
  else if n = 0x017 then c.vec.asstat
  else if n = 0x018 then BitVec.ofNat 64 c.cbst
  else if n = 0x019 then c.vec.cbstall
  else if n = 0x01A then c.trp.methctl
  else if n = 0x01B then c.trp.acttab
  else if n = 0x020 then BitVec.ofNat 64 c.trp.level
  else if n = 0x021 then c.trp.bank1.tcause
  else if n = 0x022 then c.trp.bank1.tepc
  else if n = 0x023 then c.trp.bank1.tstat
  else if n = 0x024 then c.trp.bank1.tsave
  else if n = 0x025 then c.trp.bank1.tbun
  else if n = 0x029 then c.trp.bank2.tcause
  else if n = 0x02A then c.trp.bank2.tepc
  else if n = 0x02B then c.trp.bank2.tstat
  else if n = 0x02C then c.trp.bank2.tsave
  else if n = 0x02D then c.trp.bank2.tbun
  else if n = 0x030 then BitVec.ofNat 64 s.coreno
  else if n = 0x031 then BitVec.ofNat 64 c.unitrec
  else if n = 0x032 then c.trp.ctxpool
  else if n = 0x033 then BitVec.ofNat 64 c.trp.dbgmode
  else 0

/-- R254: a read of IQPOP pops the head where it is a value; the pop acts as a FENCE.acq.sys placed just after it. Beside a SLOOP in S0 of its bundle that
pops a token it meets the queue without the token. DESIGN CHOICE: log entry 111. -/
def State.popIq (s : State) (h : Head) (q : Nat) : Double × State :=
  match s.core.iqueue q with
  | .value v :: rest => (1#64 <<< 63 ||| v.setWidth 64, (s.setIqueue q rest).enqPlain false h false (.acqTok 3 none))
  | _ => (0, s)

def semMfs (sl : SSlot) (h : Head) (dst : BitVec 5) (wbs : Bool) (spr : BitVec 12) : SlotSem :=
  { op := fun p s => guarded h p s fun s =>
      let n := spr.toNat
      if 0x01C ≤ n ∧ n ≤ 0x01F then
        let (v, s) := s.popIq h (n - 0x01C)
        .ok (s.land sl h dst wbs v 1)
      else .ok (s.land sl h dst wbs (p.readSpr n) 1)
    wait := noWait }

/-- R343: the write is made at the end of the bundle (`mtsWrite`). -/
def semMts (sl : SSlot) (h : Head) (spr : BitVec 12) (a : BitVec 6) : SlotSem :=
  { op := fun p s => guarded h p s fun s => .ok (s.modSca fun c => { c with late := c.late ++ [(spr.toNat, p.core.src sl false a)] })
    wait := noWait }

/-! ### Time and counters (R345, R346) -/

def semTime (sl : SSlot) (h : Head) (dst : BitVec 5) (wbs : Bool) (selv : BitVec 2) : SlotSem :=
  { op := fun p s => guarded h p s fun s =>
      .ok (if selv = 0 then s.land sl h dst wbs (BitVec.ofNat 64 p.pkg.gts) 4 else s.land sl h dst wbs (BitVec.ofNat 64 p.clk) 1)
    wait := noWait }

def semPerfrd (sl : SSlot) (h : Head) (dst : BitVec 5) (wbs : Bool) (cnt : BitVec 8) : SlotSem :=
  { op := fun p s => guarded h p s fun s => .ok (s.land sl h dst wbs (fget 0 p.core.un.perf cnt.toNat) 1)
    wait := noWait }

/-- TRAP (R341). Raises SWTRAP with a code. -/
def execTrap (h : Head) (code : BitVec 16) (s : State) : Host.Outcome State Fault Refusal :=
  issueSingle (.trap h code) (semTrap h code) s

/-- DBGBRK (R341). Raises DBGBRK with a code. -/
def execDbgbrk (h : Head) (code : BitVec 16) (s : State) : Host.Outcome State Fault Refusal :=
  issueSingle (.dbgbrk h code) (semDbgbrk h code) s

/-- TRET (R342). Returns from a trap level, restoring held operands and redirect and re-injecting records. -/
def execTret (h : Head) (s : State) : Host.Outcome State Fault Refusal :=
  issueSingle (.tret h) (semTret h) s

/-- MFS (R343). Reads a special register; an IQPOP read pops a value. -/
def execMfs (sl : SSlot) (h : Head) (dst : BitVec 5) (wbs : Bool) (spr : BitVec 12) (s : State) : Host.Outcome State Fault Refusal :=
  issueSingle (.mfs sl h dst wbs spr) (semMfs sl h dst wbs spr) s

/-- MTS (R343). Writes a special register. -/
def execMts (sl : SSlot) (h : Head) (spr : BitVec 12) (a : BitVec 6) (s : State) : Host.Outcome State Fault Refusal :=
  issueSingle (.mts sl h spr a) (semMts sl h spr a) s

/-- TIME (R345). Reads GTS or the clk count. -/
def execTime (sl : SSlot) (h : Head) (dst : BitVec 5) (wbs : Bool) (selv : BitVec 2) (s : State) : Host.Outcome State Fault Refusal :=
  issueSingle (.time sl h dst wbs selv) (semTime sl h dst wbs selv) s

/-- PERFRD (R346). Reads a performance counter. -/
def execPerfrd (sl : SSlot) (h : Head) (dst : BitVec 5) (wbs : Bool) (cnt : BitVec 8) (s : State) : Host.Outcome State Fault Refusal :=
  issueSingle (.perfrd sl h dst wbs cnt) (semPerfrd sl h dst wbs cnt) s

end Sys2Proof.Machine
end

