-- ==== Sys2Proof/Machine/Issue.lean ====
section
/-! DEFINITION. A fetched bundle: what each slot operation does in it, the fetch (R75, R104, R303), BUNDLE_ISSUE and TLB_WALK. -/

namespace Sys2Proof.Machine

/-- What an event is as an operation of a bundle: no bundle holds one. -/
def noSem : SlotSem := { op := fun _ s => .ok s, wait := noWait }

/-- What each operation does at issue and waits for. -/
def issueSem (i : Instr) : SlotSem :=
  match i with
  | .bundleIssue => noSem
  | .resultLand => noSem
  | .assayReplay => noSem
  | .tlbWalk => noSem
  | .queueDispatch _ => noSem
  | .accessPerformed _ => noSem
  | .writeAcknowledgement => noSem
  | .cellOperation _ => noSem
  | .resolveOnFire _ => noSem
  | .trapTake => noSem
  | .preemptionDue => noSem
  | .preemption => noSem
  | .contextSave => noSem
  | .contextRestore => noSem
  | .depth => noSem
  | .unitPickup => noSem
  | .queuePromotion _ _ => noSem
  | .chunkGrant _ => noSem
  | .levelCompletion _ _ => noSem
  | .dispatchDecision _ => noSem
  | .copyBeatTransfer _ => noSem
  | .progressEntryPush _ => noSem
  | .commandEnd _ => noSem
  | .feWait _ => noSem
  | .qFull _ => noSem
  | .qpushDelivery _ => noSem
  | .syncwWrite _ => noSem
  | .prefetchFill _ _ => noSem
  | .hoistTileIn _ => noSem
  | .hoistTileOut _ => noSem
  | .tfillIndexWrite => noSem
  | .cbfillSlotWrite => noSem
  | .setComplete _ => noSem
  | .shiftChangeRelease => noSem
  | .switchWithdrawal => noSem
  | .collRendezvous _ => noSem
  | .noPeer _ => noSem
  | .collTransfer _ => noSem
  | .precisionCounterUpdate _ _ => noSem
  | .cancelArrival _ => noSem
  | .carveMoveEnd => noSem
  | .adaptiveIntervalEnd => noSem
  | .hostWrite _ _ _ => noSem
  | .hostRead _ _ _ => noSem
  | .ingressFlush => noSem
  | .hostPortDown _ => noSem
  | .sqtailWrite _ _ => noSem
  | .sqcfgWrite _ _ => noSem
  | .sqheadWrite _ _ => noSem
  | .cqheadWrite _ _ => noSem
  | .registerWrite _ _ => noSem
  | .cardFetch _ => noSem
  | .submit _ => noSem
  | .completionEvent _ => noSem
  | .peerAccess _ _ => noSem
  | .peerUnreachable _ => noSem
  | .gtsSync _ => noSem
  | .linkPortChange _ _ => noSem
  | .powerOnReset => noSem
  | .clockChange _ => noSem
  | .thermalTrip => noSem
  | .heartbeatMiss _ => noSem
  | .dieLoss _ => noSem
  | .stackRowSpare _ _ => noSem
  | .pseudoChannelSpare _ _ => noSem
  | .laneRetrain _ => noSem
  | .info => noSem
  | .jobnew => noSem
  | .jobend => noSem
  | .map => noSem
  | .unmap => noSem
  | .load => noSem
  | .unload => noSem
  | .resume => noSem
  | .kill => noSem
  | .debug => noSem
  | .cap => noSem
  | .ckpt => noSem
  | .restore => noSem
  | .attest => noSem
  | .patch => noSem
  | .logrd => noSem
  | .dieoff => noSem
  | .linkcfg => noSem
  | .reset => noSem
  | .badcmd => noSem
  | .nop sl h => semNop sl h
  | .addW sl h o => semAddW sl h o
  | .addD sl h o => semAddD sl h o
  | .subW sl h o => semSubW sl h o
  | .subD sl h o => semSubD sl h o
  | .mulW sl h o => semMulW sl h o
  | .mulD sl h o => semMulD sl h o
  | .mulhW sl h o => semMulhW sl h o
  | .mulhD sl h o => semMulhD sl h o
  | .mulhuW sl h o => semMulhuW sl h o
  | .mulhuD sl h o => semMulhuD sl h o
  | .divW sl h o => semDivW sl h o
  | .divD sl h o => semDivD sl h o
  | .divuW sl h o => semDivuW sl h o
  | .divuD sl h o => semDivuD sl h o
  | .remW sl h o => semRemW sl h o
  | .remD sl h o => semRemD sl h o
  | .remuW sl h o => semRemuW sl h o
  | .remuD sl h o => semRemuD sl h o
  | .addiW sl h o => semAddiW sl h o
  | .addiD sl h o => semAddiD sl h o
  | .and sl h o => semAnd sl h o
  | .or sl h o => semOr sl h o
  | .xor sl h o => semXor sl h o
  | .andn sl h o => semAndn sl h o
  | .shl sl h o => semShl sl h o
  | .shr sl h o => semShr sl h o
  | .sar sl h o => semSar sl h o
  | .rotl sl h o => semRotl sl h o
  | .clz sl h o => semClz sl h o
  | .ctz sl h o => semCtz sl h o
  | .popc sl h o => semPopc sl h o
  | .min sl h o => semMin sl h o
  | .max sl h o => semMax sl h o
  | .minu sl h o => semMinu sl h o
  | .maxu sl h o => semMaxu sl h o
  | .seq sl h o => semSeq sl h o
  | .sne sl h o => semSne sl h o
  | .slt sl h o => semSlt sl h o
  | .sltu sl h o => semSltu sl h o
  | .sle sl h o => semSle sl h o
  | .sleu sl h o => semSleu sl h o
  | .sel sl h o => semSel sl h o
  | .andi sl h o => semAndi sl h o
  | .ori sl h o => semOri sl h o
  | .xori sl h o => semXori sl h o
  | .shli sl h o => semShli sl h o
  | .shri sl h o => semShri sl h o
  | .sari sl h o => semSari sl h o
  | .movw sl h o => semMovw sl h o
  | .limm h o => semLimm h o
  | .bfx sl h o => semBfx sl h o
  | .bfxu sl h o => semBfxu sl h o
  | .bfi sl h o => semBfi sl h o
  | .bset sl h o => semBset sl h o
  | .bclr sl h o => semBclr sl h o
  | .btst sl h o => semBtst sl h o
  | .addp sl h o => semAddp sl h o
  | .br h off => semBr h off
  | .brl h dst wbs off => semBrl h dst wbs off
  | .bri h a imm => semBri h a imm
  | .ret h a => semRet h a
  | .loop h lc off => semLoop h lc off
  | .loopSet h lc a => semLoopSet h lc a
  | .sloop h iq xg xb off => semSloop h iq xg xb off
  | .spset h mask a => semSpset h mask a
  | .ldb h o => semLdb h o
  | .ldbu h o => semLdbu h o
  | .ldh h o => semLdh h o
  | .ldhu h o => semLdhu h o
  | .ldw h o => semLdw h o
  | .ldwu h o => semLdwu h o
  | .ldd h o => semLdd h o
  | .stb h o => semStb h o
  | .sth h o => semSth h o
  | .stw h o => semStw h o
  | .std h o => semStd h o
  | .rinv h a b => semRinv h a b
  | .aadd h o => semAadd h o
  | .amin h o => semAmin h o
  | .aminu h o => semAminu h o
  | .amax h o => semAmax h o
  | .amaxu h o => semAmaxu h o
  | .aand h o => semAand h o
  | .aor h o => semAor h o
  | .axor h o => semAxor h o
  | .aswap h o => semAswap h o
  | .acas h o => semAcas h o
  | .phase h a => semPhase h a
  | .carve h a => semCarve h a
  | .fence h ord scp => semFence h ord scp
  | .qalign h => semQalign h
  | .tlwait h tl a => semTlwait h tl a
  | .tlread h dst wbs tl => semTlread h dst wbs tl
  | .tswap h a => semTswap h a
  | .tstatr sl h dst wbs selv => semTstatr sl h dst wbs selv
  | .tdset sl h treg a gmask => semTdset sl h treg a gmask
  | .pcnt sl h dst wbs a => semPcnt sl h dst wbs a
  | .pwait h a b => semPwait h a b
  | .tagget h dst wbs a => semTagget h dst wbs a
  | .tagset h a b => semTagset h a b
  | .dispatch h dst wbs a => semDispatch h dst wbs a
  | .mlook h dst wbs a => semMlook h dst wbs a
  | .cellmk h a b => semCellmk h a b
  | .cellmkFut h a => semCellmkFut h a
  | .resolve h a b => semResolve h a b
  | .resolveOn h a b tl => semResolveOn h a b tl
  | .freg h dst wbs a b => semFreg h dst wbs a b
  | .spawn h a b => semSpawn h a b
  | .suspend h a off => semSuspend h a off
  | .finish h a => semFinish h a
  | .launch h dst wbs a => semLaunch h dst wbs a
  | .chunk h dst wbs => semChunk h dst wbs
  | .cntrd h dst wbs a lvl => semCntrd h dst wbs a lvl
  | .cancel h a lvl => semCancel h a lvl
  | .specev h a b => semSpecev h a b
  | .trap h code => semTrap h code
  | .dbgbrk h code => semDbgbrk h code
  | .tret h => semTret h
  | .mfs sl h dst wbs spr => semMfs sl h dst wbs spr
  | .mts sl h spr a => semMts sl h spr a
  | .time sl h dst wbs selv => semTime sl h dst wbs selv
  | .perfrd sl h dst wbs cnt => semPerfrd sl h dst wbs cnt
  | .xex h idx psel => semXex h idx psel
  | .xpnd h o => semXpnd h o
  | .xpndi h o => semXpndi h o
  | .xpos h gs ts gd td => semXpos h gs ts gd td
  | .xcvtw h o => semXcvtw h o
  | .kld h kn a sz ofs => semKld h kn a sz ofs
  | .kset h kn a mode j => semKset h kn a mode j
  | .kmov h kd ks => semKmov h kd ks
  | .cpy h a b ctx => semCpy h a b ctx
  | .cpyg h a b ctx => semCpyg h a b ctx
  | .cpys h a b ctx => semCpys h a b ctx
  | .cpyt h a b ctx => semCpyt h a b ctx
  | .cpyx h a b ctx => semCpyx h a b ctx
  | .cpyz h a b ctx => semCpyz h a b ctx
  | .cpyw h a b ctx sfmt dfmt => semCpyw h a b ctx sfmt dfmt
  | .cfill h a b ctx => semCfill h a b ctx
  | .strm h a sid tgt depthm1 => semStrm h a sid tgt depthm1
  | .strmx h a sid => semStrmx h a sid
  | .syncw h a b ctx g => semSyncw h a b ctx g
  | .hsub h a b sid dir => semHsub h a b sid dir
  | .hrel h sid => semHrel h sid
  | .cbfill h a bank smask => semCbfill h a bank smask
  | .qpush h a b ctx iq tok => semQpush h a b ctx iq tok
  | .tfill h a b gmask => semTfill h a b gmask
  | .coll h a kind ctx => semColl h a kind ctx
  | .pcancel h a => semPcancel h a

/-! ### Fetch -/

/-- A cause of the fetch of the bundle at pc: no slot raised it. -/
def fetchCause (c : Cause) (pc : Nat) : CauseInfo := slotCause c 15 0 (va56 pc)

/-- R303: the due bundle is the unit's first, at an ENTRY outside its object's code section. -/
def Core.entryOutside (c : Core) : Bool :=
  decide (c.un.codeLen ≤ recWord c.un.recd 2) && decide (c.sca.pc = va56 (c.un.code + recWord c.un.recd 2) / 32 * 32)

/-- The bundle at pc, or the precise cause its fetch raises: XFETCH (R75, R104, R303), MEMUE (R75), or TABINV where the unit's
image could not be bound (R303). A bundle that the scanner would have rejected raises XFETCH (R74). DESIGN CHOICE: log entry 92. -/
def fetchBundle (s : State) : Except CauseInfo Bundle :=
  let pc := s.core.sca.pc
  match fetchPa s pc with
  | .error .memue => .error (fetchCause .memue pc)
  | .error _ => .error (fetchCause .xfetch pc)
  | .ok pa =>
    if s.core.entryOutside then .error (fetchCause .xfetch pc)
    else if badData s.pkg pa 32 then .error (fetchCause .memue pc)
    else match decodeBundle (readNat s.pkg pa 32) with
      | .error _ => .error (fetchCause .xfetch pc)
      | .ok b => if s.core.tab.bindBad ∧ s.core.trp.level = 0 then .error { tabinv s.core with slot := 15 } else .ok b

/-! ### BUNDLE_ISSUE -/

/-- The turn of the current core in this clk: its due bundle issues, waits or faults; a unit that is leaving makes its waits. -/
def coreTurn (s : State) : State :=
  match s.core.un.st with
  | .running => boundary issueSem mtsWrite (shiftChange issueSem) fetchBundle s
  | .leaving how => leaveTurn how s
  | _ => s

/-- BUNDLE_ISSUE (R52, R64, R102). -/
def execBundleIssue (s : State) : Host.Outcome State Fault Refusal := if stopped s then .next s else finishTurn (coreTurn s)

/-! ### TRAP_TAKE and PREEMPTION (R337, R347) -/

/-- TRAP_TAKE (R337): at a boundary, the first reported cause is taken. -/
def trapTake (s : State) : State :=
  let open' := match s.core.un.st with
    | .running => atBoundary issueSem fetchBundle s && !s.core.trp.stepDue
    | .leaving (.suspend ..) | .leaving (.finish _) | .leaving (.cellWait ..) =>
      s.core.sca.inflight.isEmpty && s.core.trp.assay.isNone && s.core.trp.reentry.isNone && s.core.sca.cellStall.isNone
    | _ => false
  match reportDue s with
  | some r => if open' then takeReport s r else s
  | none => s

def execTrapTake (s : State) : Host.Outcome State Fault Refusal := event trapTake s

/-- PREEMPTION: the unit stops at a boundary, what is in flight is kept, and its context will be saved. -/
def preemptNow (s : State) : State :=
  if s.core.trp.preemptDue ∧ s.mayPreempt ∧ reportDue s = none ∧ s.core.trp.stepDue = false ∧ atBoundary issueSem fetchBundle s then
    (s.modTrp fun t => { t with preemptDue := false }).freeze .preempt
  else s

def execPreemption (s : State) : Host.Outcome State Fault Refusal := event preemptNow s

/-! ### TLB_WALK (R119) -/

/-- The address whose translation an operation needs at issue; `none` where it needs none, or will fault before it. -/
def accessAddr (i : Instr) (p : State) : Option Nat :=
  let a1 (f : BitVec 6) : Nat := (p.core.src .s1 false f).toNat
  let ld (size : Nat) (h : Head) (o : LoadOps) : Option Nat :=
    let ea := (effAddr (p.core.src .s1 false o.srcA) o.pi o.ofs).toNat
    if guardOf h p.core && !killed h p.core && ea % size == 0 then some ea else none
  let st (size : Nat) (h : Head) (o : StoreOps) : Option Nat :=
    let ea := (effAddr (p.core.src .s1 false o.srcA) o.pi o.ofs).toNat
    if guardOf h p.core && !killed h p.core && ea % size == 0 then some ea else none
  let at' (align : Nat) (h : Head) (f : BitVec 6) : Option Nat :=
    if guardOf h p.core && !killed h p.core && a1 f % align == 0 then some (a1 f) else none
  match i with
  | .ldb h o | .ldbu h o => ld 1 h o
  | .ldh h o | .ldhu h o => ld 2 h o
  | .ldw h o | .ldwu h o => ld 4 h o
  | .ldd h o => ld 8 h o
  | .stb h o => st 1 h o
  | .sth h o => st 2 h o
  | .stw h o => st 4 h o
  | .std h o => st 8 h o
  | .aadd h o | .amin h o | .aminu h o | .amax h o | .amaxu h o | .aand h o | .aor h o | .axor h o | .aswap h o | .acas h o =>
    at' (if o.sz then 8 else 4) h o.srcA
  | .tagget h _ _ a | .tagset h a _ => at' 1 h a
  | .cellmk h a _ | .cellmkFut h a | .resolve h a _ | .resolveOn h a _ _ | .freg h _ _ a _ | .specev h a _ => at' 64 h a
  | _ => none

/-- The page the due bundle waits for, if its micro-TLB misses. -/
def missPage (s : State) : Option Nat :=
  if s.core.un.st ≠ .running then none
  else match fetchBundle s with
    | .error _ => none
    | .ok b =>
      let p := openBundle false b s
      match (bundleOps b).filterMap (fun i => accessAddr i p) with
      | [] => none
      | a :: _ => match tlbWait a s with | .go => none | _ => some (pageNo a)

/-- The walk of the miss ends: its page enters the micro-TLB of 256 entries, or its fault will be found at issue. Which entry
makes room a program cannot tell; the oldest does. -/
def tlbWalk (s : State) : State :=
  match missPage s with
  | none => s
  | some pg =>
    let s := s.perf 11 1
    match walk s.pkg s.root (pg * 65536) with
    | .ok _ => s.modLsu fun l => { l with utlb := (pg :: l.utlb).take 256 }
    | .error _ => s.modLsu fun l => { l with walked := some pg }

def execTlbWalk (s : State) : Host.Outcome State Fault Refusal := event tlbWalk s

end Sys2Proof.Machine
end

