-- ==== Sys2Proof/Machine/HostIo.lean ====
section
/-! DEFINITION. What reaches the package from outside: host reads and writes (R355 to R357), the submission and completion rings
(R359 to R361), peers and time over the device links (R368 to R370), clock and temperature (R371), and the spares of R377. -/

namespace Sys2Proof.Machine

/-- Something from outside the package, or of its controllers: it happens in every package state. DESIGN CHOICE: log entry 76. -/
def outside (f : State → State) (s : State) : Host.Outcome State Fault Refusal := .next (f s)

/-- Something the host asks: it reaches the device while a host port is up (R21, R355). -/
def fromHost (f : State → State) (s : State) : Host.Outcome State Fault Refusal := outside (fun s => if hostOpen s.pkg then f s else s) s

/-! ### CRC-32C (R360) -/

/-- One bit of a reflected CRC. -/
def crcBit (c : Nat) : Nat := if c % 2 = 1 then (c / 2) ^^^ 0x82F63B78 else c / 2

def crcByte (c : Nat) (b : Byte) : Nat :=
  crcBit (crcBit (crcBit (crcBit (crcBit (crcBit (crcBit (crcBit (c ^^^ b.toNat))))))))

/-- R360: the Castagnoli polynomial 0x1EDC_6F41, bit-reflected. -/
def crc32c (bs : List Byte) : Nat := bs.foldl crcByte 0xFFFFFFFF ^^^ 0xFFFFFFFF

/-! ### The fetcher (R360) -/

/-- Slot HEAD of a ring. -/
def ringCard (p : Pkg) (r : Ring) : List Byte := readBytes p (r.base + 64 * (r.head % 2 ^ r.logsz)) 64

/-- R360: the card is the one due, whole. -/
def cardArrived (p : Pkg) (r : Ring) : Bool :=
  let c := ringCard p r
  !badData p (r.base + 64 * (r.head % 2 ^ r.logsz)) 64 && fld (leNat c) 448 32 == r.head && fld (leNat c) 480 32 == crc32c (c.take 60)

/-- R360: the ring fetches: it is enabled and not stopped, and a card is due. -/
def Ring.fetching (r : Ring) : Bool := r.en && !r.stop && r.head != r.tail

/-- The graph slot of a host card. -/
def cardGraph (card : BitVec 512) : Nat := cardFld card 38 16

/-- R311: the checks of a host card. The bits of GRAPH above 4,095 count as reserved. DEDUCED: log entry 55. -/
def hostCardOk (p : Pkg) (card : BitVec 512) : Bool := cardOk p (cardGraph card) card && decide (cardGraph card < 4096)

/-- R318: whether a level around a graph has been cancelled and is not complete. -/
def graphCancelled (p : Pkg) (g : Nat) : Bool :=
  match graphAt p g with
  | some x => x.cancelled || (match fget none p.phases (phaseKey x.job x.phase) with | some l => l.cancelled | none => false) ||
      (match fget none p.jobs x.job with | some j => j.level.cancelled | none => false)
  | none => false

/-- R361: the cause word of a rejected card. DEDUCED: log entry 55. -/
def badcardWord : Double := causeWord (hostCause .badcard 5 0)

/-- R360, R311: card HEAD, which has been read, is accepted or rejected. DESIGN CHOICE: log entry 131 (LSLOT of a rejected card). -/
def takeCard (q : Nat) (card : BitVec 512) (s : State) : State :=
  let r := ringOf s.pkg q
  let ok := hostCardOk s.pkg card
  let s := s.modRing q fun r => { r with head := (r.head + 1) % 2 ^ 32, first := none, got := none }
  if !ok then s.ringEvent q r.head 0 3 badcardWord.toNat
  else
    let g := cardGraph card
    let s := s.openGraph g r.job (cardFld card 14 16) q r.head
    let slot := freeSlot s.pkg
    let s := s.addLaunch slot (Launch.ofCard card r.job (cardFld card 12 32) g q r.head true)
    let s := s.ringEvent q r.head slot 1 0
    if graphCancelled s.pkg g then s.cancelLevel .launch slot else s

/-- R361: a card that has been read is accepted or rejected once no event of the ring waits. -/
def acceptCard (q : Nat) (s : State) : State :=
  let r := ringOf s.pkg q
  match r.got with
  | some card => if r.fetching ∧ r.events = [] then takeCard q card s else s
  | none => s

/-- R360: one read of slot HEAD. It takes the card due if that is there; else the first read begins the window of 2^16 clk, and a read at
its end stops the ring. -/
def fetchLoop (q : Nat) (s : State) : State :=
  let r := ringOf s.pkg q
  if r.got.isSome then s
  else if cardArrived s.pkg r then
    s.modRing q fun r => { r with got := some (BitVec.ofNat 512 (leNat (ringCard s.pkg r))), first := none }
  else if r.first.getD s.clk + 2 ^ 16 ≤ s.clk then s.raiseSubmit q
  else s.modRing q fun r => { r with first := some (r.first.getD s.clk) }

/-- CARD_FETCH (R360): one read of slot HEAD, and the acceptance of what has been read. -/
def cardFetch (q : Nat) (s : State) : State :=
  if q < 16 ∧ (ringOf s.pkg q).fetching then acceptCard q (fetchLoop q s) else s

def execCardFetch (q : Nat) (s : State) : Host.Outcome State Fault Refusal := event (cardFetch q) s

/-- R360: the window of a ring has ended, and the read of its end is due. -/
def submitDue (q : Nat) (s : State) : Bool :=
  match (ringOf s.pkg q).first with
  | some t => decide (q < 16) && (ringOf s.pkg q).fetching && decide (t + 2 ^ 16 ≤ s.clk)
  | none => false

/-- SUBMIT (R149, R360): the read at the end of the window. -/
def submitNow (q : Nat) (s : State) : State := if submitDue q s then cardFetch q s else s

def execSubmit (q : Nat) (s : State) : Host.Outcome State Fault Refusal := event (submitNow q) s

/-! ### Completion events (R361) -/

/-- The key under which memory holds a host address: the host window (R115) where it reaches, above every physical address else. -/
def hostKey (a : Nat) : Nat := if a < 2 ^ 48 then 0xA_0000_0000_0000 + a else 2 ^ 56 + a

/-- COMPLETION_EVENT: the oldest waiting entry, while the ring has room and a host port is up. -/
def completionEvent (q : Nat) (s : State) : State :=
  let r := ringOf s.pkg q
  match r.events with
  | [] => s
  | (d0, d1) :: rest =>
    if q < 16 ∧ hostOpen s.pkg ∧ sub32 r.cqtail r.cqhead < 2 ^ r.logsz then
      let a := (r.cqbase + 16 * (r.cqtail % 2 ^ r.logsz)) % 2 ^ 64
      let s := s.modPkg fun p => writeBytes p (hostKey a) (leBytes 8 d0 ++ leBytes 8 d1)
      (s.modRing q fun r => { r with cqtail := (r.cqtail + 1) % 2 ^ 32, events := rest }).modMgmt fun m => { m with msix := m.msix ++ [q] }
    else s

def execCompletionEvent (q : Nat) (s : State) : Host.Outcome State Fault Refusal := outside (completionEvent q) s

/-! ### Ring and device registers (R358, R359) -/

def execSqtailWrite (q : Nat) (v : Double) (s : State) : Host.Outcome State Fault Refusal :=
  fromHost (fun s => if q < 16 then s.writeSqtail q v.toNat else s) s
def execSqcfgWrite (q : Nat) (v : Double) (s : State) : Host.Outcome State Fault Refusal :=
  fromHost (fun s => if q < 16 then s.writeSqcfg q v.toNat else s) s
def execSqheadWrite (q : Nat) (v : Double) (s : State) : Host.Outcome State Fault Refusal :=
  fromHost (fun s => if q < 16 then s.writeSqhead q v.toNat else s) s
def execCqheadWrite (q : Nat) (v : Double) (s : State) : Host.Outcome State Fault Refusal :=
  fromHost (fun s => if q < 16 then s.writeCqhead q v.toNat else s) s
def execRegisterWrite (off : Nat) (v : Double) (s : State) : Host.Outcome State Fault Refusal :=
  fromHost (fun s => s.writeReg (off / 8 * 8) v.toNat) s

/-! ### Host reads and writes (R148, R355 to R357) -/

/-- R355: the port a host write comes through: the one that is up; of two, an open choice. DESIGN CHOICE: log entry 57. -/
def State.viaPort (s : State) (entries : Nat) : Nat :=
  if s.pkg.mgmt.portsDown.contains 0 then 1 else if s.pkg.mgmt.portsDown.contains 1 then 0 else b2n (Config.viaPort s.clk entries)

/-- R148: a write to a core's array. A core that runs no unit applies it on arrival. -/
def arrayWrite (n : Nat) (pa : Nat) (bs : List Byte) (s : State) : State :=
  if (s.coreAt n).un.st = .idle then s.modPkg fun p => writeBytes p pa bs
  else
    s.modCore n fun c =>
      let ingress := c.lsu.ingress ++ [{ pa, bytes := bs, port := s.viaPort c.lsu.ingress.length }]
      { c with lsu := { c.lsu with ingress, ingressFull := if 64 ≤ ingress.length then some (c.lsu.ingressFull.getD s.clk) else none } }

/-- HOST_WRITE (R148, R356): one TLP through a BAR. DESIGN CHOICE: log entry 57. -/
def hostWrite (bar off : Nat) (bs : List Byte) (s : State) : State :=
  if !hostOpen s.pkg then s
  else match bar with
    | 0 => if off + bs.length ≤ 2 ^ 28 then writeRegs (bs.length + 1) off bs s else s
    | 2 => s.modPkg fun p => writeBytes p off (bs.take (hbmEnd - off))
    | 4 =>
      let n := off / arraySlot
      if liveCore s.pkg n ∧ off % arraySlot + bs.length ≤ arraySize then arrayWrite n (arraysBase + off) bs s else s
    | _ => s

def execHostWrite (bar off : Nat) (bytes : List Byte) (s : State) : Host.Outcome State Fault Refusal := outside (hostWrite bar off bytes) s

/-- Bytes a host read through BAR4 returns: what the spec gives no contents for (the fourth MiB of a slot, a lost die's array, what
lies above the arrays) is open. DESIGN CHOICE: log entry 56. -/
def arrayRead (p : Pkg) (off len : Nat) : List Byte :=
  (List.range len).map fun i =>
    let o := off + i
    if liveCore p (o / arraySlot) ∧ o % arraySlot < arraySize then readByte p (arraysBase + o) else Config.freeByte p.free i

/-- HOST_READ (R356): what a read returns; data that fails ECC is not delivered (R353). -/
def hostRead (bar off len : Nat) (s : State) : State :=
  let ret (l : List Byte) (s : State) : State := s.modMgmt fun m => { m with hostData := m.hostData ++ [l] }
  if !hostOpen s.pkg then s
  else match bar with
    | 0 => ret (readRegBytes s off len) s
    | 2 => if badData s.pkg off len then ret [] s
           else ret ((List.range len).map fun i => if off + i < hbmEnd then readByte s.pkg (off + i) else 0) s
    | 4 => if badData s.pkg (arraysBase + off) len then ret [] s
           else let (_, t) := s.takeFree; ret (arrayRead s.pkg off len) t
    | _ => s

def execHostRead (bar off len : Nat) (s : State) : Host.Outcome State Fault Refusal := outside (hostRead bar off len) s

/-- R355: of the writes to an array, those past the 64 entries of its buffer are still on their link (R148): a port that goes down loses its own. -/
def Lsu.losePort (port : Nat) (l : Lsu) : Lsu :=
  { l with ingress := l.ingress.take 64 ++ (l.ingress.drop 64).filter fun x => x.port ≠ port }

def State.losePort (s : State) (port : Nat) : State :=
  let lose (c : Core) : Core := { c with lsu := c.lsu.losePort port }
  { s with core := lose s.core, others := s.others.map fun e => (e.1, lose e.2) }

/-- HOST_PORT_DOWN (R355): requests in flight are lost; what the device holds does not depend on the port. -/
def hostPortDown (port : Nat) (s : State) : State :=
  if port < 2 ∧ !s.pkg.mgmt.portsDown.contains port then (s.losePort port).modMgmt fun m => { m with portsDown := m.portsDown ++ [port] } else s

def execHostPortDown (port : Nat) (s : State) : Host.Outcome State Fault Refusal := outside (hostPortDown port) s

/-! ### Device links (R368 to R370) -/

/-- PEER_ACCESS (R369): an access of another package, performed here. It comes over a link port that is up (R368). -/
def peerAccess (pa : Nat) (k : PeerKind) (s : State) : State :=
  if hbmEnd ≤ pa ∨ s.pkg.mgmt.linksUp = 0 then s
  else
    let ret (l : List Byte) (s : State) : State := s.modMgmt fun m => { m with peerData := m.peerData ++ [l] }
    match k with
    | .read len => if badData s.pkg pa len then ret [] s else ret (readBytes s.pkg pa len) s
    | .write bs => s.modPkg fun p => writeBytes p pa (bs.take (hbmEnd - pa))
    | .atomic op dbl b e =>
      let n := if dbl then 8 else 4
      if badData s.pkg pa n then ret [] s
      else
        let old := readNat s.pkg pa n
        let new := if dbl then (atomNew op.toNat (BitVec.ofNat 64 old) b e).toNat
                   else (atomNew op.toNat (BitVec.ofNat 32 old) (b.setWidth 32) (e.setWidth 32)).toNat
        ret (leBytes n old) (s.modPkg fun p => writeNat p pa n new)
    | .tag v => s.modPkg fun p => setTag p pa v
    | .cells st => s.modPkg fun p => setCell p pa (match st with | 1 => .suspended | 2 => .pending | _ => .value)

def execPeerAccess (pa : Nat) (kind : PeerKind) (s : State) : Host.Outcome State Fault Refusal := outside (peerAccess pa kind) s

/-- GTS_SYNC (R370): GTS never runs backward, and is steered by one count in a clk at most; where it is ahead, its next count is put
off. DEDUCED: log entry 54. -/
def gtsSync (master : Nat) (s : State) : State :=
  let m := s.pkg.mgmt
  if m.gtsSync ∧ !m.gtsMaster ∧ !pkgLost s.pkg s.pkg.env.gtsMaster then
    let s := if s.pkg.gts < master then
               (if s.pkg.gtsSteered then s else s.modPkg fun p => { p with gts := p.gts + 1, gtsSteered := true })
             else if master < s.pkg.gts then s.modPkg fun p => { p with gtsFrac := 0 } else s
    let near := decide (s.pkg.gts ≤ master + 1) && decide (master ≤ s.pkg.gts + 1)
    s.modMgmt fun m => { m with gtsLocked := near }
  else s

def execGtsSync (master : Nat) (s : State) : Host.Outcome State Fault Refusal := outside (gtsSync master) s

/-- R368: the die of a link port. -/
def portDie (port : Nat) : Nat := if port < 8 then port / 2 else port / 2 + 1

/-- LINKST with one port changed; with no live link the GTS of a package that is not the master is not locked (R370). -/
def setPort (port : Nat) (up : Bool) (m : Mgmt) : Mgmt :=
  let l := putFld m.linksUp port 1 (b2n up)
  { m with linksUp := l, gtsLocked := m.gtsLocked && (m.gtsMaster || l != 0) }

/-- LINK_PORT_CHANGE (R368): traffic takes the ports that are left. -/
def linkChange (port : Nat) (up : Bool) (s : State) : State :=
  if 16 ≤ port ∨ (up ∧ !s.pkg.live.contains (portDie port)) then s else s.modMgmt (setPort port up)

def execLinkPortChange (port : Nat) (up : Bool) (s : State) : Host.Outcome State Fault Refusal := outside (linkChange port up) s

/-! ### Clock and temperature (R371) -/

/-- CLOCK_CHANGE: a step of 25 MHz between 800 MHz and 1.7 GHz. DESIGN CHOICE: log entry 77. -/
def clockChange (up : Bool) (s : State) : State :=
  let m := s.pkg.mgmt.mhz
  let n := if up then m + 25 else m - 25
  if 800 ≤ n ∧ n ≤ 1700 then s.modMgmt fun x => { x with mhz := n, msix := x.msix ++ [18] } else s

def execClockChange (up : Bool) (s : State) : Host.Outcome State Fault Refusal := outside (clockChange up) s

/-- THERMAL_TRIP: the package is HALTED. -/
def thermalTrip (s : State) : State := s.modMgmt fun m => { m with pstate := 3, msix := m.msix ++ [18] }

def execThermalTrip (s : State) : Host.Outcome State Fault Refusal := outside thermalTrip s

/-! ### Spares (R377) -/

/-- A spare applied: its kind and where. No program sees it. -/
def State.spare (s : State) (kind place : Nat) : State := s.modMgmt fun m => { m with spared := m.spared ++ [(kind, place)] }

def State.signal (s : State) (vector : Nat) : State := s.modMgmt fun m => { m with msix := m.msix ++ [vector] }

/-- STACK_ROW_SPARE. -/
def execStackRowSpare (stack row : Nat) (s : State) : Host.Outcome State Fault Refusal :=
  outside (fun s => s.spare 0 (stack * 2 ^ 32 + row)) s

/-- PSEUDO_CHANNEL_SPARE: a stack has four. -/
def channelSpare (stack channel : Nat) (s : State) : State :=
  if (s.pkg.mgmt.spared.filter fun x => x.1 == 1 && x.2 / 2 ^ 32 == stack).length < 4 then
    (s.spare 1 (stack * 2 ^ 32 + channel)).signal 19 else s

def execPseudoChannelSpare (stack channel : Nat) (s : State) : Host.Outcome State Fault Refusal := outside (channelSpare stack channel) s

/-- LANE_RETRAIN: traffic is held and none is lost. `link` names a link in one of its directions, which has two spare lanes. DEDUCED: log entry 84. -/
def laneRetrain (link : Nat) (s : State) : State :=
  if (s.pkg.mgmt.spared.filter fun x => x == (2, link)).length < 2 then (s.spare 2 link).signal 19 else s

def execLaneRetrain (link : Nat) (s : State) : Host.Outcome State Fault Refusal := outside (laneRetrain link) s

end Sys2Proof.Machine
end

