-- ==== Sys2Proof/Machine/Pages.lean ====
section
/-! DEFINITION. The controllers' own memory and the page tables they write (R117, R118, R403). -/

namespace Sys2Proof.Machine

/-! ### The controllers' memory -/

/-- Forgets what a physical range holds: bytes and cell states (zero and VALUE). Its tags stay as they are (R286). -/
def wipe (p : Pkg) (lo n : Nat) : Pkg := { p with mem := fclear p.mem lo (lo + n), cells := fclear p.cells (lo / 64) ((lo + n) / 64) }

/-- `n` bytes of the controllers' memory, aligned; `none` where no room is left (NOSPACE). DESIGN CHOICE: log entry 61. -/
def allocHbm (p : Pkg) (n align : Nat) : Option (Nat × Pkg) :=
  if n = 0 ∨ p.mgmt.cursor < n then none
  else
    let a := (p.mgmt.cursor - n) / align * align
    some (a, { wipe p a (p.mgmt.cursor - a) with mgmt := { p.mgmt with cursor := a } })

/-! ### Entries -/

/-- The table an entry points to. -/
def pteNext (e : Nat) : Nat := fld e 12 40 * 4096

/-- R118: a leaf for a physical address with permission bits 11 to 2 of `bits`. -/
def leafPte (pa bits : Nat) : Nat := pa + fld bits 2 10 * 4 + 3

/-- The indices of a table whose ranges meet [lo, hi). -/
def overlap (base shift n lo hi : Nat) : List Nat :=
  let i0 := (max lo base - base) / 2 ^ shift
  let i1 := min (2 ^ n) (cdiv (hi - base) (2 ^ shift))
  (List.range (i1 - i0)).map fun k => i0 + k

/-- Whether a valid leaf that maps part of [lo, hi) passes a test. -/
def anyLeaf (p : Pkg) (test : Nat → Bool) : List (Nat × Nat × Bool) → Nat → Nat → Nat → Nat → Bool
  | [], _, _, _, _ => false
  | (shift, n, _) :: ls, table, base, lo, hi =>
    (overlap base shift n lo hi).any fun i =>
      let e := readNat p (table + 8 * i) 8
      bit e 0 && (if bit e 1 then test e else anyLeaf p test ls (pteNext e) (base + i * 2 ^ shift) lo hi)

/-- Writes a leaf at the level whose index begins at bit `target`; tables that are missing are made. -/
def setLeaf (va target pte : Nat) : List (Nat × Nat × Bool) → Nat → Pkg → Option Pkg
  | [], _, _ => none
  | (shift, n, _) :: ls, table, p =>
    let ea := table + 8 * fld va shift n
    let e := readNat p ea 8
    if shift = target then some (writeNat p ea 8 pte)
    else if bit e 0 then (if bit e 1 then none else setLeaf va target pte ls (pteNext e) p)
    else match allocHbm p 4096 4096 with
      | none => none
      | some (t, p) => setLeaf va target pte ls t (writeNat p ea 8 (t + 1))

/-- R403: the largest leaf that alignment and the remaining length allow. -/
def leafShift (va pa left : Nat) : Nat :=
  if va % 2 ^ 30 = 0 ∧ pa % 2 ^ 30 = 0 ∧ 2 ^ 30 ≤ left then 30
  else if va % 2 ^ 21 = 0 ∧ pa % 2 ^ 21 = 0 ∧ 2 ^ 21 ≤ left then 21
  else 16

/-- Writes the leaves of a range, lowest address first. -/
def mapPieces (root bits : Nat) : Nat → Nat → Nat → Nat → Pkg → Option Pkg
  | 0, _, _, left, p => if left = 0 then some p else none
  | fuel + 1, va, pa, left, p =>
    if left = 0 then some p
    else
      let k := leafShift va pa left
      match setLeaf va k (leafPte pa bits) walkLevels root p with
      | none => none
      | some p => mapPieces root bits fuel (va + 2 ^ k) (pa + 2 ^ k) (left - 2 ^ k) p

/-- R403: maps a range whose pages are unmapped. -/
def mapRange (root va pa bytes bits : Nat) (p : Pkg) : Option Pkg := mapPieces root bits (bytes / 65536) va pa bytes p

/-- R403: the leaves that take the place of one larger leaf, in a new table. -/
def splitLeaf (e table shift n : Nat) (p : Pkg) : Pkg :=
  writeBytes p table ((List.range (2 ^ n)).map fun j => leBytes 8 (e + j * 2 ^ shift)).flatten

/-- R403: removes the mappings of [lo, hi) below a table. -/
def unmapIn : List (Nat × Nat × Bool) → Nat → Nat → Nat → Nat → Pkg → Option Pkg
  | [], _, _, _, _, p => some p
  | (shift, n, _) :: ls, table, base, lo, hi, p =>
    (overlap base shift n lo hi).foldl (fun acc i =>
      match acc with
      | none => none
      | some p =>
        let ea := table + 8 * i
        let e := readNat p ea 8
        let b := base + i * 2 ^ shift
        if !bit e 0 then some p
        else if !bit e 1 then unmapIn ls (pteNext e) b lo hi p
        else if lo ≤ b ∧ b + 2 ^ shift ≤ hi then some (writeNat p ea 8 0)
        else match ls with
          | [] => none
          | (sh, m, _) :: _ =>
            match allocHbm p 4096 4096 with
            | none => none
            | some (t, p) => unmapIn ls t b lo hi (writeNat (splitLeaf e t sh m p) ea 8 (t + 1))) (some p)

/-- R403: the mappings of a range are gone. -/
def unmapRange (root va bytes : Nat) (p : Pkg) : Option Pkg := unmapIn walkLevels root 0 va (va + bytes) p

/-- Whether a page of a range is mapped. -/
def rangeMapped (p : Pkg) (root va bytes : Nat) : Bool := anyLeaf p (fun _ => true) walkLevels root 0 va (va + bytes)

/-- Whether a page of a range is pinned. -/
def rangePinned (p : Pkg) (root va bytes : Nat) : Bool := anyLeaf p (fun e => bit e 11) walkLevels root 0 va (va + bytes)

/-! ### What MAP and UNMAP accept (R403) -/

/-- A virtual range: multiples of 64 KiB, not empty, below the local window. -/
def vaRangeOk (va bytes : Nat) : Bool := va % 65536 == 0 && bytes % 65536 == 0 && bytes != 0 && decide (va + bytes ≤ localBase)

/-- R115: the physical region an address lies in, by number; 0: a reserved range. The slot of a core's array, whose fourth MiB is
reserved, and the window of a peer, whose part beyond the peer's HBM is, are one region each: an access there raises NOPHYS. -/
def regionTag (pa : Nat) : Nat :=
  if pa < hbmEnd then 1
  else if arraysBase ≤ pa ∧ pa < arraysBase + 576 * arraySlot then 1024 + (pa - arraysBase) / arraySlot
  else if 0x9_0000_0000_0000 ≤ pa ∧ pa < 0xA_0000_0000_0000 then 2
  else if 0xA_0000_0000_0000 ≤ pa ∧ pa < 0xB_0000_0000_0000 then 3
  else if 0xC_0000_0000_0000 ≤ pa ∧ pa < 0x10_0000_0000_0000 then 2048 + fld pa 41 9
  else 0

/-- R403: a physical range: a multiple of 64 KiB, within one region. -/
def paRangeOk (pa bytes : Nat) : Bool :=
  pa % 65536 == 0 && regionTag pa != 0 && regionTag pa == regionTag (pa + bytes - 1) && decide (bytes ≤ 2 ^ 50)

/-- R403: the PTE bits of a MAP: no X, no reserved bit, no address. DEDUCED: log entry 63. -/
def pteBitsOk (bits : Nat) : Bool := !bit bits 4 && fld bits 5 2 == 0 && fld bits 12 52 == 0

/-- R119: a range leaves every micro-TLB. -/
def dropTlb (va bytes : Nat) (l : Lsu) : Lsu :=
  let inside (pg : Nat) : Bool := decide (va / 65536 ≤ pg) && decide (pg < (va + bytes) / 65536)
  { l with utlb := l.utlb.filter fun pg => !inside pg, walked := (match l.walked with | some pg => if inside pg then none else some pg | none => none) }

/-- The virtual address of a queued access that has been translated. -/
def QOp.vaOf : QOp → Option Nat
  | .load va .. | .loadBefore va .. | .store va .. | .atomic _ va .. | .tagget va _ | .tagset va _ _ | .cellmk va .. | .resolve va .. | .resolveOn va ..
  | .freg va .. | .specev va .. => some (va56 va)
  | _ => none

/-- R119: an access of a core already translated by a range, that of an armed resolution among them. -/
def Core.touches (c : Core) (va bytes : Nat) : Bool :=
  let inside (a : Nat) : Bool := decide (va ≤ a) && decide (a < va + bytes)
  ((c.lsu.loadQ ++ c.lsu.storeQ ++ c.lsu.outst).any fun e => match e.op.vaOf with | some a => inside a | none => false) ||
    c.eng.armed.any fun a => inside (va56 a.va)

end Sys2Proof.Machine
end

