-- ==== Sys2Proof/Machine/Sha.lean ====
section
/-! DEFINITION. SHA-384 (R81, R381, R382), on bytes. The spec names the function; its definition is that of FIPS 180-4. -/

namespace Sys2Proof.Machine

def w64 (x : Nat) : Nat := x % 2 ^ 64
def rotr64 (n x : Nat) : Nat := (x >>> n) ||| ((x <<< (64 - n)) % 2 ^ 64)

/-- The primes below 410: the first eighty. A composite number below 441 has a divisor from 2 to 20. -/
def shaPrimes : List Nat :=
  (List.range 410).filter fun n => decide (1 < n) && (List.range 19).all fun d => n % (d + 2) != 0 || n == d + 2

/-- The largest `r + x` with `x` below 2^`k` whose image under `f` is at most `n`, found from its top bit downward. -/
def searchRoot (f : Nat → Nat) (n : Nat) : Nat → Nat → Nat
  | 0, r => r
  | k + 1, r => searchRoot f n k (if f (r + 2 ^ k) ≤ n then r + 2 ^ k else r)

/-- A round constant: the first 64 bits of the fraction of a prime's cube root. -/
def cubeFraction (p : Nat) : Nat := w64 (searchRoot (fun r => r * r * r) (p * 2 ^ 192) 67 0)

/-- A word of the initial state: the first 64 bits of the fraction of a prime's square root. -/
def squareFraction (p : Nat) : Nat := w64 (searchRoot (fun r => r * r) (p * 2 ^ 128) 67 0)

def shaK : List Nat := shaPrimes.map cubeFraction

/-- The initial values of SHA-384 belong to the ninth to the sixteenth prime. -/
def sha384Init : List Nat := ((shaPrimes.drop 8).take 8).map squareFraction

def bigSigma0 (x : Nat) : Nat := rotr64 28 x ^^^ rotr64 34 x ^^^ rotr64 39 x
def bigSigma1 (x : Nat) : Nat := rotr64 14 x ^^^ rotr64 18 x ^^^ rotr64 41 x
def smallSigma0 (x : Nat) : Nat := rotr64 1 x ^^^ rotr64 8 x ^^^ (x >>> 7)
def smallSigma1 (x : Nat) : Nat := rotr64 19 x ^^^ rotr64 61 x ^^^ (x >>> 6)

/-- The message schedule: sixteen words held, oldest first; each round takes the first and adds one. -/
def shaNextW (w : List Nat) : Nat :=
  w64 (smallSigma1 (w.getD 14 0) + w.getD 9 0 + smallSigma0 (w.getD 1 0) + w.getD 0 0)

/-- The rounds of one block: constants left, schedule, working variables a to h. -/
def shaRounds : List Nat → List Nat → Nat → Nat → Nat → Nat → Nat → Nat → Nat → Nat → List Nat
  | [], _, a, b, c, d, e, f, g, h => [a, b, c, d, e, f, g, h]
  | k :: ks, w, a, b, c, d, e, f, g, h =>
    let ch := (e &&& f) ^^^ ((2 ^ 64 - 1 - e) &&& g)
    let t1 := h + bigSigma1 e + ch + k + w.getD 0 0
    let maj := (a &&& b) ^^^ (a &&& c) ^^^ (b &&& c)
    shaRounds ks (w.drop 1 ++ [shaNextW w]) (w64 (t1 + bigSigma0 a + maj)) a b c (w64 (d + t1)) e f g

/-- The big-endian number of some bytes. -/
def beNat (bs : List Byte) : Nat := bs.foldl (fun a b => a * 256 + b.toNat) 0

/-- The `n` big-endian bytes of a number. -/
def beBytes (n x : Nat) : List Byte := (leBytes n x).reverse

/-- One block of 128 bytes. -/
def shaBlock (st : List Nat) (bs : List Byte) : List Nat :=
  let w := (List.range 16).map fun i => beNat ((bs.drop (8 * i)).take 8)
  let g (i : Nat) : Nat := st.getD i 0
  let r := shaRounds shaK w (g 0) (g 1) (g 2) (g 3) (g 4) (g 5) (g 6) (g 7)
  (st.zip r).map fun (x, y) => w64 (x + y)

/-- The blocks of a message. -/
def shaBlocks : Nat → List Nat → List Byte → List Nat
  | 0, st, _ => st
  | n + 1, st, bs => shaBlocks n (shaBlock st (bs.take 128)) (bs.drop 128)

/-- SHA-384: 48 bytes. PRESUMED: log entry 58. -/
def sha384 (m : List Byte) : List Byte :=
  let l := m.length
  let zeros := (239 - l % 128) % 128
  let p := m ++ [0x80] ++ List.replicate zeros 0 ++ beBytes 16 (8 * l)
  (((shaBlocks (p.length / 128) sha384Init p).take 6).map (beBytes 8)).flatten

end Sys2Proof.Machine
end

