-- ==== Sys2Proof/Machine/Loader.lean ====
section
/-! DEFINITION. The loader (R81 to R83, R292, R293, R363 to R365, R405) and the code-page scanner (R72, R73). -/

namespace Sys2Proof.Machine

/-! ### The image (R81, R82) -/

/-- Bytes of an image, and a little-endian number in it. -/
def part (img : List Byte) (off n : Nat) : List Byte := (img.drop off).take n
def imgNat (img : List Byte) (off n : Nat) : Nat := leNat (part img off n)

/-- A directory entry. -/
structure Sect where
  typ : Nat
  flags : Nat
  off : Nat
  size : Nat
  deriving DecidableEq, Repr

def readDir (img : List Byte) : List Sect :=
  (List.range (imgNat img 12 4)).map fun i =>
    let o := 64 + 16 * i
    { typ := imgNat img o 2, flags := imgNat img (o + 2) 2, off := imgNat img (o + 4) 4, size := imgNat img (o + 8) 8 }

def Sect.meets (a b : Sect) : Bool := decide (a.off < b.off + b.size) && decide (b.off < a.off + a.size)

/-- No section overlaps a later one. -/
def disjointSects : List Sect → Bool
  | [] => true
  | x :: xs => xs.all (fun y => !x.meets y) && disjointSects xs

/-- R364 step 1. -/
def headerOk (img : List Byte) : Bool :=
  let n := imgNat img 12 4
  decide (64 ≤ img.length) && imgNat img 0 4 == 0x594C4E46 && imgNat img 4 2 == 1 && imgNat img 28 4 == 0 &&
    decide (1 ≤ n) && decide (n ≤ 64) && decide (64 + 16 * n ≤ img.length) &&
    (readDir img).all (fun d => decide (64 + 16 * n ≤ d.off) && decide (d.off + d.size ≤ img.length) &&
      (d.typ != 1 || d.off % 32 == 0) && (d.typ != 3 || d.off % 2048 == 0)) &&
    decide (((readDir img).filter fun d => d.typ == 1).length ≤ 1) && disjointSects (readDir img)

/-- The contents of the sections of a type, joined. -/
def sectBytes (img : List Byte) (t : Nat) : List Byte :=
  (((readDir img).filter fun d => d.typ == t).map fun d => part img d.off d.size).flatten

/-- The contents of the sections of a type, one by one. -/
def sectList (img : List Byte) (t : Nat) : List (List Byte) :=
  ((readDir img).filter fun d => d.typ == t).map fun d => part img d.off d.size

/-- Cuts bytes into records of `n`. -/
def cut (n : Nat) (bs : List Byte) : List (List Byte) := (List.range (bs.length / n)).map fun i => part bs (n * i) n

/-- R81: the hash of an image: HASHLO and the contents of HASHHI taken as zero. -/
def blankHash (img : List Byte) (hi : Nat) : List Byte :=
  let a := img.take 32 ++ List.replicate 32 0 ++ img.drop 64
  a.take hi ++ List.replicate 16 0 ++ a.drop (hi + 16)

/-- R364 step 3: the hash, where it is right. -/
def checkedHash (img : List Byte) : Option (List Byte) :=
  match (readDir img).filter fun d => d.typ == 11 with
  | [d] =>
    if d.size = 16 then
      let h := sha384 (blankHash img d.off)
      if h.take 32 = part img 32 32 ∧ h.drop 32 = part img d.off 16 then some h else none
    else none
  | _ => none

/-- A name in the SYMBOL section: its bytes up to a NUL; `none` where it does not end. -/
def symName (syms : List Byte) (off : Nat) : Option (List Byte) :=
  let t := syms.drop off
  if t.contains 0 then some (t.takeWhile fun b => b != 0) else none

/-- R82: the contents of a section of a known type. -/
def sectOk (img : List Byte) (d : Sect) : Bool :=
  let bs := part img d.off d.size
  let syms := sectBytes img 10
  match d.typ with
  | 1 => d.size % 32 == 0
  | 2 => d.size % 64 == 0 && decide (1 ≤ d.size / 64) && decide (d.size / 64 ≤ 1024)
  | 4 => d.size % 24 == 0 && (cut 24 bs).all fun r =>
      imgNat r 6 2 / 2 == 0 && imgNat r 12 4 == 0 && (symName syms (imgNat r 8 4)).isSome
  | 5 => d.size % 2 == 0 && decide (d.size / 2 ≤ cdiv (sectBytes img 3).length 2048)
  | 6 => d.size % 64 == 0 && (cut 64 bs).all fun r => mKind (leNat r) == 2 || decide (mTable (leNat r) ≤ (sectList img 2).length)
  | 7 => d.size % 64 == 0 && (cut 64 bs).all fun r => recKind (BitVec.ofNat 512 (leNat r)) == 1
  | 9 => d.size % 16 == 0 && (cut 16 bs).all fun r => decide (imgNat r 8 4 ≤ 12) && (symName syms (imgNat r 0 4)).isSome
  | 10 => bs.getLastD 0 == 0
  | 12 => d.size % 8 == 0 && (cut 8 bs).all fun r => decide (imgNat r 4 1 ≤ 4) && imgNat r 5 3 == 0
  | _ => true

/-- The phase numbers and carve-out codes of an image. -/
def phaseRecs (img : List Byte) : List (Nat × Nat) := (cut 8 (sectBytes img 12)).map fun r => (imgNat r 0 4, imgNat r 4 1)

def noRepeat : List Nat → Bool
  | [] => true
  | x :: xs => !xs.contains x && noRepeat xs

/-- R364 step 6. DEDUCED: log entry 59. -/
def sectionsOk (img : List Byte) : Bool :=
  (readDir img).all (fun d => if 1 ≤ d.typ ∧ d.typ ≤ 12 then sectOk img d else bit d.flags 0) &&
    noRepeat ((phaseRecs img).map Prod.fst)

/-! ### CONST sites (R83, R363) -/

structure Site where
  code : Nat
  slot : Nat
  field : Nat
  dflt : Option Nat
  key : List Byte
  deriving DecidableEq, Repr

def sites (img : List Byte) : List Site :=
  (cut 24 (sectBytes img 4)).map fun r =>
    { code := imgNat r 0 4, slot := imgNat r 4 1, field := imgNat r 5 1, dflt := if imgNat r 6 2 % 2 = 1 then some (imgNat r 16 8) else none,
      key := (symName (sectBytes img 10) (imgNat r 8 4)).getD [] }

/-- R57: the major opcodes of the immediate form. -/
def immMajors : List Nat := [0x03, 0x04, 0x06, 0x07, 0x08, 0x09, 0x0A, 0x0B, 0x0C]

/-- R363: whether the slot named holds an operation that carries the field. -/
def siteFits (w slot field : Nat) : Bool :=
  let maj := fld w (16 + 48 * slot + 40) 8
  bit w slot &&
    (match field with
     | 0 => decide (slot < 2) && immMajors.contains maj
     | 1 => decide (slot < 2) && maj == 0x0C
     | 2 => slot == 0 && bit w 14 && maj == 0x0D
     | _ => false)

/-- R83: whether a value, as a signed number, fits the field. -/
def valueFits (field : Nat) (v : Int) : Bool :=
  match field with
  | 0 => decide (-16384 ≤ v) && decide (v ≤ 16383)
  | 1 => decide (0 ≤ v) && decide (v ≤ 32767)
  | _ => true

/-- The bundle with the value in the field. -/
def patchBundle (w : BitVec 256) (slot field : Nat) (v : Int) : BitVec 256 :=
  let n := (tr 64 v).toNat
  match field with
  | 2 => putFld (putFld w 16 16 (n % 2 ^ 16)) 64 48 (n / 2 ^ 16)
  | _ => putFld w (16 + 48 * slot) 15 n

/-- The index of a discovery key. -/
def keyIndex (p : Pkg) (name : List Byte) : Option Nat :=
  (List.range (discovery p).length).find? fun i =>
    match (discovery p).drop i with
    | (k, _, _) :: _ => (asciiBytes k).map (BitVec.ofNat 8) == name
    | [] => false

def keyValue (p : Pkg) (i : Nat) : Nat := match (discovery p).drop i with | (_, v, _) :: _ => v | [] => 0
def keyRebinds (p : Pkg) (i : Nat) : Bool := match (discovery p).drop i with | (_, _, f) :: _ => bit f 0 | [] => false

/-- Replaces bundle `i`. -/
def setBundle (code : List (BitVec 256)) (i : Nat) (w : BitVec 256) : List (BitVec 256) := code.take i ++ [w] ++ code.drop (i + 1)

/-- R364 step 8: the code with every site patched, and the sites of REBIND keys; or the status. -/
def patchSites (p : Pkg) : List Site → List (BitVec 256) → Except Nat (List (BitVec 256) × List (Nat × Nat × Nat × Nat))
  | [], code => .ok (code, [])
  | x :: xs, code =>
    let i := x.code / 32
    if x.code % 32 ≠ 0 ∨ code.length ≤ i then .error 6
    else
      let w := code.getD i 0
      if !siteFits w.toNat x.slot x.field then .error 6
      else
        let put (v : Int) (more : List (Nat × Nat × Nat × Nat)) : Except Nat (List (BitVec 256) × List (Nat × Nat × Nat × Nat)) :=
          if valueFits x.field v then
            (patchSites p xs (setBundle code i (patchBundle w x.slot x.field v))).map fun (c, r) => (c, more ++ r)
          else .error 7
        match keyIndex p x.key, x.dflt with
        | some k, _ => put (keyValue p k) (if keyRebinds p k then [(x.code, x.slot, x.field, k)] else [])
        | none, some v => put (sx v 64) []
        | none, none => .error 8

/-! ### Tables, methods, code -/

/-- R364 step 9: every entry of an image passes the checker, and no index joins two classes (R156). -/
def tableOk (bs : List Byte) : Bool :=
  let k := bs.length / 64
  let ent (g i : Nat) : Double := BitVec.ofNat 64 (imgNat bs (8 * (g * k + i)) 8)
  (List.range k).all fun i =>
    let es := (List.range 8).map fun g => Entry.decode (ent g i)
    es.all Option.isSome &&
      (let ks := (es.filterMap id).map Entry.cls |>.filter fun c => c != .nop
       ks.all fun c => c == ks.headD .nop)

/-- R73: the first bundle the scanner rejects: its byte offset, and the lowest bit of the field that failed. -/
def scanFrom : Nat → List (BitVec 256) → Option (Nat × Nat)
  | _, [] => none
  | off, w :: ws =>
    match decodeBundle w.toNat with
    | .ok _ => scanFrom (off + 32) ws
    | .error e => some (off, e.pos)

/-- R293: a method record as it is placed: HANDLE is filled in, and TABLE and TRANGE from the image it names. The object's record
names a table by its place among the TABLE sections, counted from 1. -/
def fillMethod (handle : Nat) (tables : List (Nat × Nat)) (r : Nat) : Option Nat :=
  let b : BitVec 512 := BitVec.ofNat 512 r
  if mKind r = 2 then some r
  else
    let b := putFld b 96 32 handle
    match mTable r with
    | 0 => some (putFld (putFld b 160 32 0) 192 64 0).toNat
    | t + 1 =>
      match tables.drop t with
      | (va, k) :: _ => some (putFld (putFld b 160 32 (k * 1024)) 192 64 va).toNat
      | [] => none

/-- R292: the record's place on its own probe path: the first record with VALID 0 among sixteen, where no valid record with the same key stands
among them. A table in memory that cannot be reached or read has none. DEDUCED: log entry 59. -/
def methodPlace (s : State) (job base logn : Nat) (key : Nat → Bool) (b : Nat) (hole : Option Nat) : Nat → Nat → Option Nat
  | 0, _ => hole
  | fuel + 1, i =>
    match s.jobCell job (base + 64 * ((b + i) % 2 ^ logn)) .load with
    | .error _ => none
    | .ok pa =>
      let r := readNat s.pkg pa 64
      if peerLost s.pkg pa || badData s.pkg pa 64 then none
      else if !bit r 31 then methodPlace s job base logn key b (hole.or (some pa)) fuel (i + 1)
      else if key r then none
      else methodPlace s job base logn key b hole fuel (i + 1)

/-- R364 step 10. -/
def placeMethods (job : Nat) (methctl : Double) : List Nat → State → Option State
  | [], s => some s
  | r :: rs, s =>
    let base := fld methctl.toNat 12 44 * 4096
    let logn := fld methctl.toNat 0 5
    if logn < 6 ∨ 20 < logn then none
    else
      let op := fld r 0 12
      let ar := fld r 12 2
      match methodPlace s job base logn (fun q => methMatch q (mKind r) op ar (mTag r 0) (mTag r 1) (mTag r 2))
          (methBucket logn (mKind r) op ar (mTag r 0) (mTag r 1) (mTag r 2)) none 16 0 with
      | none => none
      | some pa => placeMethods job methctl rs (s.modPkg fun p => writeNat p pa 64 r)

/-! ### Placement (R405) -/

/-- Bytes rounded up to whole 64 KiB pages. -/
def pages (n : Nat) : Nat := cdiv n 65536 * 65536

/-- Where the leaves of a page table end, in order. -/
def leafEnds (p : Pkg) : List (Nat × Nat × Bool) → Nat → Nat → List Nat
  | [], _, _ => []
  | (shift, n, _) :: ls, table, base =>
    ((List.range (2 ^ n)).map fun i =>
      let e := readNat p (table + 8 * i) 8
      if !bit e 0 then [] else if bit e 1 then [base + (i + 1) * 2 ^ shift] else leafEnds p ls (pteNext e) (base + i * 2 ^ shift)).flatten

/-- Whether a range is free for a section. -/
def vaFree (p : Pkg) (root bytes va : Nat) : Bool := decide (va + bytes ≤ localBase) && !rangeMapped p root va bytes

/-- A free virtual range of a job: the first at or above `start`, else the first of the address space. A range that is free begins there, or where what is
mapped ends. DESIGN CHOICE: log entry 61. -/
def freeVa (p : Pkg) (root bytes start : Nat) : Option Nat :=
  if vaFree p root bytes start then some start
  else
    let ends := leafEnds p walkLevels root 0
    (ends.filter (fun a => decide (start ≤ a)) ++ 0 :: ends).find? (vaFree p root bytes)

/-- R405: a section gets memory and a virtual range: its virtual and physical addresses. A section that is empty gets none. -/
def placeSect (root : Nat) (bs : List Byte) (p : Pkg) : Option (Nat × Nat × Pkg) :=
  let n := pages bs.length
  if n = 0 then some (0, 0, p)
  else match allocHbm p n 65536, freeVa p root n p.mgmt.loadVa with
    | some (pa, p), some va => some (va, pa, { writeBytes p pa bs with mgmt := { p.mgmt with loadVa := va + n } })
    | _, _ => none

/-- Maps a placed section. -/
def mapSect (root va pa len bits : Nat) (p : Pkg) : Option Pkg := if len = 0 then some p else mapRange root va pa (pages len) bits p

/-- Places and maps a section. -/
def putSect (root bits : Nat) (bs : List Byte) (p : Pkg) : Option (Nat × Nat × Pkg) :=
  match placeSect root bs p with
  | some (va, pa, p) => (mapSect root va pa bs.length bits p).map fun p => (va, pa, p)
  | none => none

/-- The table images, each at its own address. -/
def putTables (root : Nat) : List (List Byte) → Pkg → Option (List (Nat × Nat) × Pkg)
  | [], p => some ([], p)
  | t :: ts, p =>
    match putSect root 4 t p with
    | none => none
    | some (va, _, p) => (putTables root ts p).map fun (r, p) => ((va, t.length / 64) :: r, p)

/-- R82, R285: the tags of the DATA slots. -/
def putDataTags (pa : Nat) (tags : List Nat) (p : Pkg) : Pkg :=
  ((List.range tags.length).zip tags).foldl (fun p x => setTag p (pa + 2048 * x.1) (BitVec.ofNat 16 x.2)) p

/-- R82: every cell is written in state SUSPENDED. -/
def putCells (pa n : Nat) (p : Pkg) : Pkg := (List.range n).foldl (fun p i => setCell p (pa + 64 * i) .suspended) p

/-- What a load gives: its status; the handle and the three bases; of SCANFAIL, the failure record of R73. -/
structure LoadResult where
  status : Nat
  handle : Nat
  code : Nat
  data : Nat
  cell : Nat
  failOff : Nat
  failBit : Nat
  deriving DecidableEq, Repr

def LoadResult.fail (status : Nat) : LoadResult := { status, handle := 0, code := 0, data := 0, cell := 0, failOff := 0, failBit := 0 }

/-- R364: the pages of a range are mapped as executable, or as not executable. -/
def setExec (root : Nat) (x : Bool) (va len : Nat) (p : Pkg) : Pkg :=
  (List.range (pages len / 65536)).foldl (fun p i =>
    let a := va + 65536 * i
    match walk p (some root) a with
    | .error _ => p
    | .ok l => (setLeaf a l.shift (l.pte / 32 * 32 + b2n x * 16 + l.pte % 16) walkLevels root p).getD p) p

/-- The bundles of a code section. -/
def codeBundles (bs : List Byte) : List (BitVec 256) := (cut 32 bs).map fun b => BitVec.ofNat 256 (leNat b)

/-- R364 steps 7 to 11. -/
def loadSections (job : Nat) (j : Job) (img hash : List Byte) (s : State) : State × LoadResult :=
  let handle := leNat (hash.take 4)
  let code := sectBytes img 1
  let data := sectBytes img 3
  let cells := sectBytes img 7
  let tabs := sectList img 2
  let root := j.xroot
  let fail (n : Nat) : State × LoadResult := (s, .fail n)
  match putSect root 4 code s.pkg with
  | none => fail 11
  | some (cva, cpa, p) =>
    match putSect root 12 data p with
    | none => fail 11
    | some (dva, dpa, p) =>
      match putTables root tabs p with
      | none => fail 11
      | some (tables, p) =>
        match putSect root 140 cells p with
        | none => fail 11
        | some (eva, epa, p) =>
          let p := putDataTags dpa ((cut 2 (sectBytes img 5)).map leNat) p
          let p := putCells epa (cells.length / 64) p
          match patchSites s.pkg (sites img) (codeBundles code) with
          | .error n => fail n
          | .ok (bundles, rebind) =>
            let p := writeBytes p cpa (bundles.map fun w => leBytes 32 w.toNat).flatten
            if !tabs.all tableOk then fail 12
            else
              match ((cut 64 (sectBytes img 6)).map leNat).mapM (fillMethod handle tables) with
              | none => fail 6
              | some recs =>
                match placeMethods job j.methctl recs { s with pkg := p } with
                | none => fail 10
                | some t =>
                  match scanFrom 0 bundles with
                  | some (off, b) => (s, { LoadResult.fail 9 with failOff := off % 65536, failBit := b })
                  | none =>
                    let ranges := ([(cva, code), (dva, data), (eva, cells)].filter fun x => !x.2.isEmpty).map (fun x => (x.1, pages x.2.length)) ++
                      tables.map fun x => (x.1, pages (64 * x.2))
                    let o : Obj := { handle, hash := leNat hash, job, code := cva, codeLen := code.length, data := dva, cell := eva,
                                     table := tables.head?, phases := phaseRecs img, ranges, rebind, maxdepth := imgNat img 24 4 }
                    let p := setExec root true cva code.length t.pkg
                    ({ t with pkg := { p with objs := p.objs ++ [o] } }, { LoadResult.fail 0 with handle, code := cva, data := dva, cell := eva })

/-- R365: the feature bits this device has (discovery key fuse.mask). -/
def fuseMask : Nat := 1

/-- R364: the loader. The first failure is the status, and the state is then as it was. PRESUMED: log entry 58. -/
def loadObject (job : Nat) (j : Job) (img : List Byte) (s : State) : State × LoadResult :=
  if !headerOk img then (s, .fail 1)
  else if imgNat img 6 2 ≠ 1 then (s, .fail 2)
  else match checkedHash img with
    | none => (s, .fail 3)
    | some hash =>
      if s.pkg.objs.any fun o => o.handle == leNat (hash.take 4) && o.hash != leNat hash then (s, .fail 4)
      else if imgNat img 16 8 &&& (2 ^ 64 - 1 - fuseMask) ≠ 0 then (s, .fail 5)
      else if !sectionsOk img then (s, .fail 6)
      else loadSections job j img hash s

/-! ### Rebinding and unloading -/

/-- The physical address of a byte of loaded code. -/
def codePa (root va : Nat) (p : Pkg) : Option Nat :=
  match walk p (some root) va with
  | .ok l => some (fld l.pte 12 40 * 4096 + fld va 0 l.shift)
  | .error _ => none

/-- R364: the sites of the REBIND keys bound anew. -/
def rebindSites (root : Nat) (o : Obj) (p : Pkg) : Pkg :=
  o.rebind.foldl (fun p x =>
    match codePa root (o.code + x.1) p with
    | none => p
    | some pa =>
      let w : BitVec 256 := BitVec.ofNat 256 (readNat p pa 32)
      writeNat p pa 32 (patchBundle w x.2.1 x.2.2.1 (keyValue p x.2.2.2)).toNat) p

/-- R364: the pages of an object's code as the scanner reads them. -/
def loadedBundles (root : Nat) (o : Obj) (p : Pkg) : List (BitVec 256) :=
  (List.range (o.codeLen / 32)).map fun i => match codePa root (o.code + 32 * i) p with | some pa => BitVec.ofNat 256 (readNat p pa 32) | none => 0

/-- R364: an object after a die loss: its code is unmapped as executable, patched, scanned again and mapped again. -/
def rebindObj (o : Obj) (p : Pkg) : Pkg :=
  match jobRoot p o.job with
  | none => p
  | some root =>
    let p := rebindSites root o (setExec root false o.code o.codeLen p)
    if (scanFrom 0 (loadedBundles root o p)).isNone then setExec root true o.code o.codeLen p else p

def rebindAll (p : Pkg) : Pkg := p.objs.foldl (fun p o => rebindObj o p) p

/-- An object's pages are unmapped and its handle is free (R376). -/
def unloadObj (o : Obj) (p : Pkg) : Pkg :=
  let p : Pkg := match jobRoot p o.job with
    | none => p
    | some root => o.ranges.foldl (fun p x => (unmapRange root x.1 x.2 p).getD p) p
  { p with objs := p.objs.filter fun x => x ≠ o }

end Sys2Proof.Machine
end

