-- ==== Sys2Proof/Machine/DieLoss.lean ====
section
/-! DEFINITION. The loss of a die (R16, R151, R169, R262, R282, R315, R350, R379), and the heartbeats that show it. -/

namespace Sys2Proof.Machine

/-- The cores of a die. -/
def dieCores (die : Nat) : List Nat := (List.range 64).map fun i => 64 * die + i

/-- The die that takes what a lost die held for a launch: the lowest live die of its mask, else the lowest live die. -/
def heirDie (p : Pkg) (slot : Nat) : Nat :=
  match slotDies p slot with
  | d :: _ => d
  | [] => p.live.headD 0

/-- R315: the core that a lost grant goes to: an idle one with an empty run list, else the lowest of the launch's dies. -/
def State.heirCore (s : State) (slot : Nat) (l : Launch) : Nat :=
  match s.grantCores l with
  | n :: _ => n
  | [] => 64 * heirDie s.pkg slot

/-- R151: the unit of a core as its last record has it, with the value it received when that record was picked up. -/
def Core.lastRecord (c : Core) : QRec := { c.requeue c.un.recd with deliver := c.un.deliver }

/-- R350: the contexts that the cores of a die have saved, as units of their last records; those held for the host among them. -/
def State.lostParked (s : State) (die : Nat) : List QRec :=
  (s.pkg.saved.filter fun x => x.1.core / 64 == die && x.1.parked).map fun x => x.2.lastRecord

/-- A queued record whose context, if it has one, is discarded. -/
def State.withoutContext (s : State) (q : QRec) : QRec :=
  match q.saved with
  | none => q
  | some key =>
    match s.pkg.saved.find? fun x => x.1.area == key with
    | some (_, c) => { c.lastRecord with saved := none }
    | none => { q with saved := none }

/-- The units a core of a lost die held: the one it ran and those of its run list. -/
def State.lostUnits (s : State) (n : Nat) : List QRec :=
  let c := s.coreAt n
  (if c.occupied then [c.lastRecord] else []) ++ c.un.runList.map s.withoutContext

/-- A lost core's unit that was being killed is killed; a cell wait it was making is undone. -/
def settleLost (n : Nat) (s : State) : State :=
  match (s.coreAt n).un.st with
  | .leaving (.killed info tepc tbun ref) => s.onCore n (endKill info tepc tbun ref)
  | _ =>
    let ref := (s.coreAt n).waitRef
    if ref = 0 then s else s.unpark ref

/-- R315: unit `i` of a grant that is granted again: it goes to the core that has taken the grant over. -/
def regrant (slot : Nat) (l : Launch) (i : Nat) (q : QRec) (s : State) : State :=
  let n := match l.grants.find? fun g => g.2.contains i with | some g => g.1 | none => s.heirCore slot l
  s.modCore n fun c => c.modUnit fun u => { u with runList := u.runList ++ [{ q with since := s.clk }] }

/-- R151, R315: a lost unit runs again from its last record; a dealt unit of a launch that may not be run again is lost, and so is an
evaluator, whose evaluation fails (R327, R328). -/
def requeueLost (q : QRec) (s : State) : State :=
  let slot := recLslot q.recd
  if s.cancelled slot ∨ q.evalOf.isSome then s.retireRec q
  else match launchAt s.pkg slot, q.argIdx with
    | some l, some i =>
      if q.self then
        if l.rerun || !l.chunks.any (fun g => g.2.1 == i) then s.queueUnit (heirDie s.pkg slot) q else s.retireRec q
      else if l.rerun then regrant slot l i q s else s.retireRec q
    | _, _ => s.queueUnit (heirDie s.pkg slot) q

/-- R315: the launches whose grants to cores of a die are not finished. -/
def lostGrants (p : Pkg) (die : Nat) (rerun : Bool) : List Nat :=
  p.launches.filterMap fun e =>
    match e.2 with
    | some l => if !l.complete && l.rerun == rerun && (l.grants.any (fun g => g.1 / 64 == die && !g.2.isEmpty) || l.chunks.any fun g => g.1 / 64 == die) then some e.1 else none
    | none => none

/-- R315: grants of a lost core pass to another; the chunks of its SELF units are granted again. -/
def moveGrants (die slot : Nat) (s : State) : State :=
  match launchAt s.pkg slot with
  | some l =>
    let n := s.heirCore slot l
    s.modLaunch slot fun l =>
      { l with chunks := l.chunks.filter (fun g => g.1 / 64 ≠ die),
               again := l.again ++ (l.chunks.filter fun g => g.1 / 64 = die).map (fun g => g.2.2), grants := l.grants.map fun g => if g.1 / 64 = die then (n, g.2) else g }
  | none => s

/-- R315, R332: LOSTRUN. -/
def lostRun (slot : Nat) (s : State) : State :=
  match launchAt s.pkg slot with
  | some l =>
    let s := s.setStatus slot (0x80000000 + Cause.lostrun.no)
    let s := s.notifyH slot l.phjob (hostCause .lostrun 5 slot)
    raiseLaunch slot l (hostCause .lostrun 5 slot) s
  | none => s

/-- The die queues of a lost die pass to a live one. -/
def moveQueues (die : Nat) (s : State) : State :=
  let lost := ((List.range 8).map fun k => (dieQueue s.pkg die k).map fun q => (k, q)).flatten
  let s := s.modPkg fun p => { p with queues := p.queues.filter fun e => e.1 / 8 ≠ die }
  lost.foldl (fun s x => s.pushQueue (heirDie s.pkg (recLslot x.2.recd)) x.1 x.2) s

/-- Pool entries that would be queued on a lost die. -/
def movePool (die : Nat) (p : Pkg) : Pkg :=
  { p with pool := p.pool.map fun x => (x.1, x.2.map fun e => if e.die = die then { e with die := heirDie p (recLslot e.recd) } else e) }

/-- Forgets a core. -/
def State.eraseCore (s : State) (n : Nat) : State := s.modCore n fun _ => .reset

/-- R16: the host port and the link ports of a die go down. -/
def diePorts (die : Nat) (m : Mgmt) : Mgmt :=
  let m := if die = 0 ∨ die = 2 then { m with portsDown := m.portsDown ++ [die / 2] } else m
  if die = 4 then m
  else let k := if die < 4 then 2 * die else 2 * die - 2; setPort (k + 1) false (setPort k false m)

/-- R379: the state of the package after a loss that leaves `live` dies: DEGRADED on eight, FAILED on fewer. A HALTED package that loses its first stays
HALTED. -/
def lossState (live pstate : Nat) : Nat := if live ≤ 7 then 2 else if pstate = 0 then 1 else pstate

/-- R379: the steps of a die's loss. A command of the mailbox that runs ends with status STATE (R375). DEDUCED: log entry 67. -/
def dieLoss (die : Nat) (s : State) : State :=
  if !s.pkg.live.contains die then s
  else
    let s := s.modPkg fun p => { p with live := p.live.filter fun d => d ≠ die }
    let s := (dieCores die).foldl (fun s n => settleLost n s) s
    let units := ((dieCores die).map s.lostUnits).flatten ++ s.lostParked die
    let s := (dieCores die).foldl State.eraseCore s
    let s := (s.pkg.saved.filter fun x => x.1.core / 64 == die).foldl (fun s x => s.dropSaved x.1.area) s
    let s := s.modPkg fun p =>
      { p with sets := (p.sets.map fun x => { x with members := x.members.filter fun n => n / 64 ≠ die }).filter fun x => !x.members.isEmpty }
    let s := failLostTransfers s
    let s := (moveQueues die s).modPkg (movePool die)
    let failed := lostGrants s.pkg die false
    let s := (lostGrants s.pkg die true).foldl (fun s k => moveGrants die k s) s
    let s := units.foldl (fun s q => requeueLost q s) s
    let s := failed.foldl (fun s k => lostRun k s) s
    let s := s.modPkg rebindAll
    let s := if die = 0 ∨ die = 2 then s.losePort (die / 2) else s
    let s := s.modMgmt fun m =>
      { diePorts die m with declared := m.declared.filter (fun d => d ≠ die), pstate := lossState s.pkg.live.length m.pstate, quiesced := none, streaming := none, msix := m.msix ++ [17 + 64 * die] }
    if s.pkg.mgmt.busy then s.endCommand 37 [] else s

def execDieLoss (die : Nat) (s : State) : Host.Outcome State Fault Refusal := outside (dieLoss die) s

/-- HEARTBEAT_MISS (R379): a die that has missed three heartbeats is declared lost. DEDUCED: log entry 67. -/
def heartbeatMiss (die : Nat) (s : State) : State :=
  if s.pkg.live.contains die ∧ !s.pkg.mgmt.declared.contains die then s.modMgmt fun m => { m with declared := m.declared ++ [die] } else s

def execHeartbeatMiss (die : Nat) (s : State) : Host.Outcome State Fault Refusal := outside (heartbeatMiss die) s

end Sys2Proof.Machine
end

