-- ==== Sys2Proof/Machine/Manage.lean ====
section
/-! DEFINITION. Bring-up (R372, R373) and the commands of the management mailbox (R375, R376, R380 to R382, R403). -/

namespace Sys2Proof.Machine

/-! ### Bring-up (R372, R373) -/

/-- R372 step 2, R381: the stored patch comes into force where its SVN is not below the fused one. -/
def patchInForce (m : Mgmt) : Option Patch :=
  match m.patch with
  | some p => if m.fusedSvn ≤ p.svn then some p else none
  | none => none

/-- R372 step 2: the log entry of event 0x01, which each controller that comes up writes. DESIGN CHOICE: log entry 132. -/
def noPatchEntry : List (BitVec 256) := [logDoubles 0 (logD1 0 0 0 0 2047) 1 0]

/-- R372: the controllers' state after bring-up. `log`: what the error log held before. -/
def bringUpMgmt (m : Mgmt) (bad : List Nat) (log : List (List (BitVec 256))) : Mgmt :=
  let inForce := patchInForce m
  let base : Mgmt := { Mgmt.reset with
    log := if inForce.isSome then log else trimLog (log ++ List.replicate (9 - bad.length) noPatchEntry),
    msix := m.msix ++ (if inForce.isSome then [] else List.replicate (9 - bad.length) 20),
    pstate := if bad.length = 0 then 0 else if bad.length = 1 then 1 else 2,
    flashPkg := m.flashPkg, pkgNo := if m.flashPkg < 512 then m.flashPkg else 0, patch := m.patch, inForce,
    fusedSvn := match inForce with | some p => p.svn | none => m.fusedSvn,
    spares := m.spares, spared := m.spared, hostData := m.hostData, peerData := m.peerData }
  bad.foldl (fun m d => diePorts d m) base

/-- R372: the package after bring-up. What lies outside it (host and peer memory, what the environment will do) stays;
every die works that the environment does not list. DESIGN CHOICE: log entry 66. -/
def bringUp (log : List (List (BitVec 256))) (s : State) : State :=
  let bad := ((List.range 9).filter fun d => s.pkg.env.badDies.contains d)
  let outer := 0xA_0000_0000_0000
  { State.reset with
    agenda := s.agenda,
    pkg := { Pkg.reset with
      live := (List.range 9).filter fun d => !bad.contains d,
      mem := fclear s.pkg.mem 0 outer, tags := fclear s.pkg.tags 0 (outer / 2048), cells := fclear s.pkg.cells 0 (outer / 64),
      mgmt := bringUpMgmt s.pkg.mgmt bad log, env := s.pkg.env, free := s.pkg.free } }

/-- POWER_ON_RESET (R372). -/
def execPowerOnReset (s : State) : Host.Outcome State Fault Refusal := outside (bringUp []) s

/-! ### The mailbox (R375) -/

/-- Double `i` of the command block as read. -/
def State.mbArg (s : State) (i : Nat) : Nat := fld s.pkg.mgmt.block.toNat (64 * i) 64

/-- R373: the commands a FAILED package answers. -/
def failedOps : List Nat := [0x01, 0x10, 0x0E, 0x0F, 0x13]

/-- R375: a command runs while BUSY is 1 and the block names it. -/
def command (op : Nat) (f : State → State) (s : State) : Host.Outcome State Fault Refusal :=
  outside (fun s =>
    if s.pkg.mgmt.busy ∧ fld (s.mbArg 0) 0 8 = op then
      if fld (s.mbArg 0) 8 24 ≠ 0 then s.endCommand 33 []
      else if s.pkg.mgmt.pstate = 2 ∧ !failedOps.contains op then s.endCommand 37 []
      else f s
    else s) s

/-- A range of HBM. -/
def hbmRange (a n : Nat) : Bool := decide (a + n ≤ hbmEnd)

def jobAt (p : Pkg) (job : Nat) : Option Job := fget none p.jobs job

/-! ### INFO, DEBUG, CAP, LOGRD, LINKCFG, DIEOFF, RESET (R376) -/

/-- The live-die mask. -/
def liveMask (p : Pkg) : Nat := (p.live.map fun d => 2 ^ d).sum

/-- DESIGN CHOICE: log entry 62. -/
def cmdInfo (s : State) : State :=
  let m := s.pkg.mgmt
  s.endCommand 0 [0x0100, (m.inForce.map Patch.ver).getD 0, (m.inForce.map Patch.svn).getD 0, 0xB1, Config.serial.toNat, liveMask s.pkg,
    Config.certAddr.toNat]

def cmdDebug (s : State) : State :=
  let n := s.mbArg 1
  let mode := s.mbArg 2
  if 2 < mode then s.endCommand 33 []
  else if !liveCore s.pkg n then s.endCommand 35 []
  else (s.modCore n fun c => { c with trp := { c.trp with dbgmode := mode } }).endCommand 0 []

/-- DESIGN CHOICE: log entry 77. -/
def cmdCap (s : State) : State :=
  let w := s.mbArg 1
  if 1500 ≤ w ∧ w ≤ 4200 then (s.modMgmt fun m => { m with cap := w }).endCommand 0 [] else s.endCommand 33 []

/-- Removes the first `n` entries of a log. -/
def dropEntries : Nat → List (List (BitVec 256)) → List (List (BitVec 256))
  | _, [] => []
  | n, g :: gs => if g.length ≤ n then dropEntries (n - g.length) gs else g.drop n :: gs

def cmdLogrd (s : State) : State :=
  let a := s.mbArg 1
  let n := min (s.mbArg 2) (logSize s.pkg.mgmt.log)
  if !hbmRange a (32 * n) then s.endCommand 33 []
  else
    let es := s.pkg.mgmt.log.flatten.take n
    let s := s.modPkg fun p => writeBytes p a ((es.map fun e => leBytes 32 e.toNat).flatten)
    (s.modMgmt fun m => { m with log := dropEntries n m.log }).endCommand 0 [n]

def cmdLinkcfg (s : State) : State :=
  let a := s.mbArg 1
  let g := s.mbArg 2
  let w := s.mbArg 3
  if !hbmRange a 4096 ∨ fld w 9 54 ≠ 0 then s.endCommand 33 []
  else
    let s := (List.range 512).foldl (fun s i => s.writeReg (0x201000 + 8 * i) (readNat s.pkg (a + 8 * i) 8)) s
    let s := s.writeReg 0x200008 g
    let s := if bit w 63 then s.modMgmt fun m => { m with flashPkg := fld w 0 9 } else s
    s.endCommand 0 []

def cmdDieoff (s : State) : State :=
  let d := s.mbArg 1
  if 8 < d then s.endCommand 33 []
  else if !s.pkg.live.contains d then s.endCommand 37 []
  else (dieLoss d (s.modMgmt fun m => { m with busy := false })).endCommand 0 []

def cmdReset (s : State) : State :=
  let seq := s.pkg.mgmt.cmdSeq
  ((bringUp s.pkg.mgmt.log s).modMgmt fun m => { m with cmdSeq := seq }).endCommand 0 []

/-! ### Jobs (R376) -/

/-- R330: ACTTAB holds BASE in bits 55:9 and EN in bit 0; its reserved bits read zero (R8). -/
def acttabReg (v : Nat) : Double := BitVec.ofNat 64 (fld v 9 47 * 2 ^ 9 + v % 2)

/-- R290: METHCTL holds BASE in bits 55:12 and LOGN in bits 4:0; its reserved bits read zero (R8). -/
def methctlReg (v : Nat) : Double := BitVec.ofNat 64 (fld v 12 44 * 2 ^ 12 + v % 2 ^ 5)

def cmdJobnew (s : State) : State :=
  let job := s.mbArg 1
  let root := s.mbArg 2
  if 65536 ≤ job ∨ root % 4096 ≠ 0 ∨ !hbmRange root 2048 then s.endCommand 33 []
  else if (jobAt s.pkg job).isSome then s.endCommand 37 []
  else
    let j : Job := { xroot := root, acttab := acttabReg (s.mbArg 3), methctl := methctlReg (s.mbArg 4), ctxpool := BitVec.ofNat 64 (s.mbArg 5), level := .fresh, stopped := false, areas := [] }
    let s := s.modPkg fun p => writeBytes { p with jobs := fset none p.jobs job (some j) } root (List.replicate 2048 0)
    s.endCommand 0 []

/-- R331, R324: what a saved context's subscriptions and armed resolutions still do as it is given up: the subscriptions are released and end, with their
tags, and with the entries and the token that find room; then the resolutions whose timelines have come that far are made. All of it is done at once.
DESIGN CHOICE: log entry 123. -/
def endSaved (x : Saved × Core) (s : State) : State :=
  s.onCore x.1.core fun s =>
    let c := s.core
    let s := State.rearm { s with core := x.2.modUnit fun u => { u with st := .leaving (.killed x.1.info 0 0 0) } }
    let subs := s.core.activeSubs.filterMap fun y => match y.op with | .hsub _ _ sid true => some sid | _ => none
    let s := subs.foldl (fun s sid => (List.range 34).foldl (fun s _ => hoistOut sid s) s) s.releaseSubs
    let s := (List.range s.core.eng.armed.length).reverse.foldl (fun s i => fireArmed i s) s.advanceAll
    { s with core := c }

/-- A parked context is given up: its unit is counted out and its area freed. -/
def dropParked (x : Saved × Core) (s : State) : State :=
  let c := x.2
  let s := endSaved x s
  let s := if c.waitRef = 0 then s else s.unpark c.waitRef
  let s := s.unitDone (recLslot c.un.recd) c.un.argIdx
  let s := match c.un.evalOf with | some pa => s.evalFail pa c.un.pool | none => s
  s.dropSaved x.1.area

/-- R331, R376: a parked context is killed. -/
def killParked (x : Saved × Core) (s : State) : State :=
  let c := x.2
  let s := s.setStatus (recLslot c.un.recd) (0x80000000 + x.1.info.cause)
  dropParked x (s.logGroup (killReport c x.1.core s.pkg.gts x.1.info c.sca.pc x.1.tbun))

/-- The cause for which a core is frozen, or waits to be saved for the host. -/
def Leave.parkInfo : Leave → Option (CauseInfo × Nat)
  | .park i b => some (i, b)
  | _ => none

/-- Whether a core is frozen, or is parked and waits for an area. -/
def Core.held (c : Core) : Bool :=
  match c.un.st with
  | .frozen .. => true
  | .leaving (.park ..) => true
  | _ => false

/-- R349: a frozen core is killed: for the cause of its park, or that of the save that failed. -/
def killHeld (s : State) : State :=
  let kill (x : CauseInfo × Nat) : State := (s.modTrp fun t => { t with bank0recs := [] }).startKill x.1 x.2
  match s.core.un.st with
  | .frozen how info => kill (how.parkInfo.getD (info, s.core.sca.pc))
  | .leaving how => (match how.parkInfo with | some x => kill x | none => s)
  | _ => s

/-- The cores that hold a unit of a job. -/
def State.jobCores (s : State) (job : Nat) : List Nat := (s.cores.filter fun e => e.2.occupied && e.2.un.job == job).map Prod.fst

/-- JOBEND: the cancel, once; then the wait; then what the job had is freed. DEDUCED: log entry 64. -/
def cmdJobend (s : State) : State :=
  let job := s.mbArg 1
  match jobAt s.pkg job with
  | none => s.endCommand 35 []
  | some j =>
    let s := if j.level.cancelled then s else s.cancelLevel .job job
    let s := (s.pkg.saved.filter fun x => x.1.job == job && x.1.parked).foldl (fun s x => dropParked x s) s
    let s := (s.jobCores job).foldl (fun s n => if (s.coreAt n).held then s.onCore n killHeld else s) s
    match jobAt s.pkg job with
    | some j =>
      if j.level.counter = 0 ∧ (s.jobCores job).isEmpty then
        let s := s.modPkg fun p => (p.objs.filter fun o => o.job == job).foldl (fun p o => unloadObj o p) p
        (s.modPkg fun p => { p with jobs := fset none p.jobs job none }).endCommand 0 []
      else s
    | none => s

/-! ### MAP, UNMAP (R403) -/

def cmdMap (s : State) : State :=
  let va := s.mbArg 2
  let pa := s.mbArg 3
  let n := s.mbArg 4
  let bits := s.mbArg 5
  if !vaRangeOk va n ∨ !paRangeOk pa n ∨ !pteBitsOk bits then s.endCommand 33 []
  else match jobRoot s.pkg (s.mbArg 1) with
    | none => s.endCommand 35 []
    | some root =>
      if rangeMapped s.pkg root va n then s.endCommand 33 []
      else match mapRange root va pa n bits s.pkg with
        | none => s.endCommand 11 []
        | some p => (s.modPkg fun _ => p).endCommand 0 []

/-- R119: a range of a job leaves the micro-TLBs of its cores. -/
def State.dropRange (s : State) (x : Nat × Nat × Nat) : State :=
  (s.jobCores x.1).foldl (fun s k => s.modCore k fun c => { c with lsu := dropTlb x.2.1 x.2.2 c.lsu }) s

/-- R119: whether an access already translated by a range of a job is still to be performed. -/
def State.rangeTouched (s : State) (x : Nat × Nat × Nat) : Bool := (s.jobCores x.1).any fun k => (s.coreAt k).touches x.2.1 x.2.2

/-- R119: the mapping goes at once; the command ends when no access translated by it is left. DEDUCED: log entry 63. -/
def cmdUnmap (s : State) : State :=
  let va := s.mbArg 2
  let n := s.mbArg 3
  if !vaRangeOk va n then s.endCommand 33 []
  else
    let job := s.mbArg 1
    match jobRoot s.pkg job with
    | none => s.endCommand 35 []
    | some root =>
      if rangePinned s.pkg root va n then s.endCommand 34 []
      else match unmapRange root va n s.pkg with
        | none => s.endCommand 11 []
        | some p =>
          let s := (s.modPkg fun _ => p).dropRange (job, va, n)
          if s.rangeTouched (job, va, n) then s else s.endCommand 0 []

/-! ### LOAD, UNLOAD -/

/-- DEDUCED: log entry 60. -/
def cmdLoad (s : State) : State :=
  let job := s.mbArg 1
  let a := s.mbArg 2
  let n := s.mbArg 3
  if !hbmRange a n then s.endCommand 33 []
  else match jobAt s.pkg job with
    | none => s.endCommand 35 []
    | some j =>
      let (t, r) := if badData s.pkg a n then (s, LoadResult.fail 3) else loadObject job j (readBytes s.pkg a n) s
      t.endCommand r.status ([r.status, r.handle, r.code, r.data, r.cell] ++ (if r.status = 9 then [r.failOff, r.failBit] else []))

/-- R376: no unit of the object runs or is queued, no record naming it is parked, registered or saved, none is evaluated. -/
def objUnused (s : State) (handle : Nat) : Bool :=
  let mine (r : Rec) : Bool := recHandle r == handle
  (s.cores.all fun e => !(e.2.occupied && mine e.2.un.recd) && e.2.un.runList.all fun q => !mine q.recd) &&
    (s.pkg.queues.all fun e => e.2.all fun q => !mine q.recd) &&
    (s.pkg.pool.all fun e => match e.2 with | some x => !mine x.recd || x.gone | none => true) &&
    (s.pkg.saved.all fun x => !mine x.2.un.recd)

/-- R119: an unmap ends when no access translated by what it has unmapped is left. -/
def State.endUnload (s : State) : State :=
  if s.pkg.mgmt.unmapping.any s.rangeTouched then s else s.endCommand 0 []

/-- UNLOAD: the wait, then the object's mappings and its handle go at once. DEDUCED: log entry 63. -/
def cmdUnload (s : State) : State :=
  let handle := s.mbArg 1
  if !s.pkg.mgmt.unmapping.isEmpty then s.endUnload
  else match s.pkg.objs.filter fun o => o.handle == handle with
    | [] => s.endCommand 35 []
    | os =>
      if objUnused s handle then
        let rs := (os.map fun o => o.ranges.map fun x => (o.job, x)).flatten
        let s := rs.foldl State.dropRange (s.modPkg fun p => os.foldl (fun p o => unloadObj o p) p)
        (s.modMgmt fun m => { m with unmapping := rs }).endUnload
      else s

/-! ### RESUME, KILL -/

def State.parkedOn (s : State) (n : Nat) : Option (Saved × Core) := s.pkg.saved.find? fun x => x.1.core == n && x.1.parked

/-- R331, R350: the context joins its core's run list; a frozen core tries its save again (R349). -/
def cmdResume (s : State) : State :=
  let n := s.mbArg 1
  if !liveCore s.pkg n then s.endCommand 35 []
  else match s.parkedOn n with
    | some (x, c) =>
      let q : QRec := { c.requeue c.un.recd with saved := some x.area, since := s.clk }
      let s := s.modPkg fun p =>
        { p with saved := p.saved.map fun y => if y.1.area = x.area then ({ y.1 with parked := false }, y.2) else y }
      (s.modCore n fun c => c.modUnit fun u => { u with runList := insertRun q u.runList }).endCommand 0 []
    | none =>
      match (s.coreAt n).un.st with
      | .frozen how _ => (s.modCore n fun c => c.modUnit fun u => { u with st := .leaving how }).endCommand 0 []
      | _ => s.endCommand 37 []

def cmdKill (s : State) : State :=
  let n := s.mbArg 1
  if !liveCore s.pkg n then s.endCommand 35 []
  else match s.parkedOn n with
    | some x => (killParked x s).endCommand 0 []
    | none => if (s.coreAt n).held then (s.onCore n killHeld).endCommand 0 [] else s.endCommand 37 []

/-! ### CKPT, RESTORE (R380) -/

/-- The entries of map `m` in a range of keys, put into another range of map `d`. -/
def fcopy {α : Type} [DecidableEq α] (z : α) (m d : FMap α) (src dst n : Nat) : FMap α :=
  (m.filter fun e => decide (src ≤ e.1) && decide (e.1 < src + n)).foldr (fun e acc => fset z acc (e.1 - src + dst) e.2) (fclear d dst (dst + n))

/-- R380: the bytes, tags and cell states that `x` holds of a physical range, put into another, all multiples of 2,048. -/
def copyPhys (x : Streaming) (src dst n : Nat) (p : Pkg) : Pkg :=
  { p with mem := fcopy 0 x.mem p.mem src dst n, tags := fcopy 0 x.tags p.tags (src / 2048) (dst / 2048) (n / 2048),
           cells := fcopy .value x.cells p.cells (src / 64) (dst / 64) (n / 64) }

/-- What memory holds now, with `n` bytes streamed. -/
def snapshot (p : Pkg) (n : Nat) : Streaming := { done := n, mem := p.mem, tags := p.tags, cells := p.cells }

/-- Whether bytes, a tag or a cell state of a range fails ECC (R353). -/
def badRange (p : Pkg) (a n : Nat) : Bool :=
  badData p a n || p.env.badTags.any (fun k => decide (a / 2048 ≤ k) && decide (k < (a + n) / 2048)) ||
    p.env.badCells.any fun k => decide (a / 64 ≤ k) && decide (k < (a + n) / 64)

/-- The ranges of a list in HBM. -/
def readRanges (p : Pkg) (a n : Nat) : List (Nat × Nat) := (List.range n).map fun i => (readNat p (a + 16 * i) 8, readNat p (a + 16 * i + 8) 8)

/-- Each range with its place in the peer. -/
def placeRanges : Nat → List (Nat × Nat) → List (Nat × Nat × Nat)
  | _, [] => []
  | b, (a, n) :: rs => (a, b, n) :: placeRanges (b + n) rs

def rangesOk (base : Nat) (rs : List (Nat × Nat)) : Bool :=
  base % 2048 == 0 && (rs.all fun r => r.1 % 2048 == 0 && r.2 % 2048 == 0 && hbmRange r.1 r.2) && hbmRange base (rs.map Prod.snd).sum

/-- The arguments of CKPT and RESTORE, or the status that refuses them. -/
def peerArgs (s : State) : Except Nat (Nat × Nat × List (Nat × Nat × Nat)) :=
  let job := s.mbArg 1
  let slot := s.mbArg 2
  let a := s.mbArg 3
  let n := s.mbArg 4
  if !hbmRange a (16 * n) then .error 33
  else
    let rs := readRanges s.pkg a n
    if !rangesOk (s.mbArg 5) rs then .error 33
    else if (jobAt s.pkg job).isNone ∨ 512 ≤ slot ∨ !(fget 0 s.pkg.mgmt.peertab slot).getLsbD 15 then .error 35
    else if peerLost s.pkg (routed s.pkg (peerBase slot)) then .error 36
    else .ok (job, slot, placeRanges (s.mbArg 5) rs)

/-- The next 2,048 bytes to stream once `done` are: where they stand in HBM, and in the peer. -/
def nextBlock : List (Nat × Nat × Nat) → Nat → Option (Nat × Nat)
  | [], _ => none
  | (a, b, n) :: rs, done => if done < n then some (a + done, b + done) else nextBlock rs (done - n)

/-- A command that streams answers, and what it held is let go. -/
def State.endStream (s : State) (status : Nat) : State :=
  (s.modMgmt fun m => { m with quiesced := none, streaming := none }).endCommand status []

/-- R380: whether core `n` holds a context that nothing more will make leave: frozen after a failed save, or parked, with its accesses and commands done,
where no area is free. It holds nothing up. -/
def State.atRest (s : State) (n : Nat) : Bool :=
  let t := s.switchTo n
  match t.core.un.st with
  | .frozen .. => true
  | .leaving (.park ..) => t.core.un.area.isNone && t.freeArea.isNone && t.saveReady.isSome
  | _ => false

/-- CKPT (R380): the job is held still, and its units leave their cores at suspension points or by pre-emption; what memory holds then
is streamed, 2,048 bytes at a time. A peer lost meanwhile leaves the ranges partly written. DEDUCED: log entry 65. -/
def cmdCkpt (s : State) : State :=
  match peerArgs s with
  | .error n => s.endStream n
  | .ok (job, slot, rs) =>
    let cores := s.jobCores job
    if s.pkg.mgmt.quiesced ≠ some job then
      cores.foldl (fun s n => s.modCore n fun c => { c with trp := { c.trp with preemptDue := true } })
        (s.modMgmt fun m => { m with quiesced := some job, streaming := none })
    else match s.pkg.mgmt.streaming with
      | none =>
        if !cores.all s.atRest then s
        else if rs.any fun r => badRange s.pkg r.1 r.2.2 then s.endStream 37
        else s.modMgmt fun m => { m with streaming := some (snapshot s.pkg 0) }
      | some x =>
        match nextBlock rs x.done with
        | none => s.endStream 0
        | some (a, b) =>
          (s.modPkg fun p => copyPhys x a (routed p (peerBase slot) + b) 2048 p).modMgmt fun m =>
            { m with streaming := some { x with done := x.done + 2048 } }

/-- R380: whether the job has a unit running or queued. -/
def jobIdle (s : State) (job : Nat) : Bool :=
  (s.jobCores job).isEmpty && (s.cores.all fun e => e.2.un.runList.all fun q => recordJob s.pkg q.recd != job) &&
    s.pkg.queues.all fun e => e.2.all fun q => recordJob s.pkg q.recd != job

/-- RESTORE (R380): as CKPT streams, from the peer as it is. Data, a tag or a cell state there that fails ECC is not carried (R285, R353). DEDUCED: log
entry 65. -/
def cmdRestore (s : State) : State :=
  match peerArgs s with
  | .error n => s.endStream n
  | .ok (job, slot, rs) =>
    let done := match s.pkg.mgmt.streaming with | some x => x.done | none => 0
    if !jobIdle s job then s.endStream 37
    else match nextBlock rs done with
      | none => s.endStream 0
      | some (a, b) =>
        if badRange s.pkg (routed s.pkg (peerBase slot) + b) 2048 then s.endStream 37
        else
        (s.modPkg fun p => copyPhys (snapshot p 0) (routed p (peerBase slot) + b) a 2048 p).modMgmt fun m =>
          { m with streaming := some { done := done + 2048, mem := [], tags := [], cells := [] } }

/-! ### ATTEST, PATCH (R381, R382) -/

/-- `n` bytes, filled with zeros. -/
def fitBytes (n : Nat) (bs : List Byte) : List Byte := (List.range n).map fun i => bs.getD i 0

/-- R382: the signed part of a report. -/
def attestBody (s : State) (job : Nat) (nonce : List Byte) : List Byte :=
  let m := s.pkg.mgmt
  let os := s.pkg.objs.filter fun o => o.job == job
  leBytes 4 0x54414446 ++ leBytes 2 1 ++ leBytes 2 0xB1 ++ leBytes 8 Config.serial.toNat ++ nonce ++ fitBytes 48 Config.romDigest ++
    fitBytes 48 ((m.inForce.map Patch.digest).getD []) ++ leBytes 4 ((m.inForce.map Patch.svn).getD 0) ++ leBytes 4 os.length ++
    sha384 (os.map fun o => leBytes 48 o.hash).flatten

/-- DESIGN CHOICE: log entry 62. -/
def cmdAttest (s : State) : State :=
  let a := s.mbArg 2
  let b := s.mbArg 3
  if !hbmRange a 48 ∨ !hbmRange b 312 then s.endCommand 33 []
  else if (jobAt s.pkg (s.mbArg 1)).isNone then s.endCommand 35 []
  else
    let body := attestBody s (s.mbArg 1) (readBytes s.pkg a 48)
    (s.modPkg fun p => writeBytes p b (body ++ fitBytes 96 (Config.attestSig body))).endCommand 0 []

/-- R381: whether the ROM accepts an image. -/
def patchOk (m : Mgmt) (img : List Byte) : Bool :=
  let len := imgNat img 12 4
  imgNat img 0 4 == 0x48504446 && img.length == 64 + len + 96 && imgNat img 16 48 == 0 && decide (m.fusedSvn ≤ imgNat img 8 4) &&
    Config.patchVerifies img

/-- PATCH: the image is stored for the next bring-up; its digest is the SHA-384 of its bytes before the signature. -/
def cmdPatch (s : State) : State :=
  let a := s.mbArg 1
  let n := s.mbArg 2
  if !hbmRange a n then s.endCommand 33 []
  else
    let img := readBytes s.pkg a n
    if !badData s.pkg a n && patchOk s.pkg.mgmt img then
      let x : Patch := { ver := imgNat img 4 4, svn := imgNat img 8 4, digest := sha384 (img.take (n - 96)) }
      (s.modMgmt fun m => { m with patch := some x }).endCommand 0 []
    else s.endCommand 34 []

/-! ### Execution -/

/-- INFO (R376). -/
def execInfo (s : State) : Host.Outcome State Fault Refusal := command 0x01 cmdInfo s
/-- JOBNEW (R376). -/
def execJobnew (s : State) : Host.Outcome State Fault Refusal := command 0x02 cmdJobnew s
/-- JOBEND (R376). -/
def execJobend (s : State) : Host.Outcome State Fault Refusal := command 0x03 cmdJobend s
/-- MAP (R403). -/
def execMap (s : State) : Host.Outcome State Fault Refusal := command 0x04 cmdMap s
/-- UNMAP (R403). -/
def execUnmap (s : State) : Host.Outcome State Fault Refusal := command 0x05 cmdUnmap s
/-- LOAD (R364). -/
def execLoad (s : State) : Host.Outcome State Fault Refusal := command 0x06 cmdLoad s
/-- UNLOAD (R376). -/
def execUnload (s : State) : Host.Outcome State Fault Refusal := command 0x07 cmdUnload s
/-- RESUME (R376). -/
def execResume (s : State) : Host.Outcome State Fault Refusal := command 0x08 cmdResume s
/-- KILL (R376). -/
def execKill (s : State) : Host.Outcome State Fault Refusal := command 0x09 cmdKill s
/-- DEBUG (R376). -/
def execDebug (s : State) : Host.Outcome State Fault Refusal := command 0x0A cmdDebug s
/-- CAP (R376). -/
def execCap (s : State) : Host.Outcome State Fault Refusal := command 0x0B cmdCap s
/-- CKPT (R380). -/
def execCkpt (s : State) : Host.Outcome State Fault Refusal := command 0x0C cmdCkpt s
/-- RESTORE (R380). -/
def execRestore (s : State) : Host.Outcome State Fault Refusal := command 0x0D cmdRestore s
/-- ATTEST (R382). -/
def execAttest (s : State) : Host.Outcome State Fault Refusal := command 0x0E cmdAttest s
/-- PATCH (R381). -/
def execPatch (s : State) : Host.Outcome State Fault Refusal := command 0x0F cmdPatch s
/-- LOGRD (R376). -/
def execLogrd (s : State) : Host.Outcome State Fault Refusal := command 0x10 cmdLogrd s
/-- DIEOFF (R376). -/
def execDieoff (s : State) : Host.Outcome State Fault Refusal := command 0x11 cmdDieoff s
/-- LINKCFG (R376). -/
def execLinkcfg (s : State) : Host.Outcome State Fault Refusal := command 0x12 cmdLinkcfg s
/-- RESET (R372). -/
def execReset (s : State) : Host.Outcome State Fault Refusal := command 0x13 cmdReset s

/-- BADCMD (R375): an OP that names no command. -/
def execBadcmd (s : State) : Host.Outcome State Fault Refusal :=
  outside (fun s =>
    if s.pkg.mgmt.busy ∧ !(1 ≤ fld (s.mbArg 0) 0 8 ∧ fld (s.mbArg 0) 0 8 ≤ 0x13) then s.endCommand 32 [] else s) s

end Sys2Proof.Machine
end

