-- ==== Sys2Proof/Machine/Dispatch.lean ====
section
/-! DEFINITION. One arm per instruction of the opcode table: its meaning. -/

namespace Sys2Proof.Machine

def exec (i : Instr) (s : State) : Host.Outcome State Fault Refusal :=
  match i with
  | .bundleIssue => Sys2Proof.Machine.execBundleIssue s
  | .resultLand => Sys2Proof.Machine.execResultLand s
  | .assayReplay => Sys2Proof.Machine.execAssayReplay s
  | .tlbWalk => Sys2Proof.Machine.execTlbWalk s
  | .queueDispatch store => Sys2Proof.Machine.execQueueDispatch store s
  | .accessPerformed id => Sys2Proof.Machine.execAccessPerformed id s
  | .writeAcknowledgement => Sys2Proof.Machine.execWriteAcknowledgement s
  | .cellOperation id => Sys2Proof.Machine.execCellOperation id s
  | .resolveOnFire idx => Sys2Proof.Machine.execResolveOnFire idx s
  | .trapTake => Sys2Proof.Machine.execTrapTake s
  | .preemptionDue => Sys2Proof.Machine.execPreemptionDue s
  | .preemption => Sys2Proof.Machine.execPreemption s
  | .contextSave => Sys2Proof.Machine.execContextSave s
  | .contextRestore => Sys2Proof.Machine.execContextRestore s
  | .depth => Sys2Proof.Machine.execDepth s
  | .unitPickup => Sys2Proof.Machine.execUnitPickup s
  | .queuePromotion die prio => Sys2Proof.Machine.execQueuePromotion die prio s
  | .chunkGrant slot => Sys2Proof.Machine.execChunkGrant slot s
  | .levelCompletion lvl id => Sys2Proof.Machine.execLevelCompletion lvl id s
  | .dispatchDecision id => Sys2Proof.Machine.execDispatchDecision id s
  | .copyBeatTransfer ctx => Sys2Proof.Machine.execCopyBeatTransfer ctx s
  | .progressEntryPush ctx => Sys2Proof.Machine.execProgressEntryPush ctx s
  | .commandEnd tl => Sys2Proof.Machine.execCommandEnd tl s
  | .feWait ctx => Sys2Proof.Machine.execFeWait ctx s
  | .qFull ctx => Sys2Proof.Machine.execQFull ctx s
  | .qpushDelivery ctx => Sys2Proof.Machine.execQpushDelivery ctx s
  | .syncwWrite ctx => Sys2Proof.Machine.execSyncwWrite ctx s
  | .prefetchFill sid line => Sys2Proof.Machine.execPrefetchFill sid line s
  | .hoistTileIn sid => Sys2Proof.Machine.execHoistTileIn sid s
  | .hoistTileOut sid => Sys2Proof.Machine.execHoistTileOut sid s
  | .tfillIndexWrite => Sys2Proof.Machine.execTfillIndexWrite s
  | .cbfillSlotWrite => Sys2Proof.Machine.execCbfillSlotWrite s
  | .setComplete set => Sys2Proof.Machine.execSetComplete set s
  | .shiftChangeRelease => Sys2Proof.Machine.execShiftChangeRelease s
  | .switchWithdrawal => Sys2Proof.Machine.execSwitchWithdrawal s
  | .collRendezvous ctx => Sys2Proof.Machine.execCollRendezvous ctx s
  | .noPeer ctx => Sys2Proof.Machine.execNoPeer ctx s
  | .collTransfer ctx => Sys2Proof.Machine.execCollTransfer ctx s
  | .precisionCounterUpdate ctx chunk => Sys2Proof.Machine.execPrecisionCounterUpdate ctx chunk s
  | .cancelArrival ctx => Sys2Proof.Machine.execCancelArrival ctx s
  | .carveMoveEnd => Sys2Proof.Machine.execCarveMoveEnd s
  | .adaptiveIntervalEnd => Sys2Proof.Machine.execAdaptiveIntervalEnd s
  | .hostWrite bar off bytes => Sys2Proof.Machine.execHostWrite bar off bytes s
  | .hostRead bar off len => Sys2Proof.Machine.execHostRead bar off len s
  | .ingressFlush => Sys2Proof.Machine.execIngressFlush s
  | .hostPortDown port => Sys2Proof.Machine.execHostPortDown port s
  | .sqtailWrite q v => Sys2Proof.Machine.execSqtailWrite q v s
  | .sqcfgWrite q v => Sys2Proof.Machine.execSqcfgWrite q v s
  | .sqheadWrite q v => Sys2Proof.Machine.execSqheadWrite q v s
  | .cqheadWrite q v => Sys2Proof.Machine.execCqheadWrite q v s
  | .registerWrite off v => Sys2Proof.Machine.execRegisterWrite off v s
  | .cardFetch q => Sys2Proof.Machine.execCardFetch q s
  | .submit q => Sys2Proof.Machine.execSubmit q s
  | .completionEvent q => Sys2Proof.Machine.execCompletionEvent q s
  | .peerAccess pa kind => Sys2Proof.Machine.execPeerAccess pa kind s
  | .peerUnreachable id => Sys2Proof.Machine.execPeerUnreachable id s
  | .gtsSync master => Sys2Proof.Machine.execGtsSync master s
  | .linkPortChange port up => Sys2Proof.Machine.execLinkPortChange port up s
  | .powerOnReset => Sys2Proof.Machine.execPowerOnReset s
  | .clockChange up => Sys2Proof.Machine.execClockChange up s
  | .thermalTrip => Sys2Proof.Machine.execThermalTrip s
  | .heartbeatMiss die => Sys2Proof.Machine.execHeartbeatMiss die s
  | .dieLoss die => Sys2Proof.Machine.execDieLoss die s
  | .stackRowSpare stack row => Sys2Proof.Machine.execStackRowSpare stack row s
  | .pseudoChannelSpare stack channel => Sys2Proof.Machine.execPseudoChannelSpare stack channel s
  | .laneRetrain link => Sys2Proof.Machine.execLaneRetrain link s
  | .info => Sys2Proof.Machine.execInfo s
  | .jobnew => Sys2Proof.Machine.execJobnew s
  | .jobend => Sys2Proof.Machine.execJobend s
  | .map => Sys2Proof.Machine.execMap s
  | .unmap => Sys2Proof.Machine.execUnmap s
  | .load => Sys2Proof.Machine.execLoad s
  | .unload => Sys2Proof.Machine.execUnload s
  | .resume => Sys2Proof.Machine.execResume s
  | .kill => Sys2Proof.Machine.execKill s
  | .debug => Sys2Proof.Machine.execDebug s
  | .cap => Sys2Proof.Machine.execCap s
  | .ckpt => Sys2Proof.Machine.execCkpt s
  | .restore => Sys2Proof.Machine.execRestore s
  | .attest => Sys2Proof.Machine.execAttest s
  | .patch => Sys2Proof.Machine.execPatch s
  | .logrd => Sys2Proof.Machine.execLogrd s
  | .dieoff => Sys2Proof.Machine.execDieoff s
  | .linkcfg => Sys2Proof.Machine.execLinkcfg s
  | .reset => Sys2Proof.Machine.execReset s
  | .badcmd => Sys2Proof.Machine.execBadcmd s
  | .nop sl h => Sys2Proof.Machine.execNop sl h s
  | .addW sl h o => Sys2Proof.Machine.execAddW sl h o s
  | .addD sl h o => Sys2Proof.Machine.execAddD sl h o s
  | .subW sl h o => Sys2Proof.Machine.execSubW sl h o s
  | .subD sl h o => Sys2Proof.Machine.execSubD sl h o s
  | .mulW sl h o => Sys2Proof.Machine.execMulW sl h o s
  | .mulD sl h o => Sys2Proof.Machine.execMulD sl h o s
  | .mulhW sl h o => Sys2Proof.Machine.execMulhW sl h o s
  | .mulhD sl h o => Sys2Proof.Machine.execMulhD sl h o s
  | .mulhuW sl h o => Sys2Proof.Machine.execMulhuW sl h o s
  | .mulhuD sl h o => Sys2Proof.Machine.execMulhuD sl h o s
  | .divW sl h o => Sys2Proof.Machine.execDivW sl h o s
  | .divD sl h o => Sys2Proof.Machine.execDivD sl h o s
  | .divuW sl h o => Sys2Proof.Machine.execDivuW sl h o s
  | .divuD sl h o => Sys2Proof.Machine.execDivuD sl h o s
  | .remW sl h o => Sys2Proof.Machine.execRemW sl h o s
  | .remD sl h o => Sys2Proof.Machine.execRemD sl h o s
  | .remuW sl h o => Sys2Proof.Machine.execRemuW sl h o s
  | .remuD sl h o => Sys2Proof.Machine.execRemuD sl h o s
  | .addiW sl h o => Sys2Proof.Machine.execAddiW sl h o s
  | .addiD sl h o => Sys2Proof.Machine.execAddiD sl h o s
  | .and sl h o => Sys2Proof.Machine.execAnd sl h o s
  | .or sl h o => Sys2Proof.Machine.execOr sl h o s
  | .xor sl h o => Sys2Proof.Machine.execXor sl h o s
  | .andn sl h o => Sys2Proof.Machine.execAndn sl h o s
  | .shl sl h o => Sys2Proof.Machine.execShl sl h o s
  | .shr sl h o => Sys2Proof.Machine.execShr sl h o s
  | .sar sl h o => Sys2Proof.Machine.execSar sl h o s
  | .rotl sl h o => Sys2Proof.Machine.execRotl sl h o s
  | .clz sl h o => Sys2Proof.Machine.execClz sl h o s
  | .ctz sl h o => Sys2Proof.Machine.execCtz sl h o s
  | .popc sl h o => Sys2Proof.Machine.execPopc sl h o s
  | .min sl h o => Sys2Proof.Machine.execMin sl h o s
  | .max sl h o => Sys2Proof.Machine.execMax sl h o s
  | .minu sl h o => Sys2Proof.Machine.execMinu sl h o s
  | .maxu sl h o => Sys2Proof.Machine.execMaxu sl h o s
  | .seq sl h o => Sys2Proof.Machine.execSeq sl h o s
  | .sne sl h o => Sys2Proof.Machine.execSne sl h o s
  | .slt sl h o => Sys2Proof.Machine.execSlt sl h o s
  | .sltu sl h o => Sys2Proof.Machine.execSltu sl h o s
  | .sle sl h o => Sys2Proof.Machine.execSle sl h o s
  | .sleu sl h o => Sys2Proof.Machine.execSleu sl h o s
  | .sel sl h o => Sys2Proof.Machine.execSel sl h o s
  | .andi sl h o => Sys2Proof.Machine.execAndi sl h o s
  | .ori sl h o => Sys2Proof.Machine.execOri sl h o s
  | .xori sl h o => Sys2Proof.Machine.execXori sl h o s
  | .shli sl h o => Sys2Proof.Machine.execShli sl h o s
  | .shri sl h o => Sys2Proof.Machine.execShri sl h o s
  | .sari sl h o => Sys2Proof.Machine.execSari sl h o s
  | .movw sl h o => Sys2Proof.Machine.execMovw sl h o s
  | .limm h o => Sys2Proof.Machine.execLimm h o s
  | .bfx sl h o => Sys2Proof.Machine.execBfx sl h o s
  | .bfxu sl h o => Sys2Proof.Machine.execBfxu sl h o s
  | .bfi sl h o => Sys2Proof.Machine.execBfi sl h o s
  | .bset sl h o => Sys2Proof.Machine.execBset sl h o s
  | .bclr sl h o => Sys2Proof.Machine.execBclr sl h o s
  | .btst sl h o => Sys2Proof.Machine.execBtst sl h o s
  | .addp sl h o => Sys2Proof.Machine.execAddp sl h o s
  | .br h off => Sys2Proof.Machine.execBr h off s
  | .brl h dst wbs off => Sys2Proof.Machine.execBrl h dst wbs off s
  | .bri h a imm => Sys2Proof.Machine.execBri h a imm s
  | .ret h a => Sys2Proof.Machine.execRet h a s
  | .loop h lc off => Sys2Proof.Machine.execLoop h lc off s
  | .loopSet h lc a => Sys2Proof.Machine.execLoopSet h lc a s
  | .sloop h iq xg xb off => Sys2Proof.Machine.execSloop h iq xg xb off s
  | .spset h mask a => Sys2Proof.Machine.execSpset h mask a s
  | .ldb h o => Sys2Proof.Machine.execLdb h o s
  | .ldbu h o => Sys2Proof.Machine.execLdbu h o s
  | .ldh h o => Sys2Proof.Machine.execLdh h o s
  | .ldhu h o => Sys2Proof.Machine.execLdhu h o s
  | .ldw h o => Sys2Proof.Machine.execLdw h o s
  | .ldwu h o => Sys2Proof.Machine.execLdwu h o s
  | .ldd h o => Sys2Proof.Machine.execLdd h o s
  | .stb h o => Sys2Proof.Machine.execStb h o s
  | .sth h o => Sys2Proof.Machine.execSth h o s
  | .stw h o => Sys2Proof.Machine.execStw h o s
  | .std h o => Sys2Proof.Machine.execStd h o s
  | .rinv h a b => Sys2Proof.Machine.execRinv h a b s
  | .aadd h o => Sys2Proof.Machine.execAadd h o s
  | .amin h o => Sys2Proof.Machine.execAmin h o s
  | .aminu h o => Sys2Proof.Machine.execAminu h o s
  | .amax h o => Sys2Proof.Machine.execAmax h o s
  | .amaxu h o => Sys2Proof.Machine.execAmaxu h o s
  | .aand h o => Sys2Proof.Machine.execAand h o s
  | .aor h o => Sys2Proof.Machine.execAor h o s
  | .axor h o => Sys2Proof.Machine.execAxor h o s
  | .aswap h o => Sys2Proof.Machine.execAswap h o s
  | .acas h o => Sys2Proof.Machine.execAcas h o s
  | .phase h a => Sys2Proof.Machine.execPhase h a s
  | .carve h a => Sys2Proof.Machine.execCarve h a s
  | .fence h ord scp => Sys2Proof.Machine.execFence h ord scp s
  | .qalign h => Sys2Proof.Machine.execQalign h s
  | .tlwait h tl a => Sys2Proof.Machine.execTlwait h tl a s
  | .tlread h dst wbs tl => Sys2Proof.Machine.execTlread h dst wbs tl s
  | .tswap h a => Sys2Proof.Machine.execTswap h a s
  | .tstatr sl h dst wbs selv => Sys2Proof.Machine.execTstatr sl h dst wbs selv s
  | .tdset sl h treg a gmask => Sys2Proof.Machine.execTdset sl h treg a gmask s
  | .pcnt sl h dst wbs a => Sys2Proof.Machine.execPcnt sl h dst wbs a s
  | .pwait h a b => Sys2Proof.Machine.execPwait h a b s
  | .tagget h dst wbs a => Sys2Proof.Machine.execTagget h dst wbs a s
  | .tagset h a b => Sys2Proof.Machine.execTagset h a b s
  | .dispatch h dst wbs a => Sys2Proof.Machine.execDispatch h dst wbs a s
  | .mlook h dst wbs a => Sys2Proof.Machine.execMlook h dst wbs a s
  | .cellmk h a b => Sys2Proof.Machine.execCellmk h a b s
  | .cellmkFut h a => Sys2Proof.Machine.execCellmkFut h a s
  | .resolve h a b => Sys2Proof.Machine.execResolve h a b s
  | .resolveOn h a b tl => Sys2Proof.Machine.execResolveOn h a b tl s
  | .freg h dst wbs a b => Sys2Proof.Machine.execFreg h dst wbs a b s
  | .spawn h a b => Sys2Proof.Machine.execSpawn h a b s
  | .suspend h a off => Sys2Proof.Machine.execSuspend h a off s
  | .finish h a => Sys2Proof.Machine.execFinish h a s
  | .launch h dst wbs a => Sys2Proof.Machine.execLaunch h dst wbs a s
  | .chunk h dst wbs => Sys2Proof.Machine.execChunk h dst wbs s
  | .cntrd h dst wbs a lvl => Sys2Proof.Machine.execCntrd h dst wbs a lvl s
  | .cancel h a lvl => Sys2Proof.Machine.execCancel h a lvl s
  | .specev h a b => Sys2Proof.Machine.execSpecev h a b s
  | .trap h code => Sys2Proof.Machine.execTrap h code s
  | .dbgbrk h code => Sys2Proof.Machine.execDbgbrk h code s
  | .tret h => Sys2Proof.Machine.execTret h s
  | .mfs sl h dst wbs spr => Sys2Proof.Machine.execMfs sl h dst wbs spr s
  | .mts sl h spr a => Sys2Proof.Machine.execMts sl h spr a s
  | .time sl h dst wbs selv => Sys2Proof.Machine.execTime sl h dst wbs selv s
  | .perfrd sl h dst wbs cnt => Sys2Proof.Machine.execPerfrd sl h dst wbs cnt s
  | .xex h idx psel => Sys2Proof.Machine.execXex h idx psel s
  | .xpnd h o => Sys2Proof.Machine.execXpnd h o s
  | .xpndi h o => Sys2Proof.Machine.execXpndi h o s
  | .xpos h gs ts gd td => Sys2Proof.Machine.execXpos h gs ts gd td s
  | .xcvtw h o => Sys2Proof.Machine.execXcvtw h o s
  | .kld h kn a sz ofs => Sys2Proof.Machine.execKld h kn a sz ofs s
  | .kset h kn a mode j => Sys2Proof.Machine.execKset h kn a mode j s
  | .kmov h kd ks => Sys2Proof.Machine.execKmov h kd ks s
  | .cpy h a b ctx => Sys2Proof.Machine.execCpy h a b ctx s
  | .cpyg h a b ctx => Sys2Proof.Machine.execCpyg h a b ctx s
  | .cpys h a b ctx => Sys2Proof.Machine.execCpys h a b ctx s
  | .cpyt h a b ctx => Sys2Proof.Machine.execCpyt h a b ctx s
  | .cpyx h a b ctx => Sys2Proof.Machine.execCpyx h a b ctx s
  | .cpyz h a b ctx => Sys2Proof.Machine.execCpyz h a b ctx s
  | .cpyw h a b ctx sfmt dfmt => Sys2Proof.Machine.execCpyw h a b ctx sfmt dfmt s
  | .cfill h a b ctx => Sys2Proof.Machine.execCfill h a b ctx s
  | .strm h a sid tgt depthm1 => Sys2Proof.Machine.execStrm h a sid tgt depthm1 s
  | .strmx h a sid => Sys2Proof.Machine.execStrmx h a sid s
  | .syncw h a b ctx g => Sys2Proof.Machine.execSyncw h a b ctx g s
  | .hsub h a b sid dir => Sys2Proof.Machine.execHsub h a b sid dir s
  | .hrel h sid => Sys2Proof.Machine.execHrel h sid s
  | .cbfill h a bank smask => Sys2Proof.Machine.execCbfill h a bank smask s
  | .qpush h a b ctx iq tok => Sys2Proof.Machine.execQpush h a b ctx iq tok s
  | .tfill h a b gmask => Sys2Proof.Machine.execTfill h a b gmask s
  | .coll h a kind ctx => Sys2Proof.Machine.execColl h a kind ctx s
  | .pcancel h a => Sys2Proof.Machine.execPcancel h a s

end Sys2Proof.Machine
end

