-- ==== Sys2Proof/Machine/Schedule.lean ====
section
/-! DEFINITION. Which event comes next where the agenda names none. The spec leaves the order of the agents' steps open; the agenda
may name any, and without one the model takes the first of a fixed list that changes anything. -/

namespace Sys2Proof.Machine

/-- A row of the table that is an event, not an operation of a bundle. -/
def isEvent (i : Instr) : Bool := i.slot?.isNone

/-- An event where it may have something to do. -/
def when (b : Bool) (l : List Instr) : List Instr := if b then l else []

/-- What an access dispatched from the queues may do next. -/
def accessEvents (p : Pkg) (e : QEntry) : List Instr :=
  [.accessPerformed e.id, .cellOperation e.id, .dispatchDecision e.id] ++ when (!p.env.peersDown.isEmpty || p.mgmt.linksUp == 0) [.peerUnreachable e.id]

/-- R369: whether the 2^26 clk of a wait that began at `since` have passed. -/
def State.waited (s : State) (since : Nat) : Bool := decide (since + 2 ^ 26 ≤ s.clk)

/-- R369: what follows for an access that has been under way for 2^26 clk: it is not performed late. One that reads for a dispatcher ends there. -/
def lateEvents (s : State) (e : QEntry) : List Instr :=
  when (s.waited e.since) ([.peerUnreachable e.id] ++ (match e.op with
    | .mlook _ | .launch _ | .spawn _ _ => [.accessPerformed e.id]
    | .cellmk .. | .resolve .. | .freg .. => [.cellOperation e.id]
    | .dispatch _ => [.dispatchDecision e.id]
    | _ => []))

/-- What a command may do next (R238 to R282). -/
def cmdEvents (c : Cmd) : List Instr :=
  match c.op with
  | .copy .. => [.copyBeatTransfer c.tl, .feWait c.tl, .qFull c.tl, .commandEnd c.tl]
  | .syncw .. => [.syncwWrite c.tl, .commandEnd c.tl]
  | .qpush .. => [.qpushDelivery c.tl, .qFull c.tl, .commandEnd c.tl]
  | .hsub _ _ sid out => [if out then .hoistTileOut sid else .hoistTileIn sid, .qFull c.tl, .commandEnd c.tl]
  | .tfill .. => [.tfillIndexWrite, .commandEnd c.tl]
  | .cbfill .. => [.cbfillSlotWrite, .commandEnd c.tl]
  | .coll .. =>
    [.collRendezvous c.tl, .cancelArrival c.tl] ++ when (c.st == .run && c.planes) ((List.range c.chunks).map (.precisionCounterUpdate c.tl)) ++
      [.collTransfer c.tl, .noPeer c.tl, .commandEnd c.tl]
  | .strm .. | .strmx .. | .hrel _ | .pcancel _ => [.commandEnd c.tl]

/-- R369: what follows for what else of the current core has waited 2^26 clk: a command, an armed resolution, the unit's own save or assay. -/
def lateCore (s : State) : List Instr :=
  let c := s.core
  (c.lsu.outst.map (lateEvents s)).flatten ++
    (c.eng.cmds.map fun x => match x.lost with | some (k, _) => when (s.waited k) (cmdEvents x) | none => []).flatten ++
    ((c.eng.armed.zip (List.range c.eng.armed.length)).map fun (a, i) => match a.lost with
      | some k => when (s.waited k) [Instr.resolveOnFire i]
      | none => []).flatten ++
    when (c.un.lost.any fun x => s.waited x.2) [.contextSave, .assayReplay]

/-- R369: what follows for what the package has waited for: a launch, what a core is to take, a cell that a dispatcher has to write. -/
def latePkg (s : State) : List Instr :=
  (s.pkg.launches.map fun e => match e.2 with
    | some l =>
      when ((match l.lost with | some k => s.waited k | none => false) || (match l.raised with | some (_, k) => s.waited k | none => false))
        [Instr.chunkGrant e.1, .levelCompletion .launch e.1]
    | none => []).flatten ++
    when (s.cores.any fun e => e.2.un.st == .idle && e.2.un.lost.any fun x => s.waited x.2) [.unitPickup, .contextRestore] ++
    when (s.pkg.farCells.any fun f => s.waited f.since) [.peerUnreachable s.core.sca.seq]

/-- The events of the current core. -/
def coreEvents (s : State) : List Instr :=
  let c := s.core
  let running := decide (c.un.st = .running)
  when c.trp.assay.isSome [.assayReplay] ++ when c.tab.wait.isSome [.shiftChangeRelease, .switchWithdrawal] ++
    when c.lsu.move.isSome [.carveMoveEnd] ++ when c.lsu.adapt [.adaptiveIntervalEnd] ++
    when c.lsu.ingressFull.isSome [.ingressFlush] ++ when (!c.lsu.loadQ.isEmpty) [.queueDispatch false] ++
    when (!c.lsu.storeQ.isEmpty) [.queueDispatch true] ++ (c.lsu.outst.map (accessEvents s.pkg)).flatten ++
    when (!c.lsu.acks.isEmpty) [.writeAcknowledgement] ++ (List.range c.eng.armed.length).map .resolveOnFire ++
    (c.eng.cmds.map cmdEvents).flatten ++ when (!c.vec.openSince.isEmpty) [.depth] ++
    when (running && s.higherWaits) [.preemptionDue] ++ when c.trp.preemptDue [.preemption] ++
    (match c.un.st with | .leaving (.park _ _) | .leaving .preempt => [.contextSave] | _ => []) ++
    when (running && (match c.sca.cellStall with | some _ => false | none => true)) [.tlbWalk]

/-- The commands of the mailbox. -/
def commandEvents : List Instr :=
  [.info, .jobnew, .jobend, .map, .unmap, .load, .unload, .resume, .kill, .debug, .cap, .ckpt, .restore, .attest, .patch, .logrd,
   .dieoff, .linkcfg, .reset, .badcmd]

/-- What a level may do next. -/
def levelEvents (p : Pkg) : List Instr :=
  ((fkeys p.launches).map fun n => [Instr.chunkGrant n, .levelCompletion .launch n]).flatten ++
    (fkeys p.graphs).map (.levelCompletion .graph) ++ (fkeys p.phases).map (.levelCompletion .phase) ++
    (fkeys p.jobs).map (.levelCompletion .job)

/-- What a submission ring may do next. -/
def ringEvents (p : Pkg) : List Instr :=
  ((fkeys p.rings).map fun q => [Instr.completionEvent q, .cardFetch q, .submit q]).flatten

/-- The events of the package. -/
def pkgEvents (s : State) : List Instr :=
  let p := s.pkg
  p.mgmt.declared.map .dieLoss ++ when p.mgmt.busy commandEvents ++ (List.range p.sets.length).map .setComplete ++ levelEvents p ++
    ringEvents p ++ ((fkeys p.queues).map fun k => Instr.queuePromotion (k / 8) (k % 8)) ++
    when s.anyWork [.unitPickup, .contextRestore] ++ when (!p.farCells.isEmpty) [.peerUnreachable s.core.sca.seq]

/-- Whether an event changes the state. DESIGN CHOICE: log entry 71. -/
def changes (s : State) (i : Instr) : Bool :=
  match exec i s with
  | .next t => decide (t ≠ s)
  | _ => false

/-- The events that a rule gives a latest time, as that time comes: a completed set (R165), its release (R166), the read that ends a
submission's window (R360), what follows a wait of 2^26 clk for memory that cannot be reached (R369), the end of a carve-out move (R134) and of an adaptive interval (R135), the flush of a full ingress buffer (R148), the
end of an assay's replay (R218), a cancel's arrival at a member (R280), the waits that have run out (R249, R255, R267, R347). -/
def dueEvents (s : State) : List Instr :=
  let c := s.core
  (List.range s.pkg.sets.length).map .setComplete ++
    when (match c.tab.wait with | some w => w.granted && decide (w.grantAt + 1200 ≤ s.clk) | none => false) [.shiftChangeRelease] ++
    (fkeys s.pkg.rings).map .submit ++ when c.lsu.move.isSome [.carveMoveEnd] ++ when c.lsu.adapt [.adaptiveIntervalEnd] ++
    when c.lsu.ingressFull.isSome [.ingressFlush] ++ when (c.trp.assay.isSome && decide (c.trp.assayDue ≤ s.clk)) [.assayReplay] ++
    (c.eng.cmds.map fun x => [Instr.feWait x.tl, .qFull x.tl, .noPeer x.tl] ++ when (s.cancelDue x) [.cancelArrival x.tl]).flatten ++
    when (!c.vec.openSince.isEmpty) [.depth] ++ lateCore s ++ latePkg s

/-- The event that may not wait any longer. -/
def dueNow (s : State) : Option Instr := (dueEvents s).find? (changes s)

/-- The event taken where the agenda names none. DESIGN CHOICE: log entry 1. -/
def defaultPick (s : State) : Option Instr := (coreEvents s ++ pkgEvents s).find? (changes s)

/-- Whether a result of the current core is due to land (R71). A stopped package lands none. -/
def landingDue (s : State) : Bool :=
  !stopped s && (match s.core.sca.inflight with | x :: _ => decide (x.due ≤ s.clk) | [] => false)

/-! ### Placing one instruction where it is fetched next -/

/-- The three page tables of a placed instruction: one leaf of 1 GiB, scanned-executable, over the first GiB of HBM. -/
def placeTables (p : Pkg) (pc : Nat) : Pkg :=
  let root := 0x4000_0000
  let l1 := root + 4096
  let l2 := l1 + 4096
  let p := writeNat p (root + 8 * fld pc 48 8) 8 (l1 + 1)
  let p := writeNat p (l1 + 8 * fld pc 39 9) 8 (l2 + 1)
  writeNat p (l2 + 8 * fld pc 30 9) 8 0x13

/-- The bundle an instruction word is placed as: the operation alone, or the word in slot S0 where it is none. -/
def placedBundle (nbits w : Nat) : Nat :=
  match decodeTableWord nbits w with
  | some i => encodeBundle (Bundle.single i)
  | none => 1 + 2 ^ 16 * (w % 2 ^ 48)

/-- A job whose tables map the page at pc, a unit that runs there, and the bundle in memory. DESIGN CHOICE: log entry 69. -/
def placeUnit (s : State) (nbits w : Nat) : State :=
  let pc := s.core.sca.pc
  let job : Job := { xroot := 0x4000_0000, acttab := 0, methctl := 0, ctxpool := 0, level := { counter := 1, cancelled := false, complete := false },
                     stopped := false, areas := [] }
  let pkg := writeNat (placeTables s.pkg pc) (pc % 2 ^ 30) 32 (placedBundle nbits w)
  { s with
    agenda := [],
    core := { s.core with un := { s.core.un with st := .running, code := pc, codeLen := 32, job := 1 } },
    pkg := { pkg with jobs := fset none pkg.jobs 1 (some job) } }

end Sys2Proof.Machine
end

