-- ==== Sys2Proof/Machine/Step.lean ====
section
/-! DEFINITION. One step of the package: a due result lands, else an event whose latest time has come, else the agenda's next event, else
the default one, else the turn of the current core. -/

namespace Sys2Proof.Machine

/-- One step. The order of the agents' steps is the agenda's; see Schedule.lean for what happens without one. -/
def step (s : State) : Host.Outcome State Fault Refusal :=
  if landingDue s then exec .resultLand s
  else match dueNow s with
  | some i => exec i s
  | none =>
    match s.agenda with
    | i :: rest => if isEvent i then exec i { s with agenda := rest } else .refused .badAgenda
    | [] =>
      match defaultPick s with
      | some i => exec i s
      | none => if stopped s then .fault .packageStopped else exec .bundleIssue s

/-- `s` with a unit that runs on the current core and has the instruction whose bits are `w` at its pc. -/
def State.withFetchWord (s : State) (nbits w : Nat) : State := placeUnit s nbits w

end Sys2Proof.Machine
end

