-- ==== Sys2Proof/Laws/Fields.lean ====
section
/-! SUPPORT. The laws of packing fields into a word: a field that stands below every earlier one reads back, and the operands of each
body form read back from the fields they make. -/

namespace Sys2Proof

/-- The fields stand in falling order below bit `hi`, none overlaps the next, and each value fits its field. -/
def Packed : Nat → List Field → Prop
  | _, [] => True
  | hi, (lo, n, v) :: fs => (lo + n ≤ hi ∧ v < 2 ^ n) ∧ Packed lo fs

/-- Whether a field of these bits is among the fields. -/
def hasField : List Field → Nat → Nat → Bool
  | [], _, _ => false
  | (l, m, _) :: fs, lo, n => (l == lo && m == n) || hasField fs lo n

/-- The value of the field of these bits. -/
def valueAt : List Field → Nat → Nat → Nat
  | [], _, _ => 0
  | (l, m, v) :: fs, lo, n => if l == lo && m == n then v else valueAt fs lo n

theorem Packed.mono {fs : List Field} {a b : Nat} (h : Packed a fs) (hab : a ≤ b) : Packed b fs := by
  cases fs with
  | nil => trivial
  | cons f fs => obtain ⟨lo, n, v⟩ := f; exact ⟨⟨Nat.le_trans h.1.1 hab, h.1.2⟩, h.2⟩

theorem packFields_lt {fs : List Field} {hi : Nat} (h : Packed hi fs) : packFields fs < 2 ^ hi := by
  induction fs generalizing hi with
  | nil => exact Nat.two_pow_pos hi
  | cons f fs ih =>
    obtain ⟨lo, n, v⟩ := f
    obtain ⟨⟨hle, hv⟩, hr⟩ := h
    have h1 := ih hr
    have h2 : v * 2 ^ lo + 2 ^ lo ≤ 2 ^ n * 2 ^ lo := by
      have := Nat.mul_le_mul_right (2 ^ lo) hv
      rwa [Nat.succ_mul] at this
    have h3 : 2 ^ n * 2 ^ lo ≤ 2 ^ hi := by
      rw [← Nat.pow_add]; exact Nat.pow_le_pow_right (by decide) (by omega)
    simp only [packFields]; omega

theorem valueAt_lt {fs : List Field} {hi lo n : Nat} (h : Packed hi fs) (hf : hasField fs lo n = true) :
    lo + n ≤ hi ∧ valueAt fs lo n < 2 ^ n := by
  induction fs generalizing hi with
  | nil => simp [hasField] at hf
  | cons f fs ih =>
    obtain ⟨l, m, v⟩ := f
    obtain ⟨⟨hle, hv⟩, hr⟩ := h
    by_cases hc : (l == lo && m == n) = true
    · simp only [valueAt, hc, if_true]
      simp only [Bool.and_eq_true, beq_iff_eq] at hc
      obtain ⟨rfl, rfl⟩ := hc; exact ⟨hle, hv⟩
    · simp only [hasField, hc, Bool.false_or] at hf
      simp only [valueAt, hc]
      exact ⟨by have := (ih hr hf).1; omega, (ih hr hf).2⟩

/-- A field reads back. -/
theorem fld_packFields {fs : List Field} {hi lo n : Nat} (h : Packed hi fs) (hf : hasField fs lo n = true) :
    fld (packFields fs) lo n = valueAt fs lo n := by
  induction fs generalizing hi with
  | nil => simp [hasField] at hf
  | cons f fs ih =>
    obtain ⟨l, m, v⟩ := f
    obtain ⟨⟨hle, hv⟩, hr⟩ := h
    have hlt := packFields_lt hr
    by_cases hc : (l == lo && m == n) = true
    · simp only [valueAt, hc, if_true]
      simp only [Bool.and_eq_true, beq_iff_eq] at hc
      obtain ⟨rfl, rfl⟩ := hc
      simp only [fld, packFields, Nat.shiftRight_eq_div_pow]
      rw [Nat.add_comm, Nat.add_mul_div_right _ _ (Nat.two_pow_pos _), Nat.div_eq_of_lt hlt, Nat.zero_add, Nat.mod_eq_of_lt hv]
    · simp only [hasField, hc, Bool.false_or] at hf
      simp only [valueAt, hc]
      have hb := (valueAt_lt hr hf).1
      rw [if_neg (by simp), ← ih hr hf]
      simp only [fld, packFields, Nat.shiftRight_eq_div_pow]
      have e : 2 ^ l = 2 ^ lo * (2 ^ n * 2 ^ (l - lo - n)) := by
        rw [← Nat.pow_add, ← Nat.pow_add]; congr 1; omega
      rw [e, show v * (2 ^ lo * (2 ^ n * 2 ^ (l - lo - n))) + packFields fs
          = packFields fs + 2 ^ lo * (v * (2 ^ n * 2 ^ (l - lo - n))) by rw [Nat.add_comm, Nat.mul_left_comm],
        Nat.add_mul_div_left _ _ (Nat.two_pow_pos _),
        show v * (2 ^ n * 2 ^ (l - lo - n)) = 2 ^ n * (v * 2 ^ (l - lo - n)) by rw [Nat.mul_left_comm], Nat.add_mul_mod_self_left]

theorem bfld_eq (x lo n : Nat) : bfld x lo n = BitVec.ofNat n (fld x lo n) := by
  apply BitVec.eq_of_toNat_eq; simp [bfld, fld]

theorem bfld_packFields {fs : List Field} {hi lo n : Nat} (h : Packed hi fs) (hf : hasField fs lo n = true) :
    bfld (packFields fs) lo n = BitVec.ofNat n (valueAt fs lo n) := by
  rw [bfld_eq, fld_packFields h hf]

theorem bit_eq (x i : Nat) : bit x i = (fld x i 1 == 1) := by
  simp only [bit, fld, Nat.testBit, Nat.and_comm 1, Nat.and_one_is_mod, Nat.pow_one]
  have : x >>> i % 2 = 0 ∨ x >>> i % 2 = 1 := by omega
  rcases this with h | h <;> simp [h]

theorem bit_packFields {fs : List Field} {hi lo : Nat} (h : Packed hi fs) (hf : hasField fs lo 1 = true) :
    bit (packFields fs) lo = (valueAt fs lo 1 == 1) := by rw [bit_eq, fld_packFields h hf]

theorem b2n_lt (b : Bool) : b2n b < 2 ^ 1 := by cases b <;> decide
@[simp] theorem b2n_beq_one (b : Bool) : (b2n b == 1) = b := by cases b <;> rfl

/-- The high fields of a word leave its body alone. -/
theorem packFields_append (as bs : List Field) : packFields (as ++ bs) = packFields as + packFields bs := by
  induction as with
  | nil => simp [packFields]
  | cons a as ih => obtain ⟨lo, n, v⟩ := a; simp only [List.cons_append, packFields, ih]; omega

theorem Packed.append {as bs : List Field} {hi lo : Nat} (ha : Packed hi as) (hl : ∀ f ∈ as, lo ≤ f.1) (hb : Packed lo bs) (hh : lo ≤ hi) :
    Packed hi (as ++ bs) := by
  induction as generalizing hi with
  | nil => exact hb.mono hh
  | cons f fs ih =>
    obtain ⟨l, n, v⟩ := f
    exact ⟨ha.1, ih ha.2 (fun f hf => hl f (List.mem_cons_of_mem _ hf)) (hl (l, n, v) List.mem_cons_self)⟩

/-- A slot's word: its common fields above its body. -/
theorem slot_packed (h : Head) {m : Nat} (hm : m < 2 ^ 8) {bs : List Field} (hb : Packed 27 bs) : Packed 48 (h.fields m ++ bs) := by
  refine Packed.append (lo := 27) ?_ (by simp [Head.fields]) hb (by decide)
  exact ⟨⟨by decide, hm⟩, ⟨by decide, b2n_lt _⟩, ⟨by decide, h.greg.isLt⟩, ⟨by decide, h.gpos.isLt⟩, ⟨by decide, b2n_lt _⟩, trivial⟩

theorem slot_body (h : Head) (m : Nat) {bs : List Field} (hb : Packed 27 bs) :
    fld (packFields (h.fields m ++ bs)) 0 27 = packFields bs := by
  rw [packFields_append]
  have := packFields_lt hb
  simp only [Head.fields, packFields, fld, Nat.shiftRight_zero]
  omega

theorem decodeHead_slot (h : Head) {m : Nat} (hm : m < 2 ^ 8) {bs : List Field} (hb : Packed 27 bs) :
    decodeHead (packFields (h.fields m ++ bs)) = h := by
  have hp := slot_packed h hm hb
  simp only [decodeHead]
  rw [bit_packFields hp (by rfl), bfld_packFields hp (by rfl), bfld_packFields hp (by rfl), bit_packFields hp (by rfl)]
  simp [Head.fields, valueAt]

theorem major_slot (h : Head) {m : Nat} (hm : m < 2 ^ 8) {bs : List Field} (hb : Packed 27 bs) :
    fld (packFields (h.fields m ++ bs)) 40 8 = m := by
  rw [fld_packFields (slot_packed h hm hb) (by rfl)]; rfl

theorem firstFail_wf {i : Instr} (h : i.wf = true) : firstFail i.checks = none := by
  unfold Instr.wf at h
  generalize i.checks = cs at h
  induction cs with
  | nil => rfl
  | cons c cs ih =>
    obtain ⟨a, b, ok⟩ := c
    simp only [List.all_cons, Bool.and_eq_true] at h
    simp only [firstFail, h.1, if_true]
    exact ih h.2

theorem decodeBody_word (sl : SSlot) (h : Head) (b : Nat) (hi : Option Nat) : decodeBody sl h 0x01 b hi = decodeWord sl h b (fld b 0 7) := rfl
theorem decodeBody_double (sl : SSlot) (h : Head) (b : Nat) (hi : Option Nat) : decodeBody sl h 0x02 b hi = decodeDouble sl h b (fld b 0 7) := rfl
theorem decodeBody_logic (sl : SSlot) (h : Head) (b : Nat) (hi : Option Nat) : decodeBody sl h 0x05 b hi = decodeLogic sl h b (fld b 0 7) := rfl
theorem decodeBody_field (sl : SSlot) (h : Head) (b : Nat) (hi : Option Nat) : decodeBody sl h 0x0E b hi = decodeField sl h b (fld b 12 3) := rfl

/-- The S slot a position names. -/
def SlotPos.sslot (p : SlotPos) : SSlot := if p = .s1 then .s1 else .s0

@[simp] theorem sslot_pos (sl : SSlot) : sl.pos.sslot = sl := by cases sl <;> rfl

/-- The round trip of an operation follows from that of its body. -/
theorem roundTrip_of_body {i : Instr} {h : Head} {m : Nat} {p : SlotPos} {hi : Option Nat} (hh : i.head? = some h) (hm : i.major? = some m)
    (hp : i.slot? = some p) (hlt : m < 2 ^ 8) (hb : Packed 27 i.bodyFields)
    (hd : decodeBody p.sslot h m (packFields i.bodyFields) hi = .ok i) (hw : i.wf = true) :
    encodeSlot i < 2 ^ 48 ∧ decodeSlot p (encodeSlot i) hi = .ok i := by
  have hf : i.fields = h.fields m ++ i.bodyFields := by simp [Instr.fields, hh, hm]
  have he : encodeSlot i = packFields (h.fields m ++ i.bodyFields) := by rw [encodeSlot, hf]
  refine ⟨he ▸ packFields_lt (slot_packed h hlt hb), ?_⟩
  have hx : decodeBody (if p = .s1 then SSlot.s1 else .s0) (decodeHead (encodeSlot i)) (fld (encodeSlot i) 40 8) (fld (encodeSlot i) 0 27) hi
      = .ok i := by
    rw [he, decodeHead_slot h hlt hb, major_slot h hlt hb, slot_body h m hb]; exact hd
  simp only [decodeSlot, hx, hp, firstFail_wf hw, ne_eq, not_true, if_false, if_true]

/-! ### Each body form -/

theorem RegOps.packed (o : RegOps) {k : Nat} (hk : k < 2 ^ 7) : Packed 27 (o.fields ++ [(0, 7, k)]) :=
  ⟨⟨by decide, o.dst.isLt⟩, ⟨by decide, b2n_lt _⟩, ⟨by decide, o.srcA.isLt⟩, ⟨by decide, o.srcB.isLt⟩, ⟨by decide, b2n_lt _⟩,
    ⟨by decide, b2n_lt _⟩, ⟨by decide, hk⟩, trivial⟩

theorem RegOps.ofBody_fields (o : RegOps) {k : Nat} (hk : k < 2 ^ 7) :
    fld (packFields (o.fields ++ [(0, 7, k)])) 0 7 = k ∧ RegOps.ofBody (packFields (o.fields ++ [(0, 7, k)])) = o := by
  have hp := o.packed hk
  simp only [RegOps.ofBody]
  rw [fld_packFields hp (by rfl), bfld_packFields hp (by rfl), bit_packFields hp (by rfl), bfld_packFields hp (by rfl),
    bfld_packFields hp (by rfl), bit_packFields hp (by rfl), bit_packFields hp (by rfl)]
  simp [RegOps.fields, valueAt]

/-! ### Words that decode -/

/-- Whether a slot's word decodes to `i`: the form in which a word written out is checked. -/
def decodesTo (p : SlotPos) (w : Nat) (hi : Option Nat) (i : Instr) : Bool :=
  match decodeSlot p w hi with
  | .ok j => j == i
  | .error _ => false

/-- Whether a slot's word is refused under condition `c` at bit `pos`. -/
def refusedAs (p : SlotPos) (w : Nat) (hi : Option Nat) (c : ScanCond) (pos : Nat) : Bool :=
  match decodeSlot p w hi with
  | .ok _ => false
  | .error e => e == { cond := c, pos }

theorem decodeSlot_of_decodesTo {p : SlotPos} {w : Nat} {hi : Option Nat} {i : Instr} (h : decodesTo p w hi i = true) :
    decodeSlot p w hi = .ok i := by
  unfold decodesTo at h
  split at h
  · next e => rw [e, eq_of_beq h]
  · cases h

theorem decodeSlot_of_refusedAs {p : SlotPos} {w : Nat} {hi : Option Nat} {c : ScanCond} {pos : Nat} (h : refusedAs p w hi c pos = true) :
    decodeSlot p w hi = .error { cond := c, pos } := by
  unfold refusedAs at h
  split at h
  · cases h
  · next e => rw [e, eq_of_beq h]

/-! ### The forms of the owning chapters -/

theorem RegOps1.packed (o : RegOps1) {k : Nat} (hk : k < 2 ^ 7) : Packed 27 (o.fields ++ [(0, 7, k)]) :=
  ⟨⟨by decide, o.dst.isLt⟩, ⟨by decide, b2n_lt _⟩, ⟨by decide, o.srcA.isLt⟩, ⟨by decide, b2n_lt _⟩, ⟨by decide, hk⟩,
    trivial⟩

theorem RegOps1.ofBody_fields (o : RegOps1) {k : Nat} (hk : k < 2 ^ 7) :
    fld (packFields (o.fields ++ [(0, 7, k)])) 0 7 = k ∧ RegOps1.ofBody (packFields (o.fields ++ [(0, 7, k)])) = o := by
  have hp := o.packed hk
  simp only [RegOps1.ofBody]
  rw [fld_packFields hp (by rfl), bfld_packFields hp (by rfl), bit_packFields hp (by rfl), bfld_packFields hp (by rfl), bit_packFields hp (by rfl)]
  simp [RegOps1.fields, valueAt]

theorem ImmOps.packed (o : ImmOps) : Packed 27 (o.fields) :=
  ⟨⟨by decide, o.dst.isLt⟩, ⟨by decide, b2n_lt _⟩, ⟨by decide, o.srcA.isLt⟩, ⟨by decide, o.imm.isLt⟩, trivial⟩

theorem ImmOps.ofBody_fields (o : ImmOps) : ImmOps.ofBody (packFields o.fields) = o := by
  have hp := o.packed
  simp only [ImmOps.ofBody]
  rw [bfld_packFields hp (by rfl), bit_packFields hp (by rfl), bfld_packFields hp (by rfl), bfld_packFields hp (by rfl)]
  simp [ImmOps.fields, valueAt]

theorem BfOps.packed (o : BfOps) {k : Nat} (hk : k < 2 ^ 3) : Packed 27 (o.fields k) :=
  ⟨⟨by decide, o.dst.isLt⟩, ⟨by decide, b2n_lt _⟩, ⟨by decide, o.srcA.isLt⟩, ⟨by decide, hk⟩, ⟨by decide, o.pos.isLt⟩,
    ⟨by decide, o.wid.isLt⟩, trivial⟩

theorem BfOps.ofBody_fields (o : BfOps) {k : Nat} (hk : k < 2 ^ 3) :
    fld (packFields (o.fields k)) 12 3 = k ∧ BfOps.ofBody (packFields (o.fields k)) = o := by
  have hp := o.packed hk
  simp only [BfOps.ofBody]
  rw [fld_packFields hp (by rfl), bfld_packFields hp (by rfl), bit_packFields hp (by rfl), bfld_packFields hp (by rfl), bfld_packFields hp (by rfl),
    bfld_packFields hp (by rfl)]
  simp [BfOps.fields, valueAt]

theorem BitOps.packed (o : BitOps) {k : Nat} (hk : k < 2 ^ 3) : Packed 27 (o.fields k) :=
  ⟨⟨by decide, o.dst.isLt⟩, ⟨by decide, b2n_lt _⟩, ⟨by decide, o.srcA.isLt⟩, ⟨by decide, hk⟩, ⟨by decide, o.pos.isLt⟩,
    trivial⟩

theorem BitOps.ofBody_fields (o : BitOps) {k : Nat} (hk : k < 2 ^ 3) :
    fld (packFields (o.fields k)) 12 3 = k ∧ BitOps.ofBody (packFields (o.fields k)) = o := by
  have hp := o.packed hk
  simp only [BitOps.ofBody]
  rw [fld_packFields hp (by rfl), bfld_packFields hp (by rfl), bit_packFields hp (by rfl), bfld_packFields hp (by rfl), bfld_packFields hp (by rfl)]
  simp [BitOps.fields, valueAt]

theorem AddpOps.packed (o : AddpOps) {k : Nat} (hk : k < 2 ^ 3) : Packed 27 (o.fields k) :=
  ⟨⟨by decide, o.dst.isLt⟩, ⟨by decide, b2n_lt _⟩, ⟨by decide, o.srcA.isLt⟩, ⟨by decide, hk⟩, ⟨by decide, o.srcB.isLt⟩,
    ⟨by decide, o.sh.isLt⟩, trivial⟩

theorem AddpOps.ofBody_fields (o : AddpOps) {k : Nat} (hk : k < 2 ^ 3) :
    fld (packFields (o.fields k)) 12 3 = k ∧ AddpOps.ofBody (packFields (o.fields k)) = o := by
  have hp := o.packed hk
  simp only [AddpOps.ofBody]
  rw [fld_packFields hp (by rfl), bfld_packFields hp (by rfl), bit_packFields hp (by rfl), bfld_packFields hp (by rfl), bfld_packFields hp (by rfl),
    bfld_packFields hp (by rfl)]
  simp [AddpOps.fields, valueAt]

theorem LoadOps.packed (o : LoadOps) : Packed 27 (o.fields) :=
  ⟨⟨by decide, o.dst.isLt⟩, ⟨by decide, b2n_lt _⟩, ⟨by decide, o.srcA.isLt⟩, ⟨by decide, b2n_lt _⟩,
    ⟨by decide, o.ofs.isLt⟩, trivial⟩

theorem LoadOps.ofBody_fields (o : LoadOps) : LoadOps.ofBody (packFields o.fields) = o := by
  have hp := o.packed
  simp only [LoadOps.ofBody]
  rw [bfld_packFields hp (by rfl), bit_packFields hp (by rfl), bfld_packFields hp (by rfl), bit_packFields hp (by rfl),
    bfld_packFields hp (by rfl)]
  simp [LoadOps.fields, valueAt]

theorem StoreOps.packed (o : StoreOps) : Packed 27 (o.fields) :=
  ⟨⟨by decide, o.srcB.isLt⟩, ⟨by decide, o.srcA.isLt⟩, ⟨by decide, b2n_lt _⟩, ⟨by decide, o.ofs.isLt⟩, trivial⟩

theorem StoreOps.ofBody_fields (o : StoreOps) : StoreOps.ofBody (packFields o.fields) = o := by
  have hp := o.packed
  simp only [StoreOps.ofBody]
  rw [bfld_packFields hp (by rfl), bfld_packFields hp (by rfl), bit_packFields hp (by rfl), bfld_packFields hp (by rfl)]
  simp [StoreOps.fields, valueAt]

theorem AtomOps.packed (o : AtomOps) : Packed 27 (o.fields) :=
  ⟨⟨by decide, o.dst.isLt⟩, ⟨by decide, b2n_lt _⟩, ⟨by decide, o.srcA.isLt⟩, ⟨by decide, o.srcB.isLt⟩,
    ⟨by decide, b2n_lt _⟩, ⟨by decide, o.ord.isLt⟩, ⟨by decide, o.scp.isLt⟩, trivial⟩

theorem AtomOps.ofBody_fields (o : AtomOps) : AtomOps.ofBody (packFields o.fields) = o := by
  have hp := o.packed
  simp only [AtomOps.ofBody]
  rw [bfld_packFields hp (by rfl), bit_packFields hp (by rfl), bfld_packFields hp (by rfl), bfld_packFields hp (by rfl),
    bit_packFields hp (by rfl), bfld_packFields hp (by rfl), bfld_packFields hp (by rfl)]
  simp [AtomOps.fields, valueAt]

theorem XpndOps.packed (o : XpndOps) : Packed 27 (o.fields) :=
  ⟨⟨by decide, o.a.isLt⟩, ⟨by decide, o.gmask.isLt⟩, ⟨by decide, o.td.isLt⟩, ⟨by decide, o.blk.isLt⟩,
    ⟨by decide, o.bank.isLt⟩, ⟨by decide, o.slot.isLt⟩, ⟨by decide, b2n_lt _⟩, trivial⟩

theorem XpndOps.ofBody_fields (o : XpndOps) : XpndOps.ofBody (packFields o.fields) = o := by
  have hp := o.packed
  simp only [XpndOps.ofBody]
  rw [bfld_packFields hp (by rfl), bfld_packFields hp (by rfl), bfld_packFields hp (by rfl), bfld_packFields hp (by rfl),
    bfld_packFields hp (by rfl), bfld_packFields hp (by rfl), bit_packFields hp (by rfl)]
  simp [XpndOps.fields, valueAt]

theorem XpndiOps.packed (o : XpndiOps) : Packed 27 (o.fields) :=
  ⟨⟨by decide, o.a.isLt⟩, ⟨by decide, o.gd.isLt⟩, ⟨by decide, o.td.isLt⟩, ⟨by decide, o.seg.isLt⟩,
    ⟨by decide, b2n_lt _⟩, ⟨by decide, o.bank.isLt⟩, ⟨by decide, o.slot.isLt⟩, trivial⟩

theorem XpndiOps.ofBody_fields (o : XpndiOps) : XpndiOps.ofBody (packFields o.fields) = o := by
  have hp := o.packed
  simp only [XpndiOps.ofBody]
  rw [bfld_packFields hp (by rfl), bfld_packFields hp (by rfl), bfld_packFields hp (by rfl), bfld_packFields hp (by rfl),
    bit_packFields hp (by rfl), bfld_packFields hp (by rfl), bfld_packFields hp (by rfl)]
  simp [XpndiOps.fields, valueAt]

theorem XcvtwOps.packed (o : XcvtwOps) : Packed 27 (o.fields) :=
  ⟨⟨by decide, o.gs.isLt⟩, ⟨by decide, o.ts.isLt⟩, ⟨by decide, o.gd.isLt⟩, ⟨by decide, o.td.isLt⟩,
    ⟨by decide, o.fmt.isLt⟩, ⟨by decide, b2n_lt _⟩, trivial⟩

theorem XcvtwOps.ofBody_fields (o : XcvtwOps) : XcvtwOps.ofBody (packFields o.fields) = o := by
  have hp := o.packed
  simp only [XcvtwOps.ofBody]
  rw [bfld_packFields hp (by rfl), bfld_packFields hp (by rfl), bfld_packFields hp (by rfl), bfld_packFields hp (by rfl),
    bfld_packFields hp (by rfl), bit_packFields hp (by rfl)]
  simp [XcvtwOps.fields, valueAt]

theorem LimmOps.packed (o : LimmOps) : Packed 27 (o.fields ++ [(0, 16, o.imm.toNat % 2 ^ 16)]) :=
  ⟨⟨by decide, o.dst.isLt⟩, ⟨by decide, b2n_lt _⟩, ⟨by decide, Nat.mod_lt _ (by decide)⟩, trivial⟩

theorem LimmOps.ofBody_fields (o : LimmOps) :
    LimmOps.ofBody (packFields (o.fields ++ [(0, 16, o.imm.toNat % 2 ^ 16)])) (o.imm.toNat / 2 ^ 16) = o := by
  have hp := o.packed
  simp only [LimmOps.ofBody]
  rw [bfld_packFields hp (by rfl), bit_packFields hp (by rfl), fld_packFields hp (by rfl)]
  simp [LimmOps.fields, valueAt, Nat.mod_add_div']

end Sys2Proof
end

