-- ==== Sys2Proof/Laws/PerInstr.lean ====
section
/-! SUPPORT. The round trip of one operation through its encoding, for every constructor of the instruction type. -/

namespace Sys2Proof.Laws.RoundTrip

set_option Elab.async false

/-- A slot operation the scanner accepts encodes in the 48 bits of its slot, and the decoder reads those bits as that operation: LIMM beside
what the encoding puts in slot S1, any other beside anything. An event stands in no slot and the statement asks nothing of it. -/
def Statement (i : Instr) : Prop :=
  ∀ p, i.slot? = some p → i.wf = true → encodeSlot i < 2 ^ 48 ∧
    ∀ hi, (i.major? = some 0x0D → hi = some (encodeHigh i)) → decodeSlot p (encodeSlot i) hi = .ok i

/-- An event has no encoding. -/
theorem of_event {i : Instr} (h : i.slot? = none) : Statement i := fun p hp => by rw [h] at hp; cases hp

/-- From the round trip of the body. -/
theorem of_body {i : Instr} {h : Head} {m : Nat} {p : SlotPos} (hh : i.head? = some h) (hm : i.major? = some m) (hp : i.slot? = some p)
    (hlt : m < 2 ^ 8) (hb : Packed 27 i.bodyFields)
    (hd : ∀ hi, (i.major? = some 0x0D → hi = some (encodeHigh i)) → decodeBody p.sslot h m (packFields i.bodyFields) hi = .ok i) :
    Statement i := fun q hq hw => by
  obtain rfl : p = q := Option.some.inj (hp.symm.trans hq)
  exact ⟨(roundTrip_of_body hh hm hp hlt hb (hd (some (encodeHigh i)) fun _ => rfl) hw).1,
    fun hi hhi => (roundTrip_of_body hh hm hp hlt hb (hd hi hhi) hw).2⟩

theorem bundleIssue : Statement .bundleIssue := of_event rfl
theorem resultLand : Statement .resultLand := of_event rfl
theorem assayReplay : Statement .assayReplay := of_event rfl
theorem tlbWalk : Statement .tlbWalk := of_event rfl
theorem queueDispatch (store : Bool) : Statement (.queueDispatch store) := of_event rfl
theorem accessPerformed (id : Nat) : Statement (.accessPerformed id) := of_event rfl
theorem writeAcknowledgement : Statement .writeAcknowledgement := of_event rfl
theorem cellOperation (id : Nat) : Statement (.cellOperation id) := of_event rfl
theorem resolveOnFire (i : Nat) : Statement (.resolveOnFire i) := of_event rfl
theorem trapTake : Statement .trapTake := of_event rfl
theorem preemptionDue : Statement .preemptionDue := of_event rfl
theorem preemption : Statement .preemption := of_event rfl
theorem contextSave : Statement .contextSave := of_event rfl
theorem contextRestore : Statement .contextRestore := of_event rfl
theorem depth : Statement .depth := of_event rfl
theorem unitPickup : Statement .unitPickup := of_event rfl
theorem queuePromotion (die prio : Nat) : Statement (.queuePromotion die prio) := of_event rfl
theorem chunkGrant (slot : Nat) : Statement (.chunkGrant slot) := of_event rfl
theorem levelCompletion (lvl : Level) (id : Nat) : Statement (.levelCompletion lvl id) := of_event rfl
theorem dispatchDecision (id : Nat) : Statement (.dispatchDecision id) := of_event rfl
theorem copyBeatTransfer (ctx : Nat) : Statement (.copyBeatTransfer ctx) := of_event rfl
theorem progressEntryPush (ctx : Nat) : Statement (.progressEntryPush ctx) := of_event rfl
theorem commandEnd (tl : Nat) : Statement (.commandEnd tl) := of_event rfl
theorem feWait (ctx : Nat) : Statement (.feWait ctx) := of_event rfl
theorem qFull (ctx : Nat) : Statement (.qFull ctx) := of_event rfl
theorem qpushDelivery (ctx : Nat) : Statement (.qpushDelivery ctx) := of_event rfl
theorem syncwWrite (ctx : Nat) : Statement (.syncwWrite ctx) := of_event rfl
theorem prefetchFill (sid : Nat) (line : Nat) : Statement (.prefetchFill sid line) := of_event rfl
theorem hoistTileIn (sid : Nat) : Statement (.hoistTileIn sid) := of_event rfl
theorem hoistTileOut (sid : Nat) : Statement (.hoistTileOut sid) := of_event rfl
theorem tfillIndexWrite : Statement .tfillIndexWrite := of_event rfl
theorem cbfillSlotWrite : Statement .cbfillSlotWrite := of_event rfl
theorem setComplete (set : Nat) : Statement (.setComplete set) := of_event rfl
theorem shiftChangeRelease : Statement .shiftChangeRelease := of_event rfl
theorem switchWithdrawal : Statement .switchWithdrawal := of_event rfl
theorem collRendezvous (ctx : Nat) : Statement (.collRendezvous ctx) := of_event rfl
theorem noPeer (ctx : Nat) : Statement (.noPeer ctx) := of_event rfl
theorem collTransfer (ctx : Nat) : Statement (.collTransfer ctx) := of_event rfl
theorem precisionCounterUpdate (ctx : Nat) (chunk : Nat) : Statement (.precisionCounterUpdate ctx chunk) := of_event rfl
theorem cancelArrival (ctx : Nat) : Statement (.cancelArrival ctx) := of_event rfl
theorem carveMoveEnd : Statement .carveMoveEnd := of_event rfl
theorem adaptiveIntervalEnd : Statement .adaptiveIntervalEnd := of_event rfl
theorem hostWrite (bar : Nat) (off : Nat) (bytes : List Byte) : Statement (.hostWrite bar off bytes) := of_event rfl
theorem hostRead (bar : Nat) (off : Nat) (len : Nat) : Statement (.hostRead bar off len) := of_event rfl
theorem ingressFlush : Statement .ingressFlush := of_event rfl
theorem hostPortDown (port : Nat) : Statement (.hostPortDown port) := of_event rfl
theorem sqtailWrite (q : Nat) (v : Double) : Statement (.sqtailWrite q v) := of_event rfl
theorem sqcfgWrite (q : Nat) (v : Double) : Statement (.sqcfgWrite q v) := of_event rfl
theorem sqheadWrite (q : Nat) (v : Double) : Statement (.sqheadWrite q v) := of_event rfl
theorem cqheadWrite (q : Nat) (v : Double) : Statement (.cqheadWrite q v) := of_event rfl
theorem registerWrite (off : Nat) (v : Double) : Statement (.registerWrite off v) := of_event rfl
theorem cardFetch (q : Nat) : Statement (.cardFetch q) := of_event rfl
theorem submit (q : Nat) : Statement (.submit q) := of_event rfl
theorem completionEvent (q : Nat) : Statement (.completionEvent q) := of_event rfl
theorem peerAccess (pa : Nat) (kind : PeerKind) : Statement (.peerAccess pa kind) := of_event rfl
theorem peerUnreachable (id : Nat) : Statement (.peerUnreachable id) := of_event rfl
theorem gtsSync (master : Nat) : Statement (.gtsSync master) := of_event rfl
theorem linkPortChange (port : Nat) (up : Bool) : Statement (.linkPortChange port up) := of_event rfl
theorem powerOnReset : Statement .powerOnReset := of_event rfl
theorem clockChange (up : Bool) : Statement (.clockChange up) := of_event rfl
theorem thermalTrip : Statement .thermalTrip := of_event rfl
theorem heartbeatMiss (die : Nat) : Statement (.heartbeatMiss die) := of_event rfl
theorem dieLoss (die : Nat) : Statement (.dieLoss die) := of_event rfl
theorem stackRowSpare (stack row : Nat) : Statement (.stackRowSpare stack row) := of_event rfl
theorem pseudoChannelSpare (stack channel : Nat) : Statement (.pseudoChannelSpare stack channel) := of_event rfl
theorem laneRetrain (link : Nat) : Statement (.laneRetrain link) := of_event rfl
theorem info : Statement .info := of_event rfl
theorem jobnew : Statement .jobnew := of_event rfl
theorem jobend : Statement .jobend := of_event rfl
theorem map : Statement .map := of_event rfl
theorem unmap : Statement .unmap := of_event rfl
theorem load : Statement .load := of_event rfl
theorem unload : Statement .unload := of_event rfl
theorem resume : Statement .resume := of_event rfl
theorem kill : Statement .kill := of_event rfl
theorem debug : Statement .debug := of_event rfl
theorem cap : Statement .cap := of_event rfl
theorem ckpt : Statement .ckpt := of_event rfl
theorem restore : Statement .restore := of_event rfl
theorem attest : Statement .attest := of_event rfl
theorem patch : Statement .patch := of_event rfl
theorem logrd : Statement .logrd := of_event rfl
theorem dieoff : Statement .dieoff := of_event rfl
theorem linkcfg : Statement .linkcfg := of_event rfl
theorem reset : Statement .reset := of_event rfl
theorem badcmd : Statement .badcmd := of_event rfl
theorem nop (sl : SSlot) (h : Head) : Statement (.nop sl h) :=
  of_body rfl rfl rfl (by decide) trivial fun hi _ => by
    rw [sslot_pos]; rfl
theorem addW (sl : SSlot) (h : Head) (o : RegOps) : Statement (.addW sl h o) :=
  of_body rfl rfl rfl (by decide) (o.packed (k := 0) (by decide)) fun hi _ => by
    have e := o.ofBody_fields (k := 0) (by decide)
    rw [decodeBody_word, sslot_pos]
    exact (congrArg _ e.1).trans (congrArg (fun o => Except.ok (Instr.addW sl h o)) e.2)
theorem addD (sl : SSlot) (h : Head) (o : RegOps) : Statement (.addD sl h o) :=
  of_body rfl rfl rfl (by decide) (o.packed (k := 0) (by decide)) fun hi _ => by
    have e := o.ofBody_fields (k := 0) (by decide)
    rw [decodeBody_double, sslot_pos]
    exact (congrArg _ e.1).trans (congrArg (fun o => Except.ok (Instr.addD sl h o)) e.2)
theorem subW (sl : SSlot) (h : Head) (o : RegOps) : Statement (.subW sl h o) :=
  of_body rfl rfl rfl (by decide) (o.packed (k := 1) (by decide)) fun hi _ => by
    have e := o.ofBody_fields (k := 1) (by decide)
    rw [decodeBody_word, sslot_pos]
    exact (congrArg _ e.1).trans (congrArg (fun o => Except.ok (Instr.subW sl h o)) e.2)
theorem subD (sl : SSlot) (h : Head) (o : RegOps) : Statement (.subD sl h o) :=
  of_body rfl rfl rfl (by decide) (o.packed (k := 1) (by decide)) fun hi _ => by
    have e := o.ofBody_fields (k := 1) (by decide)
    rw [decodeBody_double, sslot_pos]
    exact (congrArg _ e.1).trans (congrArg (fun o => Except.ok (Instr.subD sl h o)) e.2)
theorem mulW (sl : SSlot) (h : Head) (o : RegOps) : Statement (.mulW sl h o) :=
  of_body rfl rfl rfl (by decide) (o.packed (k := 2) (by decide)) fun hi _ => by
    have e := o.ofBody_fields (k := 2) (by decide)
    rw [decodeBody_word, sslot_pos]
    exact (congrArg _ e.1).trans (congrArg (fun o => Except.ok (Instr.mulW sl h o)) e.2)
theorem mulD (sl : SSlot) (h : Head) (o : RegOps) : Statement (.mulD sl h o) :=
  of_body rfl rfl rfl (by decide) (o.packed (k := 2) (by decide)) fun hi _ => by
    have e := o.ofBody_fields (k := 2) (by decide)
    rw [decodeBody_double, sslot_pos]
    exact (congrArg _ e.1).trans (congrArg (fun o => Except.ok (Instr.mulD sl h o)) e.2)
theorem mulhW (sl : SSlot) (h : Head) (o : RegOps) : Statement (.mulhW sl h o) :=
  of_body rfl rfl rfl (by decide) (o.packed (k := 3) (by decide)) fun hi _ => by
    have e := o.ofBody_fields (k := 3) (by decide)
    rw [decodeBody_word, sslot_pos]
    exact (congrArg _ e.1).trans (congrArg (fun o => Except.ok (Instr.mulhW sl h o)) e.2)
theorem mulhD (sl : SSlot) (h : Head) (o : RegOps) : Statement (.mulhD sl h o) :=
  of_body rfl rfl rfl (by decide) (o.packed (k := 3) (by decide)) fun hi _ => by
    have e := o.ofBody_fields (k := 3) (by decide)
    rw [decodeBody_double, sslot_pos]
    exact (congrArg _ e.1).trans (congrArg (fun o => Except.ok (Instr.mulhD sl h o)) e.2)
theorem mulhuW (sl : SSlot) (h : Head) (o : RegOps) : Statement (.mulhuW sl h o) :=
  of_body rfl rfl rfl (by decide) (o.packed (k := 4) (by decide)) fun hi _ => by
    have e := o.ofBody_fields (k := 4) (by decide)
    rw [decodeBody_word, sslot_pos]
    exact (congrArg _ e.1).trans (congrArg (fun o => Except.ok (Instr.mulhuW sl h o)) e.2)
theorem mulhuD (sl : SSlot) (h : Head) (o : RegOps) : Statement (.mulhuD sl h o) :=
  of_body rfl rfl rfl (by decide) (o.packed (k := 4) (by decide)) fun hi _ => by
    have e := o.ofBody_fields (k := 4) (by decide)
    rw [decodeBody_double, sslot_pos]
    exact (congrArg _ e.1).trans (congrArg (fun o => Except.ok (Instr.mulhuD sl h o)) e.2)
theorem divW (sl : SSlot) (h : Head) (o : RegOps) : Statement (.divW sl h o) :=
  of_body rfl rfl rfl (by decide) (o.packed (k := 5) (by decide)) fun hi _ => by
    have e := o.ofBody_fields (k := 5) (by decide)
    rw [decodeBody_word, sslot_pos]
    exact (congrArg _ e.1).trans (congrArg (fun o => Except.ok (Instr.divW sl h o)) e.2)
theorem divD (sl : SSlot) (h : Head) (o : RegOps) : Statement (.divD sl h o) :=
  of_body rfl rfl rfl (by decide) (o.packed (k := 5) (by decide)) fun hi _ => by
    have e := o.ofBody_fields (k := 5) (by decide)
    rw [decodeBody_double, sslot_pos]
    exact (congrArg _ e.1).trans (congrArg (fun o => Except.ok (Instr.divD sl h o)) e.2)
theorem divuW (sl : SSlot) (h : Head) (o : RegOps) : Statement (.divuW sl h o) :=
  of_body rfl rfl rfl (by decide) (o.packed (k := 6) (by decide)) fun hi _ => by
    have e := o.ofBody_fields (k := 6) (by decide)
    rw [decodeBody_word, sslot_pos]
    exact (congrArg _ e.1).trans (congrArg (fun o => Except.ok (Instr.divuW sl h o)) e.2)
theorem divuD (sl : SSlot) (h : Head) (o : RegOps) : Statement (.divuD sl h o) :=
  of_body rfl rfl rfl (by decide) (o.packed (k := 6) (by decide)) fun hi _ => by
    have e := o.ofBody_fields (k := 6) (by decide)
    rw [decodeBody_double, sslot_pos]
    exact (congrArg _ e.1).trans (congrArg (fun o => Except.ok (Instr.divuD sl h o)) e.2)
theorem remW (sl : SSlot) (h : Head) (o : RegOps) : Statement (.remW sl h o) :=
  of_body rfl rfl rfl (by decide) (o.packed (k := 7) (by decide)) fun hi _ => by
    have e := o.ofBody_fields (k := 7) (by decide)
    rw [decodeBody_word, sslot_pos]
    exact (congrArg _ e.1).trans (congrArg (fun o => Except.ok (Instr.remW sl h o)) e.2)
theorem remD (sl : SSlot) (h : Head) (o : RegOps) : Statement (.remD sl h o) :=
  of_body rfl rfl rfl (by decide) (o.packed (k := 7) (by decide)) fun hi _ => by
    have e := o.ofBody_fields (k := 7) (by decide)
    rw [decodeBody_double, sslot_pos]
    exact (congrArg _ e.1).trans (congrArg (fun o => Except.ok (Instr.remD sl h o)) e.2)
theorem remuW (sl : SSlot) (h : Head) (o : RegOps) : Statement (.remuW sl h o) :=
  of_body rfl rfl rfl (by decide) (o.packed (k := 8) (by decide)) fun hi _ => by
    have e := o.ofBody_fields (k := 8) (by decide)
    rw [decodeBody_word, sslot_pos]
    exact (congrArg _ e.1).trans (congrArg (fun o => Except.ok (Instr.remuW sl h o)) e.2)
theorem remuD (sl : SSlot) (h : Head) (o : RegOps) : Statement (.remuD sl h o) :=
  of_body rfl rfl rfl (by decide) (o.packed (k := 8) (by decide)) fun hi _ => by
    have e := o.ofBody_fields (k := 8) (by decide)
    rw [decodeBody_double, sslot_pos]
    exact (congrArg _ e.1).trans (congrArg (fun o => Except.ok (Instr.remuD sl h o)) e.2)
theorem addiW (sl : SSlot) (h : Head) (o : ImmOps) : Statement (.addiW sl h o) :=
  of_body rfl rfl rfl (by decide) o.packed fun hi _ => by
    have e := o.ofBody_fields
    rw [sslot_pos]
    exact congrArg (fun o => Except.ok (Instr.addiW sl h o)) e
theorem addiD (sl : SSlot) (h : Head) (o : ImmOps) : Statement (.addiD sl h o) :=
  of_body rfl rfl rfl (by decide) o.packed fun hi _ => by
    have e := o.ofBody_fields
    rw [sslot_pos]
    exact congrArg (fun o => Except.ok (Instr.addiD sl h o)) e
theorem and (sl : SSlot) (h : Head) (o : RegOps) : Statement (.and sl h o) :=
  of_body rfl rfl rfl (by decide) (o.packed (k := 0) (by decide)) fun hi _ => by
    have e := o.ofBody_fields (k := 0) (by decide)
    rw [decodeBody_logic, sslot_pos]
    exact (congrArg _ e.1).trans (congrArg (fun o => Except.ok (Instr.and sl h o)) e.2)
theorem or (sl : SSlot) (h : Head) (o : RegOps) : Statement (.or sl h o) :=
  of_body rfl rfl rfl (by decide) (o.packed (k := 1) (by decide)) fun hi _ => by
    have e := o.ofBody_fields (k := 1) (by decide)
    rw [decodeBody_logic, sslot_pos]
    exact (congrArg _ e.1).trans (congrArg (fun o => Except.ok (Instr.or sl h o)) e.2)
theorem xor (sl : SSlot) (h : Head) (o : RegOps) : Statement (.xor sl h o) :=
  of_body rfl rfl rfl (by decide) (o.packed (k := 2) (by decide)) fun hi _ => by
    have e := o.ofBody_fields (k := 2) (by decide)
    rw [decodeBody_logic, sslot_pos]
    exact (congrArg _ e.1).trans (congrArg (fun o => Except.ok (Instr.xor sl h o)) e.2)
theorem andn (sl : SSlot) (h : Head) (o : RegOps) : Statement (.andn sl h o) :=
  of_body rfl rfl rfl (by decide) (o.packed (k := 3) (by decide)) fun hi _ => by
    have e := o.ofBody_fields (k := 3) (by decide)
    rw [decodeBody_logic, sslot_pos]
    exact (congrArg _ e.1).trans (congrArg (fun o => Except.ok (Instr.andn sl h o)) e.2)
theorem shl (sl : SSlot) (h : Head) (o : RegOps) : Statement (.shl sl h o) :=
  of_body rfl rfl rfl (by decide) (o.packed (k := 4) (by decide)) fun hi _ => by
    have e := o.ofBody_fields (k := 4) (by decide)
    rw [decodeBody_logic, sslot_pos]
    exact (congrArg _ e.1).trans (congrArg (fun o => Except.ok (Instr.shl sl h o)) e.2)
theorem shr (sl : SSlot) (h : Head) (o : RegOps) : Statement (.shr sl h o) :=
  of_body rfl rfl rfl (by decide) (o.packed (k := 5) (by decide)) fun hi _ => by
    have e := o.ofBody_fields (k := 5) (by decide)
    rw [decodeBody_logic, sslot_pos]
    exact (congrArg _ e.1).trans (congrArg (fun o => Except.ok (Instr.shr sl h o)) e.2)
theorem sar (sl : SSlot) (h : Head) (o : RegOps) : Statement (.sar sl h o) :=
  of_body rfl rfl rfl (by decide) (o.packed (k := 6) (by decide)) fun hi _ => by
    have e := o.ofBody_fields (k := 6) (by decide)
    rw [decodeBody_logic, sslot_pos]
    exact (congrArg _ e.1).trans (congrArg (fun o => Except.ok (Instr.sar sl h o)) e.2)
theorem rotl (sl : SSlot) (h : Head) (o : RegOps) : Statement (.rotl sl h o) :=
  of_body rfl rfl rfl (by decide) (o.packed (k := 7) (by decide)) fun hi _ => by
    have e := o.ofBody_fields (k := 7) (by decide)
    rw [decodeBody_logic, sslot_pos]
    exact (congrArg _ e.1).trans (congrArg (fun o => Except.ok (Instr.rotl sl h o)) e.2)
theorem clz (sl : SSlot) (h : Head) (o : RegOps1) : Statement (.clz sl h o) :=
  of_body rfl rfl rfl (by decide) (o.packed (k := 8) (by decide)) fun hi _ => by
    have e := o.ofBody_fields (k := 8) (by decide)
    rw [decodeBody_logic, sslot_pos]
    exact (congrArg _ e.1).trans (congrArg (fun o => Except.ok (Instr.clz sl h o)) e.2)
theorem ctz (sl : SSlot) (h : Head) (o : RegOps1) : Statement (.ctz sl h o) :=
  of_body rfl rfl rfl (by decide) (o.packed (k := 9) (by decide)) fun hi _ => by
    have e := o.ofBody_fields (k := 9) (by decide)
    rw [decodeBody_logic, sslot_pos]
    exact (congrArg _ e.1).trans (congrArg (fun o => Except.ok (Instr.ctz sl h o)) e.2)
theorem popc (sl : SSlot) (h : Head) (o : RegOps1) : Statement (.popc sl h o) :=
  of_body rfl rfl rfl (by decide) (o.packed (k := 10) (by decide)) fun hi _ => by
    have e := o.ofBody_fields (k := 10) (by decide)
    rw [decodeBody_logic, sslot_pos]
    exact (congrArg _ e.1).trans (congrArg (fun o => Except.ok (Instr.popc sl h o)) e.2)
theorem min (sl : SSlot) (h : Head) (o : RegOps) : Statement (.min sl h o) :=
  of_body rfl rfl rfl (by decide) (o.packed (k := 11) (by decide)) fun hi _ => by
    have e := o.ofBody_fields (k := 11) (by decide)
    rw [decodeBody_logic, sslot_pos]
    exact (congrArg _ e.1).trans (congrArg (fun o => Except.ok (Instr.min sl h o)) e.2)
theorem max (sl : SSlot) (h : Head) (o : RegOps) : Statement (.max sl h o) :=
  of_body rfl rfl rfl (by decide) (o.packed (k := 12) (by decide)) fun hi _ => by
    have e := o.ofBody_fields (k := 12) (by decide)
    rw [decodeBody_logic, sslot_pos]
    exact (congrArg _ e.1).trans (congrArg (fun o => Except.ok (Instr.max sl h o)) e.2)
theorem minu (sl : SSlot) (h : Head) (o : RegOps) : Statement (.minu sl h o) :=
  of_body rfl rfl rfl (by decide) (o.packed (k := 13) (by decide)) fun hi _ => by
    have e := o.ofBody_fields (k := 13) (by decide)
    rw [decodeBody_logic, sslot_pos]
    exact (congrArg _ e.1).trans (congrArg (fun o => Except.ok (Instr.minu sl h o)) e.2)
theorem maxu (sl : SSlot) (h : Head) (o : RegOps) : Statement (.maxu sl h o) :=
  of_body rfl rfl rfl (by decide) (o.packed (k := 14) (by decide)) fun hi _ => by
    have e := o.ofBody_fields (k := 14) (by decide)
    rw [decodeBody_logic, sslot_pos]
    exact (congrArg _ e.1).trans (congrArg (fun o => Except.ok (Instr.maxu sl h o)) e.2)
theorem seq (sl : SSlot) (h : Head) (o : RegOps) : Statement (.seq sl h o) :=
  of_body rfl rfl rfl (by decide) (o.packed (k := 16) (by decide)) fun hi _ => by
    have e := o.ofBody_fields (k := 16) (by decide)
    rw [decodeBody_logic, sslot_pos]
    exact (congrArg _ e.1).trans (congrArg (fun o => Except.ok (Instr.seq sl h o)) e.2)
theorem sne (sl : SSlot) (h : Head) (o : RegOps) : Statement (.sne sl h o) :=
  of_body rfl rfl rfl (by decide) (o.packed (k := 17) (by decide)) fun hi _ => by
    have e := o.ofBody_fields (k := 17) (by decide)
    rw [decodeBody_logic, sslot_pos]
    exact (congrArg _ e.1).trans (congrArg (fun o => Except.ok (Instr.sne sl h o)) e.2)
theorem slt (sl : SSlot) (h : Head) (o : RegOps) : Statement (.slt sl h o) :=
  of_body rfl rfl rfl (by decide) (o.packed (k := 18) (by decide)) fun hi _ => by
    have e := o.ofBody_fields (k := 18) (by decide)
    rw [decodeBody_logic, sslot_pos]
    exact (congrArg _ e.1).trans (congrArg (fun o => Except.ok (Instr.slt sl h o)) e.2)
theorem sltu (sl : SSlot) (h : Head) (o : RegOps) : Statement (.sltu sl h o) :=
  of_body rfl rfl rfl (by decide) (o.packed (k := 19) (by decide)) fun hi _ => by
    have e := o.ofBody_fields (k := 19) (by decide)
    rw [decodeBody_logic, sslot_pos]
    exact (congrArg _ e.1).trans (congrArg (fun o => Except.ok (Instr.sltu sl h o)) e.2)
theorem sle (sl : SSlot) (h : Head) (o : RegOps) : Statement (.sle sl h o) :=
  of_body rfl rfl rfl (by decide) (o.packed (k := 20) (by decide)) fun hi _ => by
    have e := o.ofBody_fields (k := 20) (by decide)
    rw [decodeBody_logic, sslot_pos]
    exact (congrArg _ e.1).trans (congrArg (fun o => Except.ok (Instr.sle sl h o)) e.2)
theorem sleu (sl : SSlot) (h : Head) (o : RegOps) : Statement (.sleu sl h o) :=
  of_body rfl rfl rfl (by decide) (o.packed (k := 21) (by decide)) fun hi _ => by
    have e := o.ofBody_fields (k := 21) (by decide)
    rw [decodeBody_logic, sslot_pos]
    exact (congrArg _ e.1).trans (congrArg (fun o => Except.ok (Instr.sleu sl h o)) e.2)
theorem sel (sl : SSlot) (h : Head) (o : RegOps) : Statement (.sel sl h o) :=
  of_body rfl rfl rfl (by decide) (o.packed (k := 22) (by decide)) fun hi _ => by
    have e := o.ofBody_fields (k := 22) (by decide)
    rw [decodeBody_logic, sslot_pos]
    exact (congrArg _ e.1).trans (congrArg (fun o => Except.ok (Instr.sel sl h o)) e.2)
theorem andi (sl : SSlot) (h : Head) (o : ImmOps) : Statement (.andi sl h o) :=
  of_body rfl rfl rfl (by decide) o.packed fun hi _ => by
    have e := o.ofBody_fields
    rw [sslot_pos]
    exact congrArg (fun o => Except.ok (Instr.andi sl h o)) e
theorem ori (sl : SSlot) (h : Head) (o : ImmOps) : Statement (.ori sl h o) :=
  of_body rfl rfl rfl (by decide) o.packed fun hi _ => by
    have e := o.ofBody_fields
    rw [sslot_pos]
    exact congrArg (fun o => Except.ok (Instr.ori sl h o)) e
theorem xori (sl : SSlot) (h : Head) (o : ImmOps) : Statement (.xori sl h o) :=
  of_body rfl rfl rfl (by decide) o.packed fun hi _ => by
    have e := o.ofBody_fields
    rw [sslot_pos]
    exact congrArg (fun o => Except.ok (Instr.xori sl h o)) e
theorem shli (sl : SSlot) (h : Head) (o : ImmOps) : Statement (.shli sl h o) :=
  of_body rfl rfl rfl (by decide) o.packed fun hi _ => by
    have e := o.ofBody_fields
    rw [sslot_pos]
    exact congrArg (fun o => Except.ok (Instr.shli sl h o)) e
theorem shri (sl : SSlot) (h : Head) (o : ImmOps) : Statement (.shri sl h o) :=
  of_body rfl rfl rfl (by decide) o.packed fun hi _ => by
    have e := o.ofBody_fields
    rw [sslot_pos]
    exact congrArg (fun o => Except.ok (Instr.shri sl h o)) e
theorem sari (sl : SSlot) (h : Head) (o : ImmOps) : Statement (.sari sl h o) :=
  of_body rfl rfl rfl (by decide) o.packed fun hi _ => by
    have e := o.ofBody_fields
    rw [sslot_pos]
    exact congrArg (fun o => Except.ok (Instr.sari sl h o)) e
theorem movw (sl : SSlot) (h : Head) (o : ImmOps) : Statement (.movw sl h o) :=
  of_body rfl rfl rfl (by decide) o.packed fun hi _ => by
    have e := o.ofBody_fields
    rw [sslot_pos]
    exact congrArg (fun o => Except.ok (Instr.movw sl h o)) e
theorem limm (h : Head) (o : LimmOps) : Statement (.limm h o) :=
  of_body rfl rfl rfl (by decide) o.packed fun hi hhi => by
    obtain rfl := hhi rfl
    exact congrArg (fun o => Except.ok (Instr.limm h o)) o.ofBody_fields
theorem bfx (sl : SSlot) (h : Head) (o : BfOps) : Statement (.bfx sl h o) :=
  of_body rfl rfl rfl (by decide) (o.packed (k := 0) (by decide)) fun hi _ => by
    have e := o.ofBody_fields (k := 0) (by decide)
    rw [decodeBody_field, sslot_pos]
    exact (congrArg _ e.1).trans (congrArg (fun o => Except.ok (Instr.bfx sl h o)) e.2)
theorem bfxu (sl : SSlot) (h : Head) (o : BfOps) : Statement (.bfxu sl h o) :=
  of_body rfl rfl rfl (by decide) (o.packed (k := 1) (by decide)) fun hi _ => by
    have e := o.ofBody_fields (k := 1) (by decide)
    rw [decodeBody_field, sslot_pos]
    exact (congrArg _ e.1).trans (congrArg (fun o => Except.ok (Instr.bfxu sl h o)) e.2)
theorem bfi (sl : SSlot) (h : Head) (o : BfOps) : Statement (.bfi sl h o) :=
  of_body rfl rfl rfl (by decide) (o.packed (k := 2) (by decide)) fun hi _ => by
    have e := o.ofBody_fields (k := 2) (by decide)
    rw [decodeBody_field, sslot_pos]
    exact (congrArg _ e.1).trans (congrArg (fun o => Except.ok (Instr.bfi sl h o)) e.2)
theorem bset (sl : SSlot) (h : Head) (o : BitOps) : Statement (.bset sl h o) :=
  of_body rfl rfl rfl (by decide) (o.packed (k := 3) (by decide)) fun hi _ => by
    have e := o.ofBody_fields (k := 3) (by decide)
    rw [decodeBody_field, sslot_pos]
    exact (congrArg _ e.1).trans (congrArg (fun o => Except.ok (Instr.bset sl h o)) e.2)
theorem bclr (sl : SSlot) (h : Head) (o : BitOps) : Statement (.bclr sl h o) :=
  of_body rfl rfl rfl (by decide) (o.packed (k := 4) (by decide)) fun hi _ => by
    have e := o.ofBody_fields (k := 4) (by decide)
    rw [decodeBody_field, sslot_pos]
    exact (congrArg _ e.1).trans (congrArg (fun o => Except.ok (Instr.bclr sl h o)) e.2)
theorem btst (sl : SSlot) (h : Head) (o : BitOps) : Statement (.btst sl h o) :=
  of_body rfl rfl rfl (by decide) (o.packed (k := 5) (by decide)) fun hi _ => by
    have e := o.ofBody_fields (k := 5) (by decide)
    rw [decodeBody_field, sslot_pos]
    exact (congrArg _ e.1).trans (congrArg (fun o => Except.ok (Instr.btst sl h o)) e.2)
theorem addp (sl : SSlot) (h : Head) (o : AddpOps) : Statement (.addp sl h o) :=
  of_body rfl rfl rfl (by decide) (o.packed (k := 6) (by decide)) fun hi _ => by
    have e := o.ofBody_fields (k := 6) (by decide)
    rw [decodeBody_field, sslot_pos]
    exact (congrArg _ e.1).trans (congrArg (fun o => Except.ok (Instr.addp sl h o)) e.2)
theorem br (h : Head) (off : BitVec 24) : Statement (.br h off) := by
  have hp : Packed 27 [(0, 24, off.toNat)] :=
    ⟨⟨by decide, off.isLt⟩, trivial⟩
  exact of_body rfl rfl rfl (by decide) hp fun hi _ => by
    show Except.ok (Instr.br h (bfld (packFields _) 0 24)) = _
    simp [Instr.bodyFields, bfld_packFields hp, hasField, valueAt]
theorem brl (h : Head) (dst : BitVec 5) (wbs : Bool) (off : BitVec 21) : Statement (.brl h dst wbs off) := by
  have hp : Packed 27 [(22, 5, dst.toNat), (21, 1, b2n wbs), (0, 21, off.toNat)] :=
    ⟨⟨by decide, dst.isLt⟩, ⟨by decide, b2n_lt _⟩, ⟨by decide, off.isLt⟩, trivial⟩
  exact of_body rfl rfl rfl (by decide) hp fun hi _ => by
    show Except.ok (Instr.brl h (bfld (packFields _) 22 5) (bit (packFields _) 21) (bfld (packFields _) 0 21)) = _
    simp [Instr.bodyFields, bfld_packFields hp, bit_packFields hp, hasField, valueAt]
theorem bri (h : Head) (a : BitVec 6) (imm : BitVec 15) : Statement (.bri h a imm) := by
  have hp : Packed 27 [(15, 6, a.toNat), (0, 15, imm.toNat)] :=
    ⟨⟨by decide, a.isLt⟩, ⟨by decide, imm.isLt⟩, trivial⟩
  exact of_body rfl rfl rfl (by decide) hp fun hi _ => by
    show Except.ok (Instr.bri h (bfld (packFields _) 15 6) (bfld (packFields _) 0 15)) = _
    simp [Instr.bodyFields, bfld_packFields hp, hasField, valueAt]
theorem ret (h : Head) (a : BitVec 6) : Statement (.ret h a) := by
  have hp : Packed 27 [(15, 6, a.toNat)] :=
    ⟨⟨by decide, a.isLt⟩, trivial⟩
  exact of_body rfl rfl rfl (by decide) hp fun hi _ => by
    show Except.ok (Instr.ret h (bfld (packFields _) 15 6)) = _
    simp [Instr.bodyFields, bfld_packFields hp, hasField, valueAt]
theorem loop (h : Head) (lc : BitVec 2) (off : BitVec 24) : Statement (.loop h lc off) := by
  have hp : Packed 27 [(25, 2, lc.toNat), (24, 1, 0), (0, 24, off.toNat)] :=
    ⟨⟨by decide, lc.isLt⟩, ⟨by decide, by decide⟩, ⟨by decide, off.isLt⟩, trivial⟩
  exact of_body rfl rfl rfl (by decide) hp fun hi _ => by
    delta decodeBody
    simp [Instr.bodyFields, fld_packFields hp, bfld_packFields hp, hasField, valueAt]
theorem loopSet (h : Head) (lc : BitVec 2) (a : BitVec 6) : Statement (.loopSet h lc a) := by
  have hp : Packed 27 [(25, 2, lc.toNat), (24, 1, 1), (15, 6, a.toNat)] :=
    ⟨⟨by decide, lc.isLt⟩, ⟨by decide, by decide⟩, ⟨by decide, a.isLt⟩, trivial⟩
  exact of_body rfl rfl rfl (by decide) hp fun hi _ => by
    delta decodeBody
    simp [Instr.bodyFields, fld_packFields hp, bfld_packFields hp, hasField, valueAt]
theorem sloop (h : Head) (iq : BitVec 2) (xg : BitVec 5) (xb : BitVec 6) (off : BitVec 14) : Statement (.sloop h iq xg xb off) := by
  have hp : Packed 27 [(25, 2, iq.toNat), (20, 5, xg.toNat), (14, 6, xb.toNat), (0, 14, off.toNat)] :=
    ⟨⟨by decide, iq.isLt⟩, ⟨by decide, xg.isLt⟩, ⟨by decide, xb.isLt⟩, ⟨by decide, off.isLt⟩, trivial⟩
  exact of_body rfl rfl rfl (by decide) hp fun hi _ => by
    show Except.ok (Instr.sloop h (bfld (packFields _) 25 2) (bfld (packFields _) 20 5) (bfld (packFields _) 14 6) (bfld (packFields _) 0 14)) = _
    simp [Instr.bodyFields, bfld_packFields hp, hasField, valueAt]
theorem spset (h : Head) (mask : BitVec 8) (a : BitVec 6) : Statement (.spset h mask a) := by
  have hp : Packed 27 [(19, 8, mask.toNat), (13, 6, a.toNat)] :=
    ⟨⟨by decide, mask.isLt⟩, ⟨by decide, a.isLt⟩, trivial⟩
  exact of_body rfl rfl rfl (by decide) hp fun hi _ => by
    show Except.ok (Instr.spset h (bfld (packFields _) 19 8) (bfld (packFields _) 13 6)) = _
    simp [Instr.bodyFields, bfld_packFields hp, hasField, valueAt]
theorem ldb (h : Head) (o : LoadOps) : Statement (.ldb h o) :=
  of_body rfl rfl rfl (by decide) o.packed fun hi _ => by
    have e := o.ofBody_fields
    exact congrArg (fun o => Except.ok (Instr.ldb h o)) e
theorem ldbu (h : Head) (o : LoadOps) : Statement (.ldbu h o) :=
  of_body rfl rfl rfl (by decide) o.packed fun hi _ => by
    have e := o.ofBody_fields
    exact congrArg (fun o => Except.ok (Instr.ldbu h o)) e
theorem ldh (h : Head) (o : LoadOps) : Statement (.ldh h o) :=
  of_body rfl rfl rfl (by decide) o.packed fun hi _ => by
    have e := o.ofBody_fields
    exact congrArg (fun o => Except.ok (Instr.ldh h o)) e
theorem ldhu (h : Head) (o : LoadOps) : Statement (.ldhu h o) :=
  of_body rfl rfl rfl (by decide) o.packed fun hi _ => by
    have e := o.ofBody_fields
    exact congrArg (fun o => Except.ok (Instr.ldhu h o)) e
theorem ldw (h : Head) (o : LoadOps) : Statement (.ldw h o) :=
  of_body rfl rfl rfl (by decide) o.packed fun hi _ => by
    have e := o.ofBody_fields
    exact congrArg (fun o => Except.ok (Instr.ldw h o)) e
theorem ldwu (h : Head) (o : LoadOps) : Statement (.ldwu h o) :=
  of_body rfl rfl rfl (by decide) o.packed fun hi _ => by
    have e := o.ofBody_fields
    exact congrArg (fun o => Except.ok (Instr.ldwu h o)) e
theorem ldd (h : Head) (o : LoadOps) : Statement (.ldd h o) :=
  of_body rfl rfl rfl (by decide) o.packed fun hi _ => by
    have e := o.ofBody_fields
    exact congrArg (fun o => Except.ok (Instr.ldd h o)) e
theorem stb (h : Head) (o : StoreOps) : Statement (.stb h o) :=
  of_body rfl rfl rfl (by decide) o.packed fun hi _ => by
    have e := o.ofBody_fields
    exact congrArg (fun o => Except.ok (Instr.stb h o)) e
theorem sth (h : Head) (o : StoreOps) : Statement (.sth h o) :=
  of_body rfl rfl rfl (by decide) o.packed fun hi _ => by
    have e := o.ofBody_fields
    exact congrArg (fun o => Except.ok (Instr.sth h o)) e
theorem stw (h : Head) (o : StoreOps) : Statement (.stw h o) :=
  of_body rfl rfl rfl (by decide) o.packed fun hi _ => by
    have e := o.ofBody_fields
    exact congrArg (fun o => Except.ok (Instr.stw h o)) e
theorem std (h : Head) (o : StoreOps) : Statement (.std h o) :=
  of_body rfl rfl rfl (by decide) o.packed fun hi _ => by
    have e := o.ofBody_fields
    exact congrArg (fun o => Except.ok (Instr.std h o)) e
theorem rinv (h : Head) (a b : BitVec 6) : Statement (.rinv h a b) := by
  have hp : Packed 27 [(15, 6, a.toNat), (9, 6, b.toNat)] :=
    ⟨⟨by decide, a.isLt⟩, ⟨by decide, b.isLt⟩, trivial⟩
  exact of_body rfl rfl rfl (by decide) hp fun hi _ => by
    show Except.ok (Instr.rinv h (bfld (packFields _) 15 6) (bfld (packFields _) 9 6)) = _
    simp [Instr.bodyFields, bfld_packFields hp, hasField, valueAt]
theorem aadd (h : Head) (o : AtomOps) : Statement (.aadd h o) :=
  of_body rfl rfl rfl (by decide) o.packed fun hi _ => by
    have e := o.ofBody_fields
    exact congrArg (fun o => Except.ok (Instr.aadd h o)) e
theorem amin (h : Head) (o : AtomOps) : Statement (.amin h o) :=
  of_body rfl rfl rfl (by decide) o.packed fun hi _ => by
    have e := o.ofBody_fields
    exact congrArg (fun o => Except.ok (Instr.amin h o)) e
theorem aminu (h : Head) (o : AtomOps) : Statement (.aminu h o) :=
  of_body rfl rfl rfl (by decide) o.packed fun hi _ => by
    have e := o.ofBody_fields
    exact congrArg (fun o => Except.ok (Instr.aminu h o)) e
theorem amax (h : Head) (o : AtomOps) : Statement (.amax h o) :=
  of_body rfl rfl rfl (by decide) o.packed fun hi _ => by
    have e := o.ofBody_fields
    exact congrArg (fun o => Except.ok (Instr.amax h o)) e
theorem amaxu (h : Head) (o : AtomOps) : Statement (.amaxu h o) :=
  of_body rfl rfl rfl (by decide) o.packed fun hi _ => by
    have e := o.ofBody_fields
    exact congrArg (fun o => Except.ok (Instr.amaxu h o)) e
theorem aand (h : Head) (o : AtomOps) : Statement (.aand h o) :=
  of_body rfl rfl rfl (by decide) o.packed fun hi _ => by
    have e := o.ofBody_fields
    exact congrArg (fun o => Except.ok (Instr.aand h o)) e
theorem aor (h : Head) (o : AtomOps) : Statement (.aor h o) :=
  of_body rfl rfl rfl (by decide) o.packed fun hi _ => by
    have e := o.ofBody_fields
    exact congrArg (fun o => Except.ok (Instr.aor h o)) e
theorem axor (h : Head) (o : AtomOps) : Statement (.axor h o) :=
  of_body rfl rfl rfl (by decide) o.packed fun hi _ => by
    have e := o.ofBody_fields
    exact congrArg (fun o => Except.ok (Instr.axor h o)) e
theorem aswap (h : Head) (o : AtomOps) : Statement (.aswap h o) :=
  of_body rfl rfl rfl (by decide) o.packed fun hi _ => by
    have e := o.ofBody_fields
    exact congrArg (fun o => Except.ok (Instr.aswap h o)) e
theorem acas (h : Head) (o : AtomOps) : Statement (.acas h o) :=
  of_body rfl rfl rfl (by decide) o.packed fun hi _ => by
    have e := o.ofBody_fields
    exact congrArg (fun o => Except.ok (Instr.acas h o)) e
theorem phase (h : Head) (a : BitVec 6) : Statement (.phase h a) := by
  have hp : Packed 27 [(15, 6, a.toNat)] :=
    ⟨⟨by decide, a.isLt⟩, trivial⟩
  exact of_body rfl rfl rfl (by decide) hp fun hi _ => by
    show Except.ok (Instr.phase h (bfld (packFields _) 15 6)) = _
    simp [Instr.bodyFields, bfld_packFields hp, hasField, valueAt]
theorem carve (h : Head) (a : BitVec 6) : Statement (.carve h a) := by
  have hp : Packed 27 [(15, 6, a.toNat)] :=
    ⟨⟨by decide, a.isLt⟩, trivial⟩
  exact of_body rfl rfl rfl (by decide) hp fun hi _ => by
    show Except.ok (Instr.carve h (bfld (packFields _) 15 6)) = _
    simp [Instr.bodyFields, bfld_packFields hp, hasField, valueAt]
theorem fence (h : Head) (ord : BitVec 2) (scp : BitVec 2) : Statement (.fence h ord scp) := by
  have hp : Packed 27 [(6, 2, ord.toNat), (4, 2, scp.toNat)] :=
    ⟨⟨by decide, ord.isLt⟩, ⟨by decide, scp.isLt⟩, trivial⟩
  exact of_body rfl rfl rfl (by decide) hp fun hi _ => by
    show Except.ok (Instr.fence h (bfld (packFields _) 6 2) (bfld (packFields _) 4 2)) = _
    simp [Instr.bodyFields, bfld_packFields hp, hasField, valueAt]
theorem qalign (h : Head) : Statement (.qalign h) :=
  of_body rfl rfl rfl (by decide) trivial fun hi _ => rfl
theorem tlwait (h : Head) (tl : BitVec 3) (a : BitVec 6) : Statement (.tlwait h tl a) := by
  have hp : Packed 27 [(24, 3, tl.toNat), (15, 6, a.toNat)] :=
    ⟨⟨by decide, tl.isLt⟩, ⟨by decide, a.isLt⟩, trivial⟩
  exact of_body rfl rfl rfl (by decide) hp fun hi _ => by
    show Except.ok (Instr.tlwait h (bfld (packFields _) 24 3) (bfld (packFields _) 15 6)) = _
    simp [Instr.bodyFields, bfld_packFields hp, hasField, valueAt]
theorem tlread (h : Head) (dst : BitVec 5) (wbs : Bool) (tl : BitVec 3) : Statement (.tlread h dst wbs tl) := by
  have hp : Packed 27 [(22, 5, dst.toNat), (21, 1, b2n wbs), (18, 3, tl.toNat)] :=
    ⟨⟨by decide, dst.isLt⟩, ⟨by decide, b2n_lt _⟩, ⟨by decide, tl.isLt⟩, trivial⟩
  exact of_body rfl rfl rfl (by decide) hp fun hi _ => by
    show Except.ok (Instr.tlread h (bfld (packFields _) 22 5) (bit (packFields _) 21) (bfld (packFields _) 18 3)) = _
    simp [Instr.bodyFields, bfld_packFields hp, bit_packFields hp, hasField, valueAt]
theorem tswap (h : Head) (a : BitVec 6) : Statement (.tswap h a) := by
  have hp : Packed 27 [(15, 6, a.toNat)] :=
    ⟨⟨by decide, a.isLt⟩, trivial⟩
  exact of_body rfl rfl rfl (by decide) hp fun hi _ => by
    show Except.ok (Instr.tswap h (bfld (packFields _) 15 6)) = _
    simp [Instr.bodyFields, bfld_packFields hp, hasField, valueAt]
theorem tstatr (sl : SSlot) (h : Head) (dst : BitVec 5) (wbs : Bool) (sel : BitVec 3) : Statement (.tstatr sl h dst wbs sel) := by
  have hp : Packed 27 [(22, 5, dst.toNat), (21, 1, b2n wbs), (18, 3, sel.toNat)] :=
    ⟨⟨by decide, dst.isLt⟩, ⟨by decide, b2n_lt _⟩, ⟨by decide, sel.isLt⟩, trivial⟩
  exact of_body rfl rfl rfl (by decide) hp fun hi _ => by
    rw [sslot_pos]
    show Except.ok (Instr.tstatr sl h (bfld (packFields _) 22 5) (bit (packFields _) 21) (bfld (packFields _) 18 3)) = _
    simp [Instr.bodyFields, bfld_packFields hp, bit_packFields hp, hasField, valueAt]
theorem tdset (sl : SSlot) (h : Head) (treg : BitVec 5) (a : BitVec 6) (gmask : BitVec 8) : Statement (.tdset sl h treg a gmask) := by
  have hp : Packed 27 [(22, 5, treg.toNat), (15, 6, a.toNat), (7, 8, gmask.toNat)] :=
    ⟨⟨by decide, treg.isLt⟩, ⟨by decide, a.isLt⟩, ⟨by decide, gmask.isLt⟩, trivial⟩
  exact of_body rfl rfl rfl (by decide) hp fun hi _ => by
    rw [sslot_pos]
    show Except.ok (Instr.tdset sl h (bfld (packFields _) 22 5) (bfld (packFields _) 15 6) (bfld (packFields _) 7 8)) = _
    simp [Instr.bodyFields, bfld_packFields hp, hasField, valueAt]
theorem pcnt (sl : SSlot) (h : Head) (dst : BitVec 5) (wbs : Bool) (a : BitVec 6) : Statement (.pcnt sl h dst wbs a) := by
  have hp : Packed 27 [(22, 5, dst.toNat), (21, 1, b2n wbs), (15, 6, a.toNat)] :=
    ⟨⟨by decide, dst.isLt⟩, ⟨by decide, b2n_lt _⟩, ⟨by decide, a.isLt⟩, trivial⟩
  exact of_body rfl rfl rfl (by decide) hp fun hi _ => by
    rw [sslot_pos]
    show Except.ok (Instr.pcnt sl h (bfld (packFields _) 22 5) (bit (packFields _) 21) (bfld (packFields _) 15 6)) = _
    simp [Instr.bodyFields, bfld_packFields hp, bit_packFields hp, hasField, valueAt]
theorem pwait (h : Head) (a b : BitVec 6) : Statement (.pwait h a b) := by
  have hp : Packed 27 [(15, 6, a.toNat), (9, 6, b.toNat)] :=
    ⟨⟨by decide, a.isLt⟩, ⟨by decide, b.isLt⟩, trivial⟩
  exact of_body rfl rfl rfl (by decide) hp fun hi _ => by
    show Except.ok (Instr.pwait h (bfld (packFields _) 15 6) (bfld (packFields _) 9 6)) = _
    simp [Instr.bodyFields, bfld_packFields hp, hasField, valueAt]
theorem tagget (h : Head) (dst : BitVec 5) (wbs : Bool) (a : BitVec 6) : Statement (.tagget h dst wbs a) := by
  have hp : Packed 27 [(22, 5, dst.toNat), (21, 1, b2n wbs), (15, 6, a.toNat)] :=
    ⟨⟨by decide, dst.isLt⟩, ⟨by decide, b2n_lt _⟩, ⟨by decide, a.isLt⟩, trivial⟩
  exact of_body rfl rfl rfl (by decide) hp fun hi _ => by
    show Except.ok (Instr.tagget h (bfld (packFields _) 22 5) (bit (packFields _) 21) (bfld (packFields _) 15 6)) = _
    simp [Instr.bodyFields, bfld_packFields hp, bit_packFields hp, hasField, valueAt]
theorem tagset (h : Head) (a b : BitVec 6) : Statement (.tagset h a b) := by
  have hp : Packed 27 [(15, 6, a.toNat), (9, 6, b.toNat)] :=
    ⟨⟨by decide, a.isLt⟩, ⟨by decide, b.isLt⟩, trivial⟩
  exact of_body rfl rfl rfl (by decide) hp fun hi _ => by
    show Except.ok (Instr.tagset h (bfld (packFields _) 15 6) (bfld (packFields _) 9 6)) = _
    simp [Instr.bodyFields, bfld_packFields hp, hasField, valueAt]
theorem dispatch (h : Head) (dst : BitVec 5) (wbs : Bool) (a : BitVec 6) : Statement (.dispatch h dst wbs a) := by
  have hp : Packed 27 [(22, 5, dst.toNat), (21, 1, b2n wbs), (15, 6, a.toNat)] :=
    ⟨⟨by decide, dst.isLt⟩, ⟨by decide, b2n_lt _⟩, ⟨by decide, a.isLt⟩, trivial⟩
  exact of_body rfl rfl rfl (by decide) hp fun hi _ => by
    show Except.ok (Instr.dispatch h (bfld (packFields _) 22 5) (bit (packFields _) 21) (bfld (packFields _) 15 6)) = _
    simp [Instr.bodyFields, bfld_packFields hp, bit_packFields hp, hasField, valueAt]
theorem mlook (h : Head) (dst : BitVec 5) (wbs : Bool) (a : BitVec 6) : Statement (.mlook h dst wbs a) := by
  have hp : Packed 27 [(22, 5, dst.toNat), (21, 1, b2n wbs), (15, 6, a.toNat)] :=
    ⟨⟨by decide, dst.isLt⟩, ⟨by decide, b2n_lt _⟩, ⟨by decide, a.isLt⟩, trivial⟩
  exact of_body rfl rfl rfl (by decide) hp fun hi _ => by
    show Except.ok (Instr.mlook h (bfld (packFields _) 22 5) (bit (packFields _) 21) (bfld (packFields _) 15 6)) = _
    simp [Instr.bodyFields, bfld_packFields hp, bit_packFields hp, hasField, valueAt]
theorem cellmk (h : Head) (a b : BitVec 6) : Statement (.cellmk h a b) := by
  have hp : Packed 27 [(15, 6, a.toNat), (9, 6, b.toNat), (8, 1, 0)] :=
    ⟨⟨by decide, a.isLt⟩, ⟨by decide, b.isLt⟩, ⟨by decide, by decide⟩, trivial⟩
  exact of_body rfl rfl rfl (by decide) hp fun hi _ => by
    delta decodeBody
    simp [Instr.bodyFields, fld_packFields hp, bfld_packFields hp, hasField, valueAt]
theorem cellmkFut (h : Head) (a : BitVec 6) : Statement (.cellmkFut h a) := by
  have hp : Packed 27 [(15, 6, a.toNat), (8, 1, 1)] :=
    ⟨⟨by decide, a.isLt⟩, ⟨by decide, by decide⟩, trivial⟩
  exact of_body rfl rfl rfl (by decide) hp fun hi _ => by
    delta decodeBody
    simp [Instr.bodyFields, fld_packFields hp, bfld_packFields hp, hasField, valueAt]
theorem resolve (h : Head) (a b : BitVec 6) : Statement (.resolve h a b) := by
  have hp : Packed 27 [(15, 6, a.toNat), (9, 6, b.toNat), (8, 1, 0)] :=
    ⟨⟨by decide, a.isLt⟩, ⟨by decide, b.isLt⟩, ⟨by decide, by decide⟩, trivial⟩
  exact of_body rfl rfl rfl (by decide) hp fun hi _ => by
    delta decodeBody
    simp [Instr.bodyFields, fld_packFields hp, bfld_packFields hp, hasField, valueAt]
theorem resolveOn (h : Head) (a b : BitVec 6) (tl : BitVec 3) : Statement (.resolveOn h a b tl) := by
  have hp : Packed 27 [(15, 6, a.toNat), (9, 6, b.toNat), (8, 1, 1), (5, 3, tl.toNat)] :=
    ⟨⟨by decide, a.isLt⟩, ⟨by decide, b.isLt⟩, ⟨by decide, by decide⟩, ⟨by decide, tl.isLt⟩, trivial⟩
  exact of_body rfl rfl rfl (by decide) hp fun hi _ => by
    delta decodeBody
    simp [Instr.bodyFields, fld_packFields hp, bfld_packFields hp, hasField, valueAt]
theorem freg (h : Head) (dst : BitVec 5) (wbs : Bool) (a b : BitVec 6) : Statement (.freg h dst wbs a b) := by
  have hp : Packed 27 [(22, 5, dst.toNat), (21, 1, b2n wbs), (15, 6, a.toNat), (9, 6, b.toNat)] :=
    ⟨⟨by decide, dst.isLt⟩, ⟨by decide, b2n_lt _⟩, ⟨by decide, a.isLt⟩, ⟨by decide, b.isLt⟩, trivial⟩
  exact of_body rfl rfl rfl (by decide) hp fun hi _ => by
    show Except.ok (Instr.freg h (bfld (packFields _) 22 5) (bit (packFields _) 21) (bfld (packFields _) 15 6) (bfld (packFields _) 9 6)) = _
    simp [Instr.bodyFields, bfld_packFields hp, bit_packFields hp, hasField, valueAt]
theorem spawn (h : Head) (a b : BitVec 6) : Statement (.spawn h a b) := by
  have hp : Packed 27 [(15, 6, a.toNat), (9, 6, b.toNat)] :=
    ⟨⟨by decide, a.isLt⟩, ⟨by decide, b.isLt⟩, trivial⟩
  exact of_body rfl rfl rfl (by decide) hp fun hi _ => by
    show Except.ok (Instr.spawn h (bfld (packFields _) 15 6) (bfld (packFields _) 9 6)) = _
    simp [Instr.bodyFields, bfld_packFields hp, hasField, valueAt]
theorem suspend (h : Head) (a : BitVec 6) (off : BitVec 21) : Statement (.suspend h a off) := by
  have hp : Packed 27 [(21, 6, a.toNat), (0, 21, off.toNat)] :=
    ⟨⟨by decide, a.isLt⟩, ⟨by decide, off.isLt⟩, trivial⟩
  exact of_body rfl rfl rfl (by decide) hp fun hi _ => by
    show Except.ok (Instr.suspend h (bfld (packFields _) 21 6) (bfld (packFields _) 0 21)) = _
    simp [Instr.bodyFields, bfld_packFields hp, hasField, valueAt]
theorem finish (h : Head) (a : BitVec 6) : Statement (.finish h a) := by
  have hp : Packed 27 [(15, 6, a.toNat)] :=
    ⟨⟨by decide, a.isLt⟩, trivial⟩
  exact of_body rfl rfl rfl (by decide) hp fun hi _ => by
    show Except.ok (Instr.finish h (bfld (packFields _) 15 6)) = _
    simp [Instr.bodyFields, bfld_packFields hp, hasField, valueAt]
theorem launch (h : Head) (dst : BitVec 5) (wbs : Bool) (a : BitVec 6) : Statement (.launch h dst wbs a) := by
  have hp : Packed 27 [(22, 5, dst.toNat), (21, 1, b2n wbs), (15, 6, a.toNat)] :=
    ⟨⟨by decide, dst.isLt⟩, ⟨by decide, b2n_lt _⟩, ⟨by decide, a.isLt⟩, trivial⟩
  exact of_body rfl rfl rfl (by decide) hp fun hi _ => by
    show Except.ok (Instr.launch h (bfld (packFields _) 22 5) (bit (packFields _) 21) (bfld (packFields _) 15 6)) = _
    simp [Instr.bodyFields, bfld_packFields hp, bit_packFields hp, hasField, valueAt]
theorem chunk (h : Head) (dst : BitVec 5) (wbs : Bool) : Statement (.chunk h dst wbs) := by
  have hp : Packed 27 [(22, 5, dst.toNat), (21, 1, b2n wbs)] :=
    ⟨⟨by decide, dst.isLt⟩, ⟨by decide, b2n_lt _⟩, trivial⟩
  exact of_body rfl rfl rfl (by decide) hp fun hi _ => by
    show Except.ok (Instr.chunk h (bfld (packFields _) 22 5) (bit (packFields _) 21)) = _
    simp [Instr.bodyFields, bfld_packFields hp, bit_packFields hp, hasField, valueAt]
theorem cntrd (h : Head) (dst : BitVec 5) (wbs : Bool) (a : BitVec 6) (lvl : BitVec 3) : Statement (.cntrd h dst wbs a lvl) := by
  have hp : Packed 27 [(22, 5, dst.toNat), (21, 1, b2n wbs), (15, 6, a.toNat), (12, 3, lvl.toNat)] :=
    ⟨⟨by decide, dst.isLt⟩, ⟨by decide, b2n_lt _⟩, ⟨by decide, a.isLt⟩, ⟨by decide, lvl.isLt⟩, trivial⟩
  exact of_body rfl rfl rfl (by decide) hp fun hi _ => by
    show Except.ok (Instr.cntrd h (bfld (packFields _) 22 5) (bit (packFields _) 21) (bfld (packFields _) 15 6) (bfld (packFields _) 12 3)) = _
    simp [Instr.bodyFields, bfld_packFields hp, bit_packFields hp, hasField, valueAt]
theorem cancel (h : Head) (a : BitVec 6) (lvl : BitVec 3) : Statement (.cancel h a lvl) := by
  have hp : Packed 27 [(15, 6, a.toNat), (12, 3, lvl.toNat)] :=
    ⟨⟨by decide, a.isLt⟩, ⟨by decide, lvl.isLt⟩, trivial⟩
  exact of_body rfl rfl rfl (by decide) hp fun hi _ => by
    show Except.ok (Instr.cancel h (bfld (packFields _) 15 6) (bfld (packFields _) 12 3)) = _
    simp [Instr.bodyFields, bfld_packFields hp, hasField, valueAt]
theorem specev (h : Head) (a b : BitVec 6) : Statement (.specev h a b) := by
  have hp : Packed 27 [(15, 6, a.toNat), (9, 6, b.toNat)] :=
    ⟨⟨by decide, a.isLt⟩, ⟨by decide, b.isLt⟩, trivial⟩
  exact of_body rfl rfl rfl (by decide) hp fun hi _ => by
    show Except.ok (Instr.specev h (bfld (packFields _) 15 6) (bfld (packFields _) 9 6)) = _
    simp [Instr.bodyFields, bfld_packFields hp, hasField, valueAt]
theorem trap (h : Head) (code : BitVec 16) : Statement (.trap h code) := by
  have hp : Packed 27 [(0, 16, code.toNat)] :=
    ⟨⟨by decide, code.isLt⟩, trivial⟩
  exact of_body rfl rfl rfl (by decide) hp fun hi _ => by
    show Except.ok (Instr.trap h (bfld (packFields _) 0 16)) = _
    simp [Instr.bodyFields, bfld_packFields hp, hasField, valueAt]
theorem dbgbrk (h : Head) (code : BitVec 16) : Statement (.dbgbrk h code) := by
  have hp : Packed 27 [(0, 16, code.toNat)] :=
    ⟨⟨by decide, code.isLt⟩, trivial⟩
  exact of_body rfl rfl rfl (by decide) hp fun hi _ => by
    show Except.ok (Instr.dbgbrk h (bfld (packFields _) 0 16)) = _
    simp [Instr.bodyFields, bfld_packFields hp, hasField, valueAt]
theorem tret (h : Head) : Statement (.tret h) :=
  of_body rfl rfl rfl (by decide) trivial fun hi _ => rfl
theorem mfs (sl : SSlot) (h : Head) (dst : BitVec 5) (wbs : Bool) (spr : BitVec 12) : Statement (.mfs sl h dst wbs spr) := by
  have hp : Packed 27 [(22, 5, dst.toNat), (21, 1, b2n wbs), (3, 12, spr.toNat)] :=
    ⟨⟨by decide, dst.isLt⟩, ⟨by decide, b2n_lt _⟩, ⟨by decide, spr.isLt⟩, trivial⟩
  exact of_body rfl rfl rfl (by decide) hp fun hi _ => by
    rw [sslot_pos]
    show Except.ok (Instr.mfs sl h (bfld (packFields _) 22 5) (bit (packFields _) 21) (bfld (packFields _) 3 12)) = _
    simp [Instr.bodyFields, bfld_packFields hp, bit_packFields hp, hasField, valueAt]
theorem mts (sl : SSlot) (h : Head) (spr : BitVec 12) (a : BitVec 6) : Statement (.mts sl h spr a) := by
  have hp : Packed 27 [(15, 6, a.toNat), (3, 12, spr.toNat)] :=
    ⟨⟨by decide, a.isLt⟩, ⟨by decide, spr.isLt⟩, trivial⟩
  exact of_body rfl rfl rfl (by decide) hp fun hi _ => by
    rw [sslot_pos]
    show Except.ok (Instr.mts sl h (bfld (packFields _) 3 12) (bfld (packFields _) 15 6)) = _
    simp [Instr.bodyFields, bfld_packFields hp, hasField, valueAt]
theorem time (sl : SSlot) (h : Head) (dst : BitVec 5) (wbs : Bool) (sel : BitVec 2) : Statement (.time sl h dst wbs sel) := by
  have hp : Packed 27 [(22, 5, dst.toNat), (21, 1, b2n wbs), (19, 2, sel.toNat)] :=
    ⟨⟨by decide, dst.isLt⟩, ⟨by decide, b2n_lt _⟩, ⟨by decide, sel.isLt⟩, trivial⟩
  exact of_body rfl rfl rfl (by decide) hp fun hi _ => by
    rw [sslot_pos]
    show Except.ok (Instr.time sl h (bfld (packFields _) 22 5) (bit (packFields _) 21) (bfld (packFields _) 19 2)) = _
    simp [Instr.bodyFields, bfld_packFields hp, bit_packFields hp, hasField, valueAt]
theorem perfrd (sl : SSlot) (h : Head) (dst : BitVec 5) (wbs : Bool) (cnt : BitVec 8) : Statement (.perfrd sl h dst wbs cnt) := by
  have hp : Packed 27 [(22, 5, dst.toNat), (21, 1, b2n wbs), (7, 8, cnt.toNat)] :=
    ⟨⟨by decide, dst.isLt⟩, ⟨by decide, b2n_lt _⟩, ⟨by decide, cnt.isLt⟩, trivial⟩
  exact of_body rfl rfl rfl (by decide) hp fun hi _ => by
    rw [sslot_pos]
    show Except.ok (Instr.perfrd sl h (bfld (packFields _) 22 5) (bit (packFields _) 21) (bfld (packFields _) 7 8)) = _
    simp [Instr.bodyFields, bfld_packFields hp, bit_packFields hp, hasField, valueAt]
theorem xex (h : Head) (idx : BitVec 10) (psel : BitVec 4) : Statement (.xex h idx psel) := by
  have hp : Packed 27 [(17, 10, idx.toNat), (13, 4, psel.toNat)] :=
    ⟨⟨by decide, idx.isLt⟩, ⟨by decide, psel.isLt⟩, trivial⟩
  exact of_body rfl rfl rfl (by decide) hp fun hi _ => by
    show Except.ok (Instr.xex h (bfld (packFields _) 17 10) (bfld (packFields _) 13 4)) = _
    simp [Instr.bodyFields, bfld_packFields hp, hasField, valueAt]
theorem xpnd (h : Head) (o : XpndOps) : Statement (.xpnd h o) :=
  of_body rfl rfl rfl (by decide) o.packed fun hi _ => by
    have e := o.ofBody_fields
    exact congrArg (fun o => Except.ok (Instr.xpnd h o)) e
theorem xpndi (h : Head) (o : XpndiOps) : Statement (.xpndi h o) :=
  of_body rfl rfl rfl (by decide) o.packed fun hi _ => by
    have e := o.ofBody_fields
    exact congrArg (fun o => Except.ok (Instr.xpndi h o)) e
theorem xpos (h : Head) (gs : BitVec 3) (ts : BitVec 5) (gd : BitVec 3) (td : BitVec 5) : Statement (.xpos h gs ts gd td) := by
  have hp : Packed 27 [(24, 3, gs.toNat), (19, 5, ts.toNat), (16, 3, gd.toNat), (11, 5, td.toNat)] :=
    ⟨⟨by decide, gs.isLt⟩, ⟨by decide, ts.isLt⟩, ⟨by decide, gd.isLt⟩, ⟨by decide, td.isLt⟩, trivial⟩
  exact of_body rfl rfl rfl (by decide) hp fun hi _ => by
    show Except.ok (Instr.xpos h (bfld (packFields _) 24 3) (bfld (packFields _) 19 5) (bfld (packFields _) 16 3) (bfld (packFields _) 11 5)) = _
    simp [Instr.bodyFields, bfld_packFields hp, hasField, valueAt]
theorem xcvtw (h : Head) (o : XcvtwOps) : Statement (.xcvtw h o) :=
  of_body rfl rfl rfl (by decide) o.packed fun hi _ => by
    have e := o.ofBody_fields
    exact congrArg (fun o => Except.ok (Instr.xcvtw h o)) e
theorem kld (h : Head) (kn : BitVec 3) (a : BitVec 6) (sz : Bool) (ofs : BitVec 13) : Statement (.kld h kn a sz ofs) := by
  have hp : Packed 27 [(24, 3, kn.toNat), (18, 6, a.toNat), (17, 1, b2n sz), (4, 13, ofs.toNat)] :=
    ⟨⟨by decide, kn.isLt⟩, ⟨by decide, a.isLt⟩, ⟨by decide, b2n_lt _⟩, ⟨by decide, ofs.isLt⟩, trivial⟩
  exact of_body rfl rfl rfl (by decide) hp fun hi _ => by
    show Except.ok (Instr.kld h (bfld (packFields _) 24 3) (bfld (packFields _) 18 6) (bit (packFields _) 17) (bfld (packFields _) 4 13)) = _
    simp [Instr.bodyFields, bfld_packFields hp, bit_packFields hp, hasField, valueAt]
theorem kset (h : Head) (kn : BitVec 3) (a : BitVec 6) (mode : BitVec 2) (j : BitVec 3) : Statement (.kset h kn a mode j) := by
  have hp : Packed 27 [(24, 3, kn.toNat), (18, 6, a.toNat), (16, 2, mode.toNat), (13, 3, j.toNat)] :=
    ⟨⟨by decide, kn.isLt⟩, ⟨by decide, a.isLt⟩, ⟨by decide, mode.isLt⟩, ⟨by decide, j.isLt⟩, trivial⟩
  exact of_body rfl rfl rfl (by decide) hp fun hi _ => by
    show Except.ok (Instr.kset h (bfld (packFields _) 24 3) (bfld (packFields _) 18 6) (bfld (packFields _) 16 2) (bfld (packFields _) 13 3)) = _
    simp [Instr.bodyFields, bfld_packFields hp, hasField, valueAt]
theorem kmov (h : Head) (kd ks : BitVec 3) : Statement (.kmov h kd ks) := by
  have hp : Packed 27 [(24, 3, kd.toNat), (21, 3, ks.toNat)] :=
    ⟨⟨by decide, kd.isLt⟩, ⟨by decide, ks.isLt⟩, trivial⟩
  exact of_body rfl rfl rfl (by decide) hp fun hi _ => by
    show Except.ok (Instr.kmov h (bfld (packFields _) 24 3) (bfld (packFields _) 21 3)) = _
    simp [Instr.bodyFields, bfld_packFields hp, hasField, valueAt]
theorem cpy (h : Head) (a b : BitVec 6) (ctx : BitVec 2) : Statement (.cpy h a b ctx) := by
  have hp : Packed 27 [(21, 6, a.toNat), (15, 6, b.toNat), (13, 2, ctx.toNat)] :=
    ⟨⟨by decide, a.isLt⟩, ⟨by decide, b.isLt⟩, ⟨by decide, ctx.isLt⟩, trivial⟩
  exact of_body rfl rfl rfl (by decide) hp fun hi _ => by
    show Except.ok (Instr.cpy h (bfld (packFields _) 21 6) (bfld (packFields _) 15 6) (bfld (packFields _) 13 2)) = _
    simp [Instr.bodyFields, bfld_packFields hp, hasField, valueAt]
theorem cpyg (h : Head) (a b : BitVec 6) (ctx : BitVec 2) : Statement (.cpyg h a b ctx) := by
  have hp : Packed 27 [(21, 6, a.toNat), (15, 6, b.toNat), (13, 2, ctx.toNat)] :=
    ⟨⟨by decide, a.isLt⟩, ⟨by decide, b.isLt⟩, ⟨by decide, ctx.isLt⟩, trivial⟩
  exact of_body rfl rfl rfl (by decide) hp fun hi _ => by
    show Except.ok (Instr.cpyg h (bfld (packFields _) 21 6) (bfld (packFields _) 15 6) (bfld (packFields _) 13 2)) = _
    simp [Instr.bodyFields, bfld_packFields hp, hasField, valueAt]
theorem cpys (h : Head) (a b : BitVec 6) (ctx : BitVec 2) : Statement (.cpys h a b ctx) := by
  have hp : Packed 27 [(21, 6, a.toNat), (15, 6, b.toNat), (13, 2, ctx.toNat)] :=
    ⟨⟨by decide, a.isLt⟩, ⟨by decide, b.isLt⟩, ⟨by decide, ctx.isLt⟩, trivial⟩
  exact of_body rfl rfl rfl (by decide) hp fun hi _ => by
    show Except.ok (Instr.cpys h (bfld (packFields _) 21 6) (bfld (packFields _) 15 6) (bfld (packFields _) 13 2)) = _
    simp [Instr.bodyFields, bfld_packFields hp, hasField, valueAt]
theorem cpyt (h : Head) (a b : BitVec 6) (ctx : BitVec 2) : Statement (.cpyt h a b ctx) := by
  have hp : Packed 27 [(21, 6, a.toNat), (15, 6, b.toNat), (13, 2, ctx.toNat)] :=
    ⟨⟨by decide, a.isLt⟩, ⟨by decide, b.isLt⟩, ⟨by decide, ctx.isLt⟩, trivial⟩
  exact of_body rfl rfl rfl (by decide) hp fun hi _ => by
    show Except.ok (Instr.cpyt h (bfld (packFields _) 21 6) (bfld (packFields _) 15 6) (bfld (packFields _) 13 2)) = _
    simp [Instr.bodyFields, bfld_packFields hp, hasField, valueAt]
theorem cpyx (h : Head) (a b : BitVec 6) (ctx : BitVec 2) : Statement (.cpyx h a b ctx) := by
  have hp : Packed 27 [(21, 6, a.toNat), (15, 6, b.toNat), (13, 2, ctx.toNat)] :=
    ⟨⟨by decide, a.isLt⟩, ⟨by decide, b.isLt⟩, ⟨by decide, ctx.isLt⟩, trivial⟩
  exact of_body rfl rfl rfl (by decide) hp fun hi _ => by
    show Except.ok (Instr.cpyx h (bfld (packFields _) 21 6) (bfld (packFields _) 15 6) (bfld (packFields _) 13 2)) = _
    simp [Instr.bodyFields, bfld_packFields hp, hasField, valueAt]
theorem cpyz (h : Head) (a b : BitVec 6) (ctx : BitVec 2) : Statement (.cpyz h a b ctx) := by
  have hp : Packed 27 [(21, 6, a.toNat), (15, 6, b.toNat), (13, 2, ctx.toNat)] :=
    ⟨⟨by decide, a.isLt⟩, ⟨by decide, b.isLt⟩, ⟨by decide, ctx.isLt⟩, trivial⟩
  exact of_body rfl rfl rfl (by decide) hp fun hi _ => by
    show Except.ok (Instr.cpyz h (bfld (packFields _) 21 6) (bfld (packFields _) 15 6) (bfld (packFields _) 13 2)) = _
    simp [Instr.bodyFields, bfld_packFields hp, hasField, valueAt]
theorem cpyw (h : Head) (a b : BitVec 6) (ctx : BitVec 2) (sfmt dfmt : BitVec 5) : Statement (.cpyw h a b ctx sfmt dfmt) := by
  have hp : Packed 27 [(21, 6, a.toNat), (15, 6, b.toNat), (13, 2, ctx.toNat), (8, 5, sfmt.toNat), (3, 5, dfmt.toNat)] :=
    ⟨⟨by decide, a.isLt⟩, ⟨by decide, b.isLt⟩, ⟨by decide, ctx.isLt⟩, ⟨by decide, sfmt.isLt⟩, ⟨by decide, dfmt.isLt⟩,
      trivial⟩
  exact of_body rfl rfl rfl (by decide) hp fun hi _ => by
    show Except.ok (Instr.cpyw h (bfld (packFields _) 21 6) (bfld (packFields _) 15 6) (bfld (packFields _) 13 2) (bfld (packFields _) 8 5) (bfld (packFields _) 3 5)) = _
    simp [Instr.bodyFields, bfld_packFields hp, hasField, valueAt]
theorem cfill (h : Head) (a b : BitVec 6) (ctx : BitVec 2) : Statement (.cfill h a b ctx) := by
  have hp : Packed 27 [(21, 6, a.toNat), (15, 6, b.toNat), (13, 2, ctx.toNat)] :=
    ⟨⟨by decide, a.isLt⟩, ⟨by decide, b.isLt⟩, ⟨by decide, ctx.isLt⟩, trivial⟩
  exact of_body rfl rfl rfl (by decide) hp fun hi _ => by
    show Except.ok (Instr.cfill h (bfld (packFields _) 21 6) (bfld (packFields _) 15 6) (bfld (packFields _) 13 2)) = _
    simp [Instr.bodyFields, bfld_packFields hp, hasField, valueAt]
theorem strm (h : Head) (a : BitVec 6) (sid : BitVec 3) (tgt : Bool) (depthm1 : BitVec 8) : Statement (.strm h a sid tgt depthm1) := by
  have hp : Packed 27 [(21, 6, a.toNat), (18, 3, sid.toNat), (17, 1, b2n tgt), (9, 8, depthm1.toNat)] :=
    ⟨⟨by decide, a.isLt⟩, ⟨by decide, sid.isLt⟩, ⟨by decide, b2n_lt _⟩, ⟨by decide, depthm1.isLt⟩, trivial⟩
  exact of_body rfl rfl rfl (by decide) hp fun hi _ => by
    show Except.ok (Instr.strm h (bfld (packFields _) 21 6) (bfld (packFields _) 18 3) (bit (packFields _) 17) (bfld (packFields _) 9 8)) = _
    simp [Instr.bodyFields, bfld_packFields hp, bit_packFields hp, hasField, valueAt]
theorem strmx (h : Head) (a : BitVec 6) (sid : BitVec 3) : Statement (.strmx h a sid) := by
  have hp : Packed 27 [(21, 6, a.toNat), (18, 3, sid.toNat)] :=
    ⟨⟨by decide, a.isLt⟩, ⟨by decide, sid.isLt⟩, trivial⟩
  exact of_body rfl rfl rfl (by decide) hp fun hi _ => by
    show Except.ok (Instr.strmx h (bfld (packFields _) 21 6) (bfld (packFields _) 18 3)) = _
    simp [Instr.bodyFields, bfld_packFields hp, hasField, valueAt]
theorem syncw (h : Head) (a b : BitVec 6) (ctx : BitVec 2) (g : Bool) : Statement (.syncw h a b ctx g) := by
  have hp : Packed 27 [(21, 6, a.toNat), (15, 6, b.toNat), (13, 2, ctx.toNat), (12, 1, b2n g)] :=
    ⟨⟨by decide, a.isLt⟩, ⟨by decide, b.isLt⟩, ⟨by decide, ctx.isLt⟩, ⟨by decide, b2n_lt _⟩, trivial⟩
  exact of_body rfl rfl rfl (by decide) hp fun hi _ => by
    show Except.ok (Instr.syncw h (bfld (packFields _) 21 6) (bfld (packFields _) 15 6) (bfld (packFields _) 13 2) (bit (packFields _) 12)) = _
    simp [Instr.bodyFields, bfld_packFields hp, bit_packFields hp, hasField, valueAt]
theorem hsub (h : Head) (a b : BitVec 6) (sid : BitVec 3) (dir : Bool) : Statement (.hsub h a b sid dir) := by
  have hp : Packed 27 [(21, 6, a.toNat), (15, 6, b.toNat), (12, 3, sid.toNat), (11, 1, b2n dir)] :=
    ⟨⟨by decide, a.isLt⟩, ⟨by decide, b.isLt⟩, ⟨by decide, sid.isLt⟩, ⟨by decide, b2n_lt _⟩, trivial⟩
  exact of_body rfl rfl rfl (by decide) hp fun hi _ => by
    show Except.ok (Instr.hsub h (bfld (packFields _) 21 6) (bfld (packFields _) 15 6) (bfld (packFields _) 12 3) (bit (packFields _) 11)) = _
    simp [Instr.bodyFields, bfld_packFields hp, bit_packFields hp, hasField, valueAt]
theorem hrel (h : Head) (sid : BitVec 3) : Statement (.hrel h sid) := by
  have hp : Packed 27 [(12, 3, sid.toNat)] :=
    ⟨⟨by decide, sid.isLt⟩, trivial⟩
  exact of_body rfl rfl rfl (by decide) hp fun hi _ => by
    show Except.ok (Instr.hrel h (bfld (packFields _) 12 3)) = _
    simp [Instr.bodyFields, bfld_packFields hp, hasField, valueAt]
theorem cbfill (h : Head) (a : BitVec 6) (bank : BitVec 1) (smask : BitVec 4) : Statement (.cbfill h a bank smask) := by
  have hp : Packed 27 [(21, 6, a.toNat), (20, 1, bank.toNat), (16, 4, smask.toNat)] :=
    ⟨⟨by decide, a.isLt⟩, ⟨by decide, bank.isLt⟩, ⟨by decide, smask.isLt⟩, trivial⟩
  exact of_body rfl rfl rfl (by decide) hp fun hi _ => by
    show Except.ok (Instr.cbfill h (bfld (packFields _) 21 6) (bfld (packFields _) 20 1) (bfld (packFields _) 16 4)) = _
    simp [Instr.bodyFields, bfld_packFields hp, hasField, valueAt]
theorem qpush (h : Head) (a b : BitVec 6) (ctx : BitVec 2) (iq : BitVec 2) (tok : Bool) : Statement (.qpush h a b ctx iq tok) := by
  have hp : Packed 27 [(21, 6, a.toNat), (15, 6, b.toNat), (13, 2, ctx.toNat), (11, 2, iq.toNat), (10, 1, b2n tok)] :=
    ⟨⟨by decide, a.isLt⟩, ⟨by decide, b.isLt⟩, ⟨by decide, ctx.isLt⟩, ⟨by decide, iq.isLt⟩, ⟨by decide, b2n_lt _⟩,
      trivial⟩
  exact of_body rfl rfl rfl (by decide) hp fun hi _ => by
    show Except.ok (Instr.qpush h (bfld (packFields _) 21 6) (bfld (packFields _) 15 6) (bfld (packFields _) 13 2) (bfld (packFields _) 11 2) (bit (packFields _) 10)) = _
    simp [Instr.bodyFields, bfld_packFields hp, bit_packFields hp, hasField, valueAt]
theorem tfill (h : Head) (a b : BitVec 6) (gmask : BitVec 8) : Statement (.tfill h a b gmask) := by
  have hp : Packed 27 [(21, 6, a.toNat), (15, 6, b.toNat), (7, 8, gmask.toNat)] :=
    ⟨⟨by decide, a.isLt⟩, ⟨by decide, b.isLt⟩, ⟨by decide, gmask.isLt⟩, trivial⟩
  exact of_body rfl rfl rfl (by decide) hp fun hi _ => by
    show Except.ok (Instr.tfill h (bfld (packFields _) 21 6) (bfld (packFields _) 15 6) (bfld (packFields _) 7 8)) = _
    simp [Instr.bodyFields, bfld_packFields hp, hasField, valueAt]
theorem coll (h : Head) (a : BitVec 6) (kind : BitVec 3) (ctx : BitVec 1) : Statement (.coll h a kind ctx) := by
  have hp : Packed 27 [(21, 6, a.toNat), (18, 3, kind.toNat), (17, 1, ctx.toNat)] :=
    ⟨⟨by decide, a.isLt⟩, ⟨by decide, kind.isLt⟩, ⟨by decide, ctx.isLt⟩, trivial⟩
  exact of_body rfl rfl rfl (by decide) hp fun hi _ => by
    show Except.ok (Instr.coll h (bfld (packFields _) 21 6) (bfld (packFields _) 18 3) (bfld (packFields _) 17 1)) = _
    simp [Instr.bodyFields, bfld_packFields hp, hasField, valueAt]
theorem pcancel (h : Head) (a : BitVec 6) : Statement (.pcancel h a) := by
  have hp : Packed 27 [(21, 6, a.toNat)] :=
    ⟨⟨by decide, a.isLt⟩, trivial⟩
  exact of_body rfl rfl rfl (by decide) hp fun hi _ => by
    show Except.ok (Instr.pcancel h (bfld (packFields _) 21 6)) = _
    simp [Instr.bodyFields, bfld_packFields hp, hasField, valueAt]

end Sys2Proof.Laws.RoundTrip
end

