-- ==== Sys2Proof/Machine/Delta.lean ====
section
/-! DEFINITION. How a queue of cards or records is stored (R309): each entry holds the words that differ from the entry before it.
The state holds the records themselves; this is the form they have in a queue's storage, written and read. -/

namespace Sys2Proof.Machine

/-- The sixteen words of a record or card. -/
def recWords (r : Rec) : List Word32 := (List.range 16).map fun i => BitVec.ofNat 32 (recWord r i)

/-- The entry before a queue's first: all zero. -/
def zeroWords : List Word32 := List.replicate 16 0

/-- Bit i of the mask: word i differs from word i of the previous entry. -/
def deltaMask : List Word32 → List Word32 → Nat
  | p :: ps, c :: cs => b2n (decide (p ≠ c)) + 2 * deltaMask ps cs
  | _, _ => 0

/-- The words of the set bits, in ascending bit order, little-endian. -/
def deltaBody : List Word32 → List Word32 → List Byte
  | p :: ps, c :: cs => (if p = c then [] else leBytes 4 c.toNat) ++ deltaBody ps cs
  | _, _ => []

/-- One entry: a 16-bit mask and its words. -/
def deltaEntry (prev cur : List Word32) : List Byte := leBytes 2 (deltaMask prev cur) ++ deltaBody prev cur

/-- The entries of a queue, packed. DESIGN CHOICE: log entry 73. -/
def deltaQueue : List Word32 → List (List Word32) → List Byte
  | _, [] => []
  | prev, c :: cs => deltaEntry prev c ++ deltaQueue c cs

/-- The words of an entry whose mask is `m`, and the bytes after it; `none` where the bytes end within it. -/
def deltaApply : List Word32 → Nat → List Byte → Option (List Word32 × List Byte)
  | [], _, bs => some ([], bs)
  | p :: ps, m, bs =>
    if m % 2 = 0 then (deltaApply ps (m / 2) bs).map fun r => (p :: r.1, r.2)
    else match bs with
      | a :: b :: c :: d :: rest => (deltaApply ps (m / 2) rest).map fun r => (BitVec.ofNat 32 (leNat [a, b, c, d]) :: r.1, r.2)
      | _ => none

/-- Reads one entry after `prev`. -/
def deltaRead (prev : List Word32) : List Byte → Option (List Word32 × List Byte)
  | a :: b :: rest => deltaApply prev (leNat [a, b]) rest
  | _ => none

/-- Reads `n` entries. -/
def deltaReadAll : Nat → List Word32 → List Byte → Option (List (List Word32))
  | 0, _, _ => some []
  | n + 1, prev, bs =>
    match deltaRead prev bs with
    | some (c, rest) => (deltaReadAll n c rest).map fun cs => c :: cs
    | none => none

end Sys2Proof.Machine
end

