-- ==== Sys2Proof/Safety.lean ====
section
/-! DEFINITION. What counts as a safe run, and the words in which the statements speak of one step: that a bundle issues in this
clk, that its operation acts, the state it reads, and the state its issue leaves. -/

namespace Sys2Proof.Machine

/-- `k` steps from `s` all answer a next state. -/
def safeRun : Nat → State → Prop
  | 0, _ => True
  | k + 1, s => ∃ t, step s = .next t ∧ safeRun k t

/-- The state the bundle that holds `i` alone reads at its issue: host writes applied, latches shifted, late results killed
(R148, R59, R105). -/
def atIssue (i : Instr) (s : State) : State := beginBundle (Bundle.single i) s

/-- The state on which what the bundle that holds `i` alone waits for is judged: the same, but for the kill of late results. -/
def atWait (i : Instr) (s : State) : State := openBundle false (Bundle.single i) s

/-- The current core runs a unit and has a bundle boundary in this clk at which nothing precedes the bundle due: no assay replay,
no raised cause that waits for its action entry, no delay after TRET or a stall, no step park, no reported cause (R218, R330, R337, R342, R352). -/
abbrev Boundary (s : State) : Prop :=
  stopped s = false ∧ s.core.un.st = .running ∧ s.core.trp.raised = none ∧ s.core.trp.assay = none ∧ s.core.sca.hold ≤ s.clk ∧
    s.core.trp.stepDue = false ∧ reportDue s = none

/-- The bundle that holds `i` alone comes to its turn, and what every bundle waits for is past: the stall of R148, a cell load
(R321), a pending register (R125). -/
abbrev Due (i : Instr) (s : State) : Prop :=
  Boundary s ∧ ingressStall (Bundle.single i) s = false ∧ (atWait i s).core.sca.cellStall = none ∧
    namesPending (Bundle.single i) (atWait i s).core = false

/-- The operation acts: its guard is true and no taken branch kills it (R55, R105). -/
abbrev Acts (h : Head) (i : Instr) (s : State) : Prop :=
  guardOf h (atIssue i s).core = true ∧ killed h (atIssue i s).core = false

/-- What the issue of the bundle that holds `i` alone leaves, once its operation has left `u`: the bundle's end, and the end of
the core's turn in this clk. -/
def issued (i : Instr) (u : State) : State := (endBundle mtsWrite (Bundle.single i) u).endTurn

/-- The due bundle stalls in this clk. -/
def stalled (counters : List Nat) (s : State) : State := (s.stallClk counters).endTurn

/-- The bundle has raised precise cause `c`: none of it issues, and the cause is taken before it (R64). -/
def trapped (s : State) (c : CauseInfo) : State := (s.precise c).endTurn

/-- The result `v` of access `e`, which lands in this clk (R124). -/
def returned (s : State) (e : QEntry) (v : Double) : Pending :=
  { due := s.clk, ord := e.id, iss := e.id, sq := e.sq, tbun := e.tbun, eff := .reg e.chain e.wbs e.dst v }

/-- In `t` the result `v` of access `e` has returned (R124); while a step is replayed it is kept behind what the stop holds (R218). -/
abbrev returnedIn (s t : State) (e : QEntry) (v : Double) : Prop :=
  if s.core.trp.assay.isNone then returned s e v ∈ t.core.sca.inflight else { returned s e v with due := 0 } ∈ t.core.trp.assayRecs

/-- The mailbox runs the command whose block names `op`, with no reserved bit set, and the package is not FAILED (R373, R375). -/
abbrev Asked (op : Nat) (s : State) : Prop :=
  s.pkg.mgmt.busy = true ∧ s.mbArg 0 % 2 ^ 8 = op ∧ s.mbArg 0 / 2 ^ 8 % 2 ^ 24 = 0 ∧ s.pkg.mgmt.pstate ≠ 2

/-- The command of `s` has ended in `t` with a status and results (R375): MBSTAT gives its SEQ and the status, BUSY is 0, doubles 16 on
of the block hold the results, and vector 16 has been signalled. -/
abbrev Answered (s t : State) (status : Nat) (results : List Nat) : Prop :=
  t.pkg.mgmt.busy = false ∧ t.pkg.mgmt.mbseq = s.pkg.mgmt.cmdSeq ∧ t.pkg.mgmt.mbstatus = BitVec.ofNat 8 status ∧
    t.pkg.mgmt.msix.getLast? = some 16 ∧
    ∀ i, i < results.length → readNat t.pkg (t.pkg.mgmt.mbaddr + 128 + 8 * i) 8 = results.getD i 0 % 2 ^ 64

/-- The stores that the cores share are in canonical form: memory, tags, full/empty bits and cell states each list their keys rising and
hold no entry equal to what an unlisted key reads as, so equal contents are equal data. -/
def Pkg.Canonical (p : Pkg) : Prop :=
  Memory.wf p.mem ∧ fwf (0 : Half) p.tags = true ∧ fwf false p.full = true ∧ fwf CellState.value p.cells = true

/-- R117: the addresses of the entries that a walk to `va` reads below a table, down to the first that points to no further table. -/
def walkReads (p : Pkg) (va : Nat) : List (Nat × Nat × Bool) → Nat → List Nat
  | [], _ => []
  | (shift, n, _) :: ls, table =>
    let ea := table + 8 * fld va shift n
    ea :: (if readNat p ea 8 % 4 = 1 then walkReads p va ls (pteNext (readNat p ea 8)) else [])

/-- The entries a walk to `va` reads are eight bytes each that overlap nowhere. -/
abbrev ApartOnWalk (p : Pkg) (root va : Nat) : Prop :=
  (walkReads p va walkLevels root).Pairwise fun a b => a + 8 ≤ b ∨ b + 8 ≤ a

/-- The entries a walk to `va` reads lie below the last `room` bytes of the memory the controllers have left to give out, which lies in HBM. -/
abbrev WalkBelow (p : Pkg) (root va room : Nat) : Prop :=
  p.mgmt.cursor ≤ hbmEnd ∧ ∀ a ∈ walkReads p va walkLevels root, a + 8 + room ≤ p.mgmt.cursor

/-! ### The arithmetic of R88, over the integers -/

/-- The signed value of the low 32 bits. -/
def lowS (a : Double) : Int := (a.setWidth 32).toInt
/-- The unsigned value of the low 32 bits. -/
def lowU (a : Double) : Int := ((a.setWidth 32).toNat : Int)
/-- The low 32 bits of a result, bit 31 repeated above them. -/
def word32 (v : Int) : Double := (BitVec.ofInt 32 v).signExtend 64
/-- The low 64 bits of a result. -/
def word64 (v : Int) : Double := BitVec.ofInt 64 v
/-- sign(a · b) · floor(|a| / |b|). -/
def towardZero (a b : Int) : Int := Int.sign (a * b) * ((a.natAbs / b.natAbs : Nat) : Int)

end Sys2Proof.Machine
end

