-- ==== Sys2Proof/Certificates/Slice0/Obligations.lean ====
section
/-! DEFINITION. The statements for the provers. Each docstring names the rules it formalises. Where one covers several
instructions it lists them with what differs; `Due`, `Acts`, `atIssue`, `issued`, `stalled` and `trapped` are those of Safety.lean. -/

open Sys2Proof Sys2Proof.Machine

/-! ### Scalar arithmetic, logic, constants and bit fields -/

/-- R88, R85: ADD, SUB, MUL, MULH and MULHU in both forms. The bundle issues and puts one result in flight, of the value of R88
and the latency of R85, beside the held operands of its sources. -/
def Obligations.IntegerArithmeticResult : Prop :=
  ∀ (sl : SSlot) (h : Head) (o : RegOps) (s : State) (x : Instr × Nat × (Double → Double → Double)),
    x ∈ ([(.addW sl h o, 1, fun a b => word32 (lowS a + lowS b)), (.addD sl h o, 1, fun a b => word64 (a.toInt + b.toInt)),
          (.subW sl h o, 1, fun a b => word32 (lowS a - lowS b)), (.subD sl h o, 1, fun a b => word64 (a.toInt - b.toInt)),
          (.mulW sl h o, 3, fun a b => word32 (lowS a * lowS b)), (.mulD sl h o, 3, fun a b => word64 (a.toInt * b.toInt)),
          (.mulhW sl h o, 3, fun a b => word32 (lowS a * lowS b / 2 ^ 32)),
          (.mulhD sl h o, 3, fun a b => word64 (a.toInt * b.toInt / 2 ^ 64)),
          (.mulhuW sl h o, 3, fun a b => word32 (lowU a * lowU b / 2 ^ 32)),
          (.mulhuD sl h o, 3, fun a b => word64 ((a.toNat : Int) * b.toNat / 2 ^ 64))] :
        List (Instr × Nat × (Double → Double → Double))) →
    Due x.1 s → Acts h x.1 s →
    exec x.1 s = .next (issued x.1 ((regHolds o sl h (atIssue x.1 s) (atIssue x.1 s)).land sl h o.dst o.wbs
      (x.2.2 ((atIssue x.1 s).core.src sl false o.srcA) ((atIssue x.1 s).core.src sl true o.srcB)) x.2.1))

/-- R88, R89: DIV, DIVU, REM and REMU in both forms. With a divisor that is not zero in the form's width the result of R88 is in
flight; with a zero divisor the bundle raises INTDIV0 precisely, whatever its high bits hold. With a false guard it raises nothing: the
bundle issues and nothing is put in flight. -/
def Obligations.DivisionResultOrTrap : Prop :=
  ∀ (sl : SSlot) (h : Head) (o : RegOps) (s : State) (x : Instr × Nat × (Double → Double → Double)),
    x ∈ ([(.divW sl h o, 32, fun a b => word32 (towardZero (lowS a) (lowS b))),
          (.divD sl h o, 64, fun a b => word64 (towardZero a.toInt b.toInt)),
          (.divuW sl h o, 32, fun a b => word32 (lowU a / lowU b)),
          (.divuD sl h o, 64, fun a b => word64 ((a.toNat : Int) / b.toNat)),
          (.remW sl h o, 32, fun a b => word32 (lowS a - lowS b * towardZero (lowS a) (lowS b))),
          (.remD sl h o, 64, fun a b => word64 (a.toInt - b.toInt * towardZero a.toInt b.toInt)),
          (.remuW sl h o, 32, fun a b => word32 (lowU a - lowU b * (lowU a / lowU b))),
          (.remuD sl h o, 64, fun a b => word64 ((a.toNat : Int) - b.toNat * ((a.toNat : Int) / b.toNat)))] :
        List (Instr × Nat × (Double → Double → Double))) →
    Due x.1 s →
    (guardOf h (atIssue x.1 s).core = false → exec x.1 s = .next (issued x.1 (atIssue x.1 s))) ∧
    (Acts h x.1 s →
    let a := (atIssue x.1 s).core.src sl false o.srcA
    let b := (atIssue x.1 s).core.src sl true o.srcB
    (b.toNat % 2 ^ x.2.1 ≠ 0 →
      exec x.1 s = .next (issued x.1 ((regHolds o sl h (atIssue x.1 s) (atIssue x.1 s)).land sl h o.dst o.wbs (x.2.2 a b) 18))) ∧
    (b.toNat % 2 ^ x.2.1 = 0 →
      exec x.1 s = .next (trapped s { cause := 1, slot := (match sl with | .s0 => 0 | .s1 => 1), gmask := 0, reason := 0, tl := 0,
                                      eng := 0, tlnum := 0, tstat := a.toNat })))

/-- R91, R92: the logic, shift, count, minimum, maximum and compare operations of the register form, and SEL. Each result lands
after 1 clk. -/
def Obligations.LogicShiftCompareResult : Prop :=
  ∀ (sl : SSlot) (h : Head) (o : RegOps) (s : State) (x : Instr × (Double → Double → Double)),
    x ∈ ([(.and sl h o, fun a b => a &&& b), (.or sl h o, fun a b => a ||| b), (.xor sl h o, fun a b => a ^^^ b),
          (.andn sl h o, fun a b => a &&& ~~~b),
          (.shl sl h o, fun a b => word64 ((a.toNat : Int) * 2 ^ (b.toNat % 64))),
          (.shr sl h o, fun a b => word64 ((a.toNat : Int) / 2 ^ (b.toNat % 64))),
          (.sar sl h o, fun a b => word64 (a.toInt / 2 ^ (b.toNat % 64))),
          (.rotl sl h o, fun a b => (a <<< (b.toNat % 64)) ||| (a >>> (64 - b.toNat % 64))),
          (.min sl h o, fun a b => if a.toInt ≤ b.toInt then a else b), (.max sl h o, fun a b => if a.toInt ≤ b.toInt then b else a),
          (.minu sl h o, fun a b => if a.toNat ≤ b.toNat then a else b), (.maxu sl h o, fun a b => if a.toNat ≤ b.toNat then b else a),
          (.seq sl h o, fun a b => if a = b then 1 else 0), (.sne sl h o, fun a b => if a = b then 0 else 1),
          (.slt sl h o, fun a b => if a.toInt < b.toInt then 1 else 0), (.sltu sl h o, fun a b => if a.toNat < b.toNat then 1 else 0),
          (.sle sl h o, fun a b => if a.toInt ≤ b.toInt then 1 else 0), (.sleu sl h o, fun a b => if a.toNat ≤ b.toNat then 1 else 0),
          (.sel sl h o, fun a b =>
            if (if o.dst = 0 then 0 else fget 0 (atIssue (.sel sl h o) s).core.sca.g o.dst.toNat) = 0 then b else a)] :
        List (Instr × (Double → Double → Double))) →
    Due x.1 s → Acts h x.1 s →
    exec x.1 s = .next (issued x.1 ((regHolds o sl h (atIssue x.1 s) (atIssue x.1 s)).land sl h o.dst o.wbs
      (x.2 ((atIssue x.1 s).core.src sl false o.srcA) ((atIssue x.1 s).core.src sl true o.srcB)) 1))

/-- R90, R93 to R95, R57, R101: the immediate form, LIMM and NOP. The immediate is sign-extended, but MOVW's 15 bits are not; source A has no
hold. LIMM writes its 64-bit immediate after 1 clk; NOP issues and does nothing, whatever its guard and SQ bit. -/
def Obligations.ImmediateResult : Prop :=
  (∀ (sl : SSlot) (h : Head) (o : ImmOps) (s : State) (x : Instr × (Double → Double)),
    x ∈ ([(.addiW sl h o, fun a => word32 (lowS a + o.imm.toInt)), (.addiD sl h o, fun a => word64 (a.toInt + o.imm.toInt)),
          (.andi sl h o, fun a => a &&& word64 o.imm.toInt), (.ori sl h o, fun a => a ||| word64 o.imm.toInt),
          (.xori sl h o, fun a => a ^^^ word64 o.imm.toInt),
          (.shli sl h o, fun a => word64 ((a.toNat : Int) * 2 ^ (o.imm.toNat % 64))),
          (.shri sl h o, fun a => word64 ((a.toNat : Int) / 2 ^ (o.imm.toNat % 64))),
          (.sari sl h o, fun a => word64 (a.toInt / 2 ^ (o.imm.toNat % 64))),
          (.movw sl h o, fun a => word64 (((a.toNat % 2 ^ 49 * 2 ^ 15 + o.imm.toNat : Nat)) : Int))] : List (Instr × (Double → Double))) →
    Due x.1 s → Acts h x.1 s →
    exec x.1 s = .next (issued x.1 ((atIssue x.1 s).land sl h o.dst o.wbs (x.2 ((atIssue x.1 s).core.src sl false o.srcA)) 1))) ∧
  (∀ (h : Head) (s : State),
    (∀ o : LimmOps, Due (.limm h o) s → Acts h (.limm h o) s →
      exec (.limm h o) s = .next (issued (.limm h o) ((atIssue (.limm h o) s).land .s0 h o.dst o.wbs o.imm 1))) ∧
    (∀ sl : SSlot, Due (.nop sl h) s → exec (.nop sl h) s = .next (issued (.nop sl h) (atIssue (.nop sl h) s))))

/-- R91, R97: BFX, BFXU and BFI with p + w at most 64, and BSET, BCLR, BTST and ADDP. A field is read and replaced arithmetically:
bits p+w−1 to p of a are a / 2^p mod 2^w. BFI's destination is read at issue, g0 as zero. CLZ, CTZ and POPC: the result is 64 for CLZ and
CTZ of zero; else CLZ's is the n with 2^(63−n) ≤ a < 2^(64−n), CTZ's the number of the lowest bit set; POPC's is the number of bits set. -/
def Obligations.BitFieldResult : Prop :=
  (∀ (sl : SSlot) (h : Head) (s : State),
    (∀ (o : BfOps) (x : Instr × (Nat → Double)), o.pos.toNat + o.wid.toNat + 1 ≤ 64 →
      x ∈ ([(.bfx sl h o, fun a =>
              let f : Int := ((a / 2 ^ o.pos.toNat % 2 ^ (o.wid.toNat + 1) : Nat) : Int)
              word64 (if f < 2 ^ o.wid.toNat then f else f - 2 ^ (o.wid.toNat + 1))),
            (.bfxu sl h o, fun a => BitVec.ofNat 64 (a / 2 ^ o.pos.toNat % 2 ^ (o.wid.toNat + 1))),
            (.bfi sl h o, fun a =>
              let d := if o.dst = 0 then 0 else (fget 0 (atIssue (.bfi sl h o) s).core.sca.g o.dst.toNat).toNat
              BitVec.ofNat 64 (d % 2 ^ o.pos.toNat + a % 2 ^ (o.wid.toNat + 1) * 2 ^ o.pos.toNat +
                d / 2 ^ (o.pos.toNat + o.wid.toNat + 1) * 2 ^ (o.pos.toNat + o.wid.toNat + 1)))] : List (Instr × (Nat → Double))) →
      Due x.1 s → Acts h x.1 s →
      exec x.1 s = .next (issued x.1 ((atIssue x.1 s).land sl h o.dst o.wbs
        (x.2 ((atIssue x.1 s).core.src sl false o.srcA).toNat) 1))) ∧
    (∀ (o : BitOps) (x : Instr × (Double → Double)),
      x ∈ ([(.bset sl h o, fun a => a ||| BitVec.ofNat 64 (2 ^ o.pos.toNat)),
            (.bclr sl h o, fun a => a &&& ~~~BitVec.ofNat 64 (2 ^ o.pos.toNat)),
            (.btst sl h o, fun a => BitVec.ofNat 64 (a.toNat / 2 ^ o.pos.toNat % 2))] : List (Instr × (Double → Double))) →
      Due x.1 s → Acts h x.1 s →
      exec x.1 s = .next (issued x.1 ((atIssue x.1 s).land sl h o.dst o.wbs (x.2 ((atIssue x.1 s).core.src sl false o.srcA)) 1))) ∧
    (∀ o : AddpOps, Due (.addp sl h o) s → Acts h (.addp sl h o) s →
      exec (.addp sl h o) s = .next (issued (.addp sl h o) ((atIssue (.addp sl h o) s).land sl h o.dst o.wbs
        (let a := ((atIssue (.addp sl h o) s).core.src sl false o.srcA).toNat
         let b := ((atIssue (.addp sl h o) s).core.src sl true o.srcB).toNat
         BitVec.ofNat 64 (a / 2 ^ 56 * 2 ^ 56 + (a + b * 2 ^ o.sh.toNat) % 2 ^ 56)) 1)))) ∧
  (∀ (sl : SSlot) (h : Head) (o : RegOps1) (s : State) (x : Instr × (Double → Nat → Prop)),
    x ∈ ([(.clz sl h o, fun a n => if a = 0 then n = 64 else n ≤ 63 ∧ 2 ^ (63 - n) ≤ a.toNat ∧ a.toNat < 2 ^ (64 - n)),
          (.ctz sl h o, fun a n => if a = 0 then n = 64 else n < 64 ∧ a.getLsbD n = true ∧ ∀ m, m < n → a.getLsbD m = false),
          (.popc sl h o, fun a n => n = ((List.range 64).filter fun m => a.getLsbD m).length)] :
        List (Instr × (Double → Nat → Prop))) →
    Due x.1 s → Acts h x.1 s →
    ∃ n : Nat, x.2 ((atIssue x.1 s).core.src sl false o.srcA) n ∧
      exec x.1 s = .next (issued x.1 ((holdRead sl h false o.hldA o.srcA (atIssue x.1 s) (atIssue x.1 s)).land sl h o.dst o.wbs
        (BitVec.ofNat 64 n) 1)))
/-! ### Control flow -/

/-- R102, R59: the start and the end of every bundle. At its issue both latch chains shift by one: the latest result landed since
the last issue enters, 0 where none did; what waits for a re-entry lands before (R339); after a shift change every latch reads zero (R166). At its end, unless it holds a TRET or suspends its unit, fetch goes to the target of the
branch two bundles back, else to the next bundle, modulo 2^56; a branch taken here becomes the newest of the two.
Assumption log entry 8 names the choices of the model it rests on. -/
def Obligations.LatchShiftAndFetchAdvance : Prop :=
  (∀ (b : Bundle) (s : State), ingressStall b s = false →
    let q := s.reenter true
    let c := q.core.sca
    let v (o : Option (Nat × Double)) : Double := match o with | some x => x.2 | none => 0
    ((∀ w, s.core.tab.wait = some w → w.released = false) → (List.range 8).map (beginBundle b s).core.latch =
      [v c.land0, q.core.latch 0, q.core.latch 1, q.core.latch 2, v c.land1, q.core.latch 4, q.core.latch 5, q.core.latch 6]) ∧
    (∀ w, s.core.tab.wait = some w → w.released = true → (List.range 8).map (beginBundle b s).core.latch = List.replicate 8 0)) ∧
  (∀ (wr : Nat → Double → State → State) (b : Bundle) (u : State), u.core.sca.late = [] → u.core.sca.tretNow = false →
    u.core.un.st = .running →
    let c := (endBundle wr b u).core.sca
    c.pc = (match u.core.sca.br2 with | some x => x.1 | none => (u.core.sca.pc + 32) % 2 ^ 56) ∧ c.br2 = u.core.sca.br1 ∧
      c.br1 = u.core.sca.taken.map (fun t => (t, u.core.sca.seq)) ∧ c.taken = none)

/-- R103: BR, BRL, BRI and RET. A taken branch sets its target: OFF bundles from its own bundle modulo 2^56, or the low 56 bits of
the sum with bits 4:0 cleared. BRL's link value is the address of the third bundle after it; with DBGCTL.MODE 2 at level 0 it is
also the return a step park waits for (R352). -/
def Obligations.BranchTaken : Prop :=
  ∀ (h : Head) (s : State),
    (∀ off : BitVec 24, Due (.br h off) s → Acts h (.br h off) s →
      let p := atIssue (.br h off) s
      exec (.br h off) s = .next (issued (.br h off)
        (p.modSca fun c => { c with taken := some (((p.core.sca.pc : Int) + 32 * off.toInt) % 2 ^ 56).toNat }))) ∧
    (∀ (dst : BitVec 5) (wbs : Bool) (off : BitVec 21), Due (.brl h dst wbs off) s → Acts h (.brl h dst wbs off) s →
      let p := atIssue (.brl h dst wbs off) s
      let link := (p.core.sca.pc + 96) % 2 ^ 56
      exec (.brl h dst wbs off) s = .next (issued (.brl h dst wbs off)
        ((p.modSca fun c => { c with
            taken := some (((p.core.sca.pc : Int) + 32 * off.toInt) % 2 ^ 56).toNat,
            callRet := if p.core.trp.dbgmode = 2 ∧ p.core.trp.level = 0 ∧ (c.callRet = none ∨ c.callRet = some p.core.sca.pc) then some link
                       else c.callRet }).land
          .s0 h dst wbs (BitVec.ofNat 64 link) 1))) ∧
    (∀ (a : BitVec 6) (imm : BitVec 15), Due (.bri h a imm) s → Acts h (.bri h a imm) s →
      let p := atIssue (.bri h a imm) s
      exec (.bri h a imm) s = .next (issued (.bri h a imm) (p.modSca fun c => { c with
        taken := some (((((p.core.src .s0 false a).toNat : Int) + 32 * imm.toInt) % 2 ^ 56).toNat / 32 * 32) }))) ∧
    (∀ a : BitVec 6, Due (.ret h a) s → Acts h (.ret h a) s →
      let p := atIssue (.ret h a) s
      exec (.ret h a) s = .next (issued (.ret h a) (p.modSca fun c => { c with
        taken := some ((p.core.src .s0 false a).toNat % 2 ^ 56 / 32 * 32) })))

/-- R107, R108, R110, R111, R113, R254: LOOP, LOOP.SET, SPSET, SLOOP, and the rotation. LOOP with COUNT above 1 counts down and branches; else
it sets COUNT to RELOAD and falls through. LOOP.SET sets COUNT and RELOAD to the word of its source after 1 clk. SPSET sets the stage predicates
and the feed count, before the rotation of its own bundle, in which SP0 becomes whether the feed count is not zero, every other predicate takes
the one below it, and the feed count falls by one if it is not zero. SLOOP waits while its input queue is empty, and counts the clk in
counter 6; a value at the head branches and stays in the queue; a token is popped, sets bit XB of the exit register after 1 clk, and acquires
at sys scope.
Assumption log entries 8, 11, 74 and 94 name the choices of the model it rests on. -/
def Obligations.LoopsAndPredicates : Prop :=
  (∀ (h : Head) (s : State),
    (∀ (lc : BitVec 2) (off : BitVec 24), Due (.loop h lc off) s → Acts h (.loop h lc off) s →
      let p := atIssue (.loop h lc off) s
      let v := (fget 0 p.core.sca.lc lc.toNat).toNat
      let count := v % 2 ^ 32
      let reload := v / 2 ^ 32
      exec (.loop h lc off) s = .next (issued (.loop h lc off) (p.modSca fun c =>
        if 1 < count then
          { c with lc := fset 0 c.lc lc.toNat (BitVec.ofNat 64 (reload * 2 ^ 32 + (count - 1))),
                   taken := some (((p.core.sca.pc : Int) + 32 * off.toInt) % 2 ^ 56).toNat }
        else { c with lc := fset 0 c.lc lc.toNat (BitVec.ofNat 64 (reload * 2 ^ 32 + reload)) }))) ∧
    (∀ (lc : BitVec 2) (a : BitVec 6), Due (.loopSet h lc a) s → Acts h (.loopSet h lc a) s →
      let p := atIssue (.loopSet h lc a) s
      exec (.loopSet h lc a) s = .next (issued (.loopSet h lc a)
        (p.putEff h.sq 1 (.lcSet lc.toNat (BitVec.ofNat 32 (p.core.src .s0 false a).toNat))))) ∧
    (∀ (mask : BitVec 8) (a : BitVec 6), Due (.spset h mask a) s → Acts h (.spset h mask a) s →
      let p := atIssue (.spset h mask a) s
      exec (.spset h mask a) s = .next (issued (.spset h mask a) (p.modSca fun c => { c with
        spNext := some (BitVec.ofNat 40 ((p.core.src .s0 false a).toNat % 2 ^ 32 * 2 ^ 8 + mask.toNat)) })))) ∧
  (∀ (h : Head) (iq : BitVec 2) (xg : BitVec 5) (xb : BitVec 6) (off : BitVec 14) (s : State),
    Due (.sloop h iq xg xb off) s → Acts h (.sloop h iq xg xb off) s →
    let i := Instr.sloop h iq xg xb off
    let p := atIssue i s
    (fget [] p.core.eng.iq iq.toNat = [] → exec i s = .next (stalled [6] s)) ∧
    (∀ (v : BitVec 63) (rest : List QVal), fget [] p.core.eng.iq iq.toNat = .value v :: rest →
      exec i s = .next (issued i (p.modSca fun c => { c with
        taken := some (((p.core.sca.pc : Int) + 32 * off.toInt) % 2 ^ 56).toNat }))) ∧
    (∀ rest : List QVal, fget [] p.core.eng.iq iq.toNat = .eos :: rest →
      exec i s = .next (issued i ((((p.modEng fun e => { e with iq := fset [] e.iq iq.toNat rest }).land .s0 h xg false
        (p.core.greg xg.toNat ||| BitVec.ofNat 64 (2 ^ xb.toNat)) 1)).enqPlain false h false (.acqTok 3 none))))) ∧
  (∀ (wr : Nat → Double → State → State) (b : Bundle) (u : State), u.core.sca.late = [] → u.core.sca.tretNow = false →
    let sp := (match u.core.sca.spNext with | some x => x | none => u.core.sca.spst)
    let t := (endBundle wr b u).core.sca.spst
    (b.srot = false → t = sp) ∧
    (b.srot = true →
      (∀ k : Nat, 0 < k → k < 8 → t.getLsbD k = sp.getLsbD (k - 1)) ∧ t.getLsbD 0 = decide (sp.toNat / 2 ^ 8 ≠ 0) ∧
        t.toNat / 2 ^ 8 = sp.toNat / 2 ^ 8 - 1))

/-! ### Scalar memory access -/

/-- R124, R127, R125, R119: the loads. The effective address is the base, or base plus offset where the base is not updated. A
misaligned one traps ALIGN at once. An aligned one stalls while the micro-TLB lacks its page or the load queue is full (counter 4).
Else a translation fault traps; and a translated load updates its base after 1 clk where PI is 1 and joins the load queue. A load
from a cell page also acquires at pkg scope (R150) and holds the next bundle (R321).
That tokens take none of the 64 entries of a queue is the model's choice (log entry 10).
Assumption log entries 10, 12, 47 and 75 name the choices of the model it rests on. -/
def Obligations.LoadIssue : Prop :=
  ∀ (h : Head) (o : LoadOps) (s : State) (x : Instr × Nat × Bool),
    x ∈ ([(.ldb h o, 1, true), (.ldbu h o, 1, false), (.ldh h o, 2, true), (.ldhu h o, 2, false), (.ldw h o, 4, true),
          (.ldwu h o, 4, false), (.ldd h o, 8, false)] : List (Instr × Nat × Bool)) →
    Due x.1 s → Acts h x.1 s →
    let p := atIssue x.1 s
    let a := p.core.src .s1 false o.srcA
    let ea := (if o.pi then a else a + o.ofs.signExtend 64).toNat
    let q := if o.pi then p.putEff h.sq 1 (.base (o.srcA.setWidth 5) (a + o.ofs.signExtend 64)) else p
    (ea % x.2.1 ≠ 0 → exec x.1 s = .next (trapped s
      { cause := 2, slot := 1, gmask := 0, reason := 0, tl := 0, eng := 0, tlnum := 0, tstat := ea })) ∧
    (ea % x.2.1 = 0 → tlbWait ea p ≠ .go ∨ 64 ≤ qCount (atWait x.1 s).core.lsu.loadQ →
      ∃ k, (∀ n ∈ k, n = 4) ∧ k ≠ [] ∧ exec x.1 s = .next (stalled k s)) ∧
    (ea % x.2.1 = 0 → tlbWait ea p = .go → qCount (atWait x.1 s).core.lsu.loadQ < 64 →
      (∀ e, translate p p.root .load x.2.1 ea = .error e → exec x.1 s = .next (trapped s (xerrCause e 1 ea))) ∧
      (∀ t, translate p p.root .load x.2.1 ea = .ok t →
        let u := q.enqResult false .s1 h o.dst o.wbs (p.far t.pa)
          (.load ea t.pa x.2.1 x.2.2 t.cell t.dev (!cacheable t.dev t.nc t.cell t.pa))
        exec x.1 s = .next (issued x.1 (if t.cell then
          (u.enqPlain false h false (.acqTok 2 (some q.core.sca.seq))).modSca fun c => { c with cellStall := some q.core.sca.seq } else u))))

/-- R124, R127, R125, R119: the stores, likewise: the data is source B as read at issue, and the entry joins the store queue.
That tokens take none of the 64 entries of a queue is the model's choice (log entry 10).
Assumption log entries 10 and 47 name the choices of the model it rests on. -/
def Obligations.StoreIssue : Prop :=
  ∀ (h : Head) (o : StoreOps) (s : State) (x : Instr × Nat),
    x ∈ ([(.stb h o, 1), (.sth h o, 2), (.stw h o, 4), (.std h o, 8)] : List (Instr × Nat)) →
    Due x.1 s → Acts h x.1 s →
    let p := atIssue x.1 s
    let a := p.core.src .s1 false o.srcA
    let ea := (if o.pi then a else a + o.ofs.signExtend 64).toNat
    let q := if o.pi then p.putEff h.sq 1 (.base (o.srcA.setWidth 5) (a + o.ofs.signExtend 64)) else p
    (ea % x.2 ≠ 0 → exec x.1 s = .next (trapped s
      { cause := 2, slot := 1, gmask := 0, reason := 0, tl := 0, eng := 0, tlnum := 0, tstat := ea })) ∧
    (ea % x.2 = 0 → tlbWait ea p ≠ .go ∨ 64 ≤ qCount (atWait x.1 s).core.lsu.storeQ →
      ∃ k, (∀ n ∈ k, n = 4) ∧ k ≠ [] ∧ exec x.1 s = .next (stalled k s)) ∧
    (ea % x.2 = 0 → tlbWait ea p = .go → qCount (atWait x.1 s).core.lsu.storeQ < 64 →
      (∀ e, translate p p.root .store x.2 ea = .error e → exec x.1 s = .next (trapped s (xerrCause e 1 ea))) ∧
      (∀ t, translate p p.root .store x.2 ea = .ok t →
        exec x.1 s = .next (issued x.1
          (q.enqPlain true h (p.far t.pa) (.store ea t.pa x.2 (p.core.src .s1 true o.srcB) t.dev)))))

/-- R128, R129, R144: the atomics. They join the store queue, with a release token before where ORD asks for one and an acquire
token in the load queue after. ACAS's expected value is its destination register at issue, 0 with WBS.
That tokens take none of the 64 entries of a queue is the model's choice (log entry 10).
Assumption log entries 10 and 11 name the choices of the model it rests on. -/
def Obligations.AtomicIssue : Prop :=
  ∀ (h : Head) (o : AtomOps) (s : State) (x : Instr × Nat),
    x ∈ ([(.aadd h o, 0), (.amin h o, 1), (.aminu h o, 2), (.amax h o, 3), (.amaxu h o, 4), (.aand h o, 5), (.aor h o, 6),
          (.axor h o, 7), (.aswap h o, 8), (.acas h o, 9)] : List (Instr × Nat)) →
    Due x.1 s → Acts h x.1 s →
    let p := atIssue x.1 s
    let ea := (p.core.src .s1 false o.srcA).toNat
    let size := if o.sz then 8 else 4
    (ea % size ≠ 0 → exec x.1 s = .next (trapped s
      { cause := 2, slot := 1, gmask := 0, reason := 0, tl := 0, eng := 0, tlnum := 0, tstat := ea })) ∧
    (ea % size = 0 → tlbWait ea p = .go → qCount (atWait x.1 s).core.lsu.storeQ < 64 →
      (∀ e, translate p p.root .atomic size ea = .error e → exec x.1 s = .next (trapped s (xerrCause e 1 ea))) ∧
      (∀ t, translate p p.root .atomic size ea = .ok t →
        let expect : Double := if o.wbs then 0 else p.core.greg o.dst.toNat
        let q := if o.ord.getLsbD 1 then p.enqPlain true h false (.relTok o.scp) else p
        let u := q.enqResult true .s1 h o.dst o.wbs (p.far t.pa)
          (.atomic (BitVec.ofNat 4 x.2) ea t.pa o.sz (p.core.src .s1 true o.srcB) expect o.ord o.scp)
        exec x.1 s = .next (issued x.1
          (if o.ord.getLsbD 0 then u.enqPlain false h false (.acqTok o.scp (some q.core.sca.seq)) else u))))

/-- R132, R143, R146, R147, R277, R288: what RINV, FENCE, QALIGN, TLREAD, PCNT, TAGGET and TAGSET put into the queues. A FENCE.ar and
a QALIGN put one token of one identity into each queue. PCNT checks its offset first: 16-byte alignment, the array's end, the
carve-out, in this order.
That tokens take none of the 64 entries of a queue is the model's choice (log entry 10).
Assumption log entries 10 and 11 name the choices of the model it rests on. -/
def Obligations.QueueInstructionIssue : Prop :=
  ∀ (h : Head) (s : State),
    (∀ a b : BitVec 6, Due (.rinv h a b) s → Acts h (.rinv h a b) s → let p := atIssue (.rinv h a b) s
      qCount (atWait (.rinv h a b) s).core.lsu.loadQ < 64 → exec (.rinv h a b) s = .next (issued (.rinv h a b)
        (p.enqPlain false h false (.rinv (p.core.src .s1 false a).toNat (p.core.src .s1 true b).toNat)))) ∧
    (∀ scp : BitVec 2, Due (.fence h 1 scp) s → Acts h (.fence h 1 scp) s →
      exec (.fence h 1 scp) s = .next (issued (.fence h 1 scp) ((atIssue (.fence h 1 scp) s).enqPlain false h false (.acqTok scp none)))) ∧
    (∀ scp : BitVec 2, Due (.fence h 2 scp) s → Acts h (.fence h 2 scp) s →
      exec (.fence h 2 scp) s = .next (issued (.fence h 2 scp) ((atIssue (.fence h 2 scp) s).enqPlain true h false (.relTok scp)))) ∧
    (∀ x ∈ ([(.qalign h, fun st => .alignTok st)] ++ [0, 1, 2, 3].map (fun scp => (.fence h 3 scp, fun st => .arTok st scp)) :
        List (Instr × (Bool → QOp))), Due x.1 s → Acts h x.1 s →
      let p := atIssue x.1 s
      let e (st : Bool) : QEntry := { id := p.core.sca.seq, op := x.2 st, res := false, chain := .s1, wbs := true, dst := 0, sq := h.sq,
                                      tbun := p.core.sca.pc, slot := 1, dead := false, far := false, bank := none, since := 0 }
      exec x.1 s = .next (issued x.1 ((p.modLsu fun l => { l with loadQ := l.loadQ ++ [e false], storeQ := l.storeQ ++ [e true] }).modSca
        fun c => { c with seq := c.seq + 1 }))) ∧
    (∀ (dst : BitVec 5) (wbs : Bool) (tl : BitVec 3), Due (.tlread h dst wbs tl) s → Acts h (.tlread h dst wbs tl) s →
      let p := atIssue (.tlread h dst wbs tl) s
      qCount (atWait (.tlread h dst wbs tl) s).core.lsu.loadQ < 64 → exec (.tlread h dst wbs tl) s = .next (issued (.tlread h dst wbs tl)
        (p.enqResult false .s1 h dst wbs false (.tlread tl.toNat)))) ∧
    (∀ (sl : SSlot) (dst : BitVec 5) (wbs : Bool) (a : BitVec 6), Due (.pcnt sl h dst wbs a) s → Acts h (.pcnt sl h dst wbs a) s →
      let p := atIssue (.pcnt sl h dst wbs a) s
      let off := (p.core.src sl false a).toNat % 2 ^ 32
      let cause (c reason tstat : Nat) : CauseInfo := { cause := c, slot := sl.pos.idx, gmask := 0, reason := reason, tl := 0, eng := 0, tlnum := 0, tstat := tstat }
      qCount (atWait (.pcnt sl h dst wbs a) s).core.lsu.loadQ < 64 → exec (.pcnt sl h dst wbs a) s = .next (
        if off % 16 ≠ 0 then trapped s (cause 2 0 off)
        else if 0x30_0000 ≤ off then trapped s (cause 3 7 (0xFF_FFFF_FFC0_0000 + off))
        else if p.core.carved off then trapped s (cause 3 4 (0xFF_FFFF_FFC0_0000 + off))
        else issued (.pcnt sl h dst wbs a) ((p.enqResult false sl h dst wbs false (.pcnt (arrayBase p.no + off))).enqPlain false h false
          (.acqTok 3 (some p.core.sca.seq))))) ∧
    (∀ (dst : BitVec 5) (wbs : Bool) (a : BitVec 6), Due (.tagget h dst wbs a) s → Acts h (.tagget h dst wbs a) s →
      let p := atIssue (.tagget h dst wbs a) s
      let ea := (p.core.src .s1 false a).toNat
      tlbWait ea p = .go → qCount (atWait (.tagget h dst wbs a) s).core.lsu.loadQ < 64 →
      (∀ e, translate p p.root .load 1 ea = .error e → exec (.tagget h dst wbs a) s = .next (trapped s (xerrCause e 1 ea))) ∧
      (∀ t, translate p p.root .load 1 ea = .ok t → exec (.tagget h dst wbs a) s = .next (issued (.tagget h dst wbs a)
        (p.enqResult false .s1 h dst wbs (p.far t.pa) (.tagget ea t.pa))))) ∧
    (∀ a b : BitVec 6, Due (.tagset h a b) s → Acts h (.tagset h a b) s →
      let p := atIssue (.tagset h a b) s
      let ea := (p.core.src .s1 false a).toNat
      tlbWait ea p = .go → qCount (atWait (.tagset h a b) s).core.lsu.storeQ < 64 →
      (∀ e, translate p p.root .store 1 ea = .error e → exec (.tagset h a b) s = .next (trapped s (xerrCause e 1 ea))) ∧
      (∀ t, translate p p.root .store 1 ea = .ok t → exec (.tagset h a b) s = .next (issued (.tagset h a b)
        (p.enqPlain true h (p.far t.pa) (.tagset ea t.pa ((p.core.src .s1 true b).setWidth 16))))))

/-- R138, R140, R124, R129, R288: ACCESS_PERFORMED. A store writes the low bytes of its data, little-endian, at its physical address. An atomic
reads its location, stores the value of R129, and lands the old value, a word sign-extended. Of a load the bytes read land as the result,
sign-extended for the signed forms; TAGGET lands the tag, zero-extended, host memory having the tag 0; TAGSET writes the tag of its 2 KiB slot.
Every byte of memory outside those written reads as before, and no register but the destination changes. While a step is replayed by the assay a
load's result waits behind what was in flight at the stop (R218).
Assumption log entries 15 and 16 name the choices of the model it rests on. -/
def Obligations.AccessPerformed : Prop :=
  (∀ (id : Nat) (e : QEntry) (s : State), stopped s = false → s.core.lsu.outst.find? (fun x => x.id == id) = some e →
    mayPerform e s.core.lsu.outst = true →
    (∀ (va pa size : Nat) (data : Double) (dev : Bool), e.op = .store va pa size data dev → peerLost s.pkg pa = false →
      s.outside va pa = false → (∀ off, regionOf pa ≠ .device off) →
      ∃ t, exec (.accessPerformed id) s = .next t ∧
        (∀ k, k < size → (readByte t.pkg (pa + k)).toNat = data.toNat / 2 ^ (8 * k) % 256) ∧
        (∀ a, a < pa ∨ pa + size ≤ a → readByte t.pkg a = readByte s.pkg a) ∧
        t.core.lsu.outst = s.core.lsu.outst.filter (fun x => x.id ≠ id) ∧
        t.core.lsu.acks = s.core.lsu.acks ++ (if e.far then [id] else []) ∧
        t.core.sca = s.core.sca ∧ t.core.vec = s.core.vec ∧ t.core.tab = s.core.tab ∧ t.core.trp = s.core.trp ∧ t.others = s.others) ∧
    (∀ (op : BitVec 4) (va pa : Nat) (dbl : Bool) (b x : Double) (ord scp : BitVec 2), e.op = .atomic op va pa dbl b x ord scp →
      op.toNat ≤ 9 → peerLost s.pkg pa = false → s.outside va pa = false → badData s.pkg pa (if dbl then 8 else 4) = false →
      e.res = true → e.dead = false → e.bank = none → s.core.trp.assay = none →
      ∃ t, exec (.accessPerformed id) s = .next t ∧
        (let n := if dbl then 64 else 32
         let m := readNat s.pkg pa (n / 8)
         let mS := (BitVec.ofNat n m).toInt
         let bU := b.toNat % 2 ^ n
         let bS := (BitVec.ofNat n b.toNat).toInt
         let new : Nat :=
           if op = 0 then (m + bU) % 2 ^ n else if op = 1 then (if mS ≤ bS then m else bU) else if op = 2 then min m bU
           else if op = 3 then (if mS ≤ bS then bU else m) else if op = 4 then max m bU else if op = 5 then m &&& bU
           else if op = 6 then m ||| bU else if op = 7 then m ^^^ bU else if op = 8 then bU
           else if m = x.toNat % 2 ^ n then bU else m
         (readNat t.pkg pa (n / 8) = new) ∧ (∀ a, a < pa ∨ pa + n / 8 ≤ a → readByte t.pkg a = readByte s.pkg a) ∧
         t.core.sca = { s.core.sca with inflight := insPending (returned s e ((BitVec.ofNat n m).signExtend 64)) s.core.sca.inflight } ∧
         t.core.vec = s.core.vec ∧ t.core.tab = s.core.tab ∧ t.core.trp = s.core.trp ∧ t.others = s.others))) ∧
  (∀ (id : Nat) (e : QEntry) (s : State), stopped s = false → s.core.lsu.outst.find? (fun x => x.id == id) = some e →
    mayPerform e s.core.lsu.outst = true →
    let lands (v : Double) : List Pending := insPending (returned s e v) s.core.sca.inflight
    (∀ (va pa size : Nat) (signed dev nc : Bool), e.op = .load va pa size signed false dev nc → peerLost s.pkg pa = false →
      badData s.pkg pa size = false → (∀ off, regionOf pa ≠ .device off) → e.res = true → e.dead = false → e.bank = none →
      let v : Double := if signed then (BitVec.ofNat (8 * size) (readNat s.pkg pa size)).signExtend 64
          else BitVec.ofNat 64 (readNat s.pkg pa size)
      ∃ t, exec (.accessPerformed id) s = .next t ∧
        (s.core.trp.assay = none → t.core.sca = { s.core.sca with inflight := lands v } ∧ t.core.trp = s.core.trp) ∧
        (s.core.trp.assay ≠ none → t.core.sca = s.core.sca ∧
          t.core.trp = { s.core.trp with assayRecs := s.core.trp.assayRecs ++ [{ returned s e v with due := 0 }] }) ∧
        t.pkg.mem = s.pkg.mem ∧ t.pkg.tags = s.pkg.tags ∧ t.core.vec = s.core.vec ∧ t.others = s.others) ∧
    (∀ va pa : Nat, e.op = .tagget va pa → peerLost s.pkg pa = false → badTag s.pkg pa = false →
      e.res = true → e.dead = false → e.bank = none → s.core.trp.assay = none →
      ∃ t, exec (.accessPerformed id) s = .next t ∧
        t.core.sca = { s.core.sca with inflight := lands (if 0xA_0000_0000_0000 ≤ pa ∧ pa < 0xB_0000_0000_0000 then 0
          else (tagAt s.pkg pa).setWidth 64) } ∧
        t.pkg = s.pkg ∧ t.core.vec = s.core.vec ∧ t.others = s.others) ∧
    (∀ (va pa : Nat) (v : Half), e.op = .tagset va pa v → peerLost s.pkg pa = false → s.outside va pa = false →
      ∃ t, exec (.accessPerformed id) s = .next t ∧
        (∀ a, tagAt t.pkg a = if a / 2048 = pa / 2048 ∧ ¬(0xA_0000_0000_0000 ≤ pa ∧ pa < 0xB_0000_0000_0000) then v else tagAt s.pkg a) ∧
        t.pkg.mem = s.pkg.mem ∧ t.core.sca = s.core.sca ∧ t.core.vec = s.core.vec ∧ t.others = s.others))

/-! ### Translation -/

/-- R114, R115, R117, R118, R120, R122, R369: the walk and Translate. A walk reads one entry at each of the five levels, whose index bits and
number R117 gives, as long as each is a valid pointer; at the first that is not it gives MEMUE where that entry cannot be read, NOMAP where its V is 0, BADPTE
where it holds a reserved bit, a leaf at level 0 or 1, a misaligned PA or a pointer at level 4, and else that leaf. Translate gives the
first of the reasons that apply, in the order of R120: NOPHYS for the reserved virtual range, what the walk gives, NOPHYS for a reserved physical
range or an unrouted peer, CARVED, CMPLOAD, NOATOM, DEVSIZE, NOCELL, NOREAD, NOWRITE, EXECPAGE; else the page's address plus the offset
in it, with the page's own NC, DEV, CELL, CMP and PIN. The local window is the core's own array, untranslated, where its byte is not carved.
Assumption log entries 80, 82 and 83 name the choices of the model it rests on. -/
def Obligations.Translation : Prop :=
  (∀ (p : Pkg) (root v k : Nat) (t : Nat → Nat), k < 5 → t 0 = root →
    let shift (i : Nat) : Nat := nth [48, 39, 30, 21, 16] i
    let ea (i : Nat) : Nat := t i + 8 * (v / 2 ^ shift i % 2 ^ nth [8, 9, 9, 9, 5] i)
    let e (i : Nat) : Nat := readNat p (ea i) 8
    let reserved (x : Nat) : Prop := x / 2 ^ 52 ≠ 0 ∨ x / 2 ^ 5 % 2 ^ 2 ≠ 0
    (∀ i, i < k → badData p (ea i) 8 = false ∧ e i % 4 = 1 ∧ ¬reserved (e i) ∧ t (i + 1) = e i / 2 ^ 12 % 2 ^ 40 * 2 ^ 12) →
    (badData p (ea k) 8 = true → walk p (some root) v = .error .memue) ∧
    (badData p (ea k) 8 = false →
      (e k % 2 = 0 → walk p (some root) v = .error (.xlate 0)) ∧
      (e k % 2 = 1 → reserved (e k) ∨ (e k % 4 = 3 ∧ (k < 2 ∨ e k / 2 ^ 12 % 2 ^ (shift k - 12) ≠ 0)) ∨ (e k % 4 = 1 ∧ k = 4) →
        walk p (some root) v = .error (.xlate 8)) ∧
      (e k % 4 = 3 → ¬reserved (e k) → 2 ≤ k → e k / 2 ^ 12 % 2 ^ (shift k - 12) = 0 →
        walk p (some root) v = .ok { pte := e k, shift := shift k, addr := ea k }))) ∧
  (∀ (p : Pkg) (v : Nat), walk p none v = .error (.xlate 0)) ∧
  (∀ (s : State) (root : Option Nat) (k : Acc) (sz a : Nat),
    let v := a % 2 ^ 56
    (0xFF_FFFF_FFF0_0000 ≤ v → translate s root k sz a = .error (.xlate 7)) ∧
    (0xFF_FFFF_FFC0_0000 ≤ v → v < 0xFF_FFFF_FFF0_0000 →
      let o := v - 0xFF_FFFF_FFC0_0000
      translate s root k sz a =
        if s.core.carved o then .error (.xlate 4) else if k = .cellOp ∨ k = .cellRd then .error (.xlate 9)
        else .ok { pa := 0x8_0000_0000_0000 + s.no * 0x40_0000 + o, nc := true, dev := false, cell := false, cmp := false, pin := false }) ∧
    (v < 0xFF_FFFF_FFC0_0000 →
      (∀ e, walk s.pkg root v = .error e → translate s root k sz a = .error e) ∧
      (∀ l, walk s.pkg root v = .ok l →
        let pa := l.pte / 2 ^ 12 % 2 ^ 40 * 2 ^ 12 + v % 2 ^ l.shift
        let flag (i : Nat) : Bool := l.pte.testBit i
        let reads : Bool := k == .load || k == .atomic || k == .cellRd
        let writes : Bool := k == .store || k == .atomic
        let reasons : List (Bool × XErr) :=
          [(decide (regionOf pa = .reserved) || (match regionOf pa with | .peer slot _ => !(fget 0 s.pkg.mgmt.peertab slot).getLsbD 15 | _ => false), .xlate 7),
           ((match regionOf pa with | .array n o => (s.coreAt n).carved o | _ => false), .xlate 4),
           (flag 8 && k != .fetch, .cmpload),
           (k == .atomic && (flag 9 || flag 7 || (match regionOf pa with | .host _ => true | _ => false)), .xlate 5),
           (flag 9 && decide (sz < 4) && (k == .load || writes), .xlate 6),
           ((k == .cellOp || k == .cellRd) && !flag 7, .xlate 9),
           (reads && !flag 2, .xlate 1), ((writes || k == .cellOp) && !flag 3, .xlate 2), (writes && flag 4, .xlate 3)]
        translate s root k sz a = match reasons.find? Prod.fst with
          | some x => .error x.2
          | none => .ok { pa := routed s.pkg pa, nc := flag 10, dev := flag 9, cell := flag 7, cmp := flag 8, pin := flag 11 })))

/-- R376, R403, R364, R405: what MAP, UNMAP and LOAD leave mapped. Where the entries a walk to the range reads lie apart from each other and from the
memory the controllers will take for new tables, and no entry fails ECC: MAP of a whole leaf makes every address in it translate to the physical
address at the same offset, with the bits asked for; UNMAP of a whole leaf leaves NOMAP for every address in it; and LOAD of an object of one page of code
alone, into a job that maps nothing yet, maps that page scanned-executable and readable but not writable, with the code's bytes in it.
Assumption log entries 58, 61 and 63 name the choices of the model it rests on. -/
def Obligations.MappedPages : Prop :=
  ∀ s : State, s.pkg.env.badLines = [] →
    (∀ root k, Asked 0x04 s → jobRoot s.pkg (s.mbArg 1) = some root → k ∈ [16, 21, 30] → s.mbArg 4 = 2 ^ k → s.mbArg 2 % 2 ^ k = 0 →
      s.mbArg 3 % 2 ^ k = 0 → s.mbArg 2 + 2 ^ k ≤ 0xFF_FFFF_FFC0_0000 → paRangeOk (s.mbArg 3) (2 ^ k) = true → pteBitsOk (s.mbArg 5) = true →
      rangeMapped s.pkg root (s.mbArg 2) (2 ^ k) = false → walk s.pkg (some root) (s.mbArg 2) = .error (.xlate 0) →
      ApartOnWalk s.pkg root (s.mbArg 2) → WalkBelow s.pkg root (s.mbArg 2) (2 ^ 15) →
      ∃ t, exec .map s = .next t ∧ Answered s t 0 [] ∧ ∀ a, s.mbArg 2 ≤ a → a < s.mbArg 2 + 2 ^ k →
        (∃ l, walk t.pkg (some root) a = .ok l ∧ l.shift = k ∧ l.pte / 2 ^ 12 % 2 ^ 40 * 2 ^ 12 + a % 2 ^ k = s.mbArg 3 + (a - s.mbArg 2) ∧
          l.pte % 2 ^ 12 = s.mbArg 5 / 2 ^ 2 % 2 ^ 10 * 2 ^ 2 + 3) ∧
        (s.mbArg 3 + 2 ^ k ≤ hbmEnd → (s.mbArg 5).testBit 2 = true → (s.mbArg 5).testBit 8 = false →
          let flag (i : Nat) : Bool := (s.mbArg 5).testBit i
          translate t (some root) .load 8 a =
            .ok { pa := s.mbArg 3 + (a - s.mbArg 2), nc := flag 10, dev := flag 9, cell := flag 7, cmp := false, pin := flag 11 })) ∧
    (∀ root l, Asked 0x05 s → jobRoot s.pkg (s.mbArg 1) = some root → walk s.pkg (some root) (s.mbArg 2) = .ok l → s.mbArg 3 = 2 ^ l.shift →
      s.mbArg 2 % 2 ^ l.shift = 0 → s.mbArg 2 + 2 ^ l.shift ≤ 0xFF_FFFF_FFC0_0000 → l.pte.testBit 11 = false →
      ApartOnWalk s.pkg root (s.mbArg 2) → s.jobCores (s.mbArg 1) = [] →
      ∃ t, exec .unmap s = .next t ∧ Answered s t 0 [] ∧ ∀ a, s.mbArg 2 ≤ a → a < s.mbArg 2 + 2 ^ l.shift →
        walk t.pkg (some root) a = .error (.xlate 0)) ∧
    (∀ j : Job, Asked 0x06 s → s.mbArg 2 + s.mbArg 3 ≤ hbmEnd → jobAt s.pkg (s.mbArg 1) = some j →
      let img := readBytes s.pkg (s.mbArg 2) (s.mbArg 3)
      let code := sectBytes img 1
      (loadObject (s.mbArg 1) j img s).2.status = 0 → 0 < code.length → code.length ≤ 2 ^ 16 →
      (∀ k ∈ [3, 4, 5, 6, 7], sectBytes img k = []) → sectList img 2 = [] →
      (∀ i, i < 2 ^ 11 → readByte s.pkg (j.xroot + i) = 0) → j.xroot + 2 ^ 18 ≤ s.pkg.mgmt.cursor → s.pkg.mgmt.cursor ≤ hbmEnd →
      s.pkg.mgmt.loadVa % 2 ^ 16 = 0 → s.pkg.mgmt.mbaddr + 2 ^ 18 ≤ s.pkg.mgmt.cursor →
      (s.pkg.mgmt.mbaddr + 168 ≤ j.xroot ∨ j.xroot + 2 ^ 11 ≤ s.pkg.mgmt.mbaddr + 128) →
      ∃ t o, exec .load s = .next t ∧ o ∈ t.pkg.objs ∧ o.job = s.mbArg 1 ∧ o.codeLen = code.length ∧ o.ranges = [(o.code, 2 ^ 16)] ∧
        ∀ i, i < code.length → ∃ l, walk t.pkg (some j.xroot) (o.code + i) = .ok l ∧ l.pte.testBit 4 = true ∧ l.pte.testBit 2 = true ∧
          l.pte.testBit 3 = false ∧
          readByte t.pkg (l.pte / 2 ^ 12 % 2 ^ 40 * 2 ^ 12 + (o.code + i) % 2 ^ l.shift) = code.getD i 0)

/-! ### Waits, the carve-out, table state and the shift change -/

/-- R147, R272, R277, R278, R353: TLWAIT issues once its timeline counter has reached the wanted value and stalls until then (counter 7). PWAIT
checks its offset as PCNT does, then that its counter word passes ECC, else MEMUE; it stalls while a collective has yet to write its counter
words, or while the word's CNT is below the threshold and neither FROZEN nor DONE is set (17 names that stall, in which causes are taken and which no
counter but counter 3 counts); then it issues, and acquires at sys scope. With a false guard neither waits, reads or faults: both issue at once. -/
def Obligations.TimelineAndPrecisionWait : Prop :=
  ∀ (h : Head) (s : State),
    (∀ (tl : BitVec 3) (a : BitVec 6), Due (.tlwait h tl a) s → Acts h (.tlwait h tl a) s →
      let p := atIssue (.tlwait h tl a) s
      ((p.core.src .s1 false a).toNat ≤ fget 0 p.core.eng.tl tl.toNat → exec (.tlwait h tl a) s = .next (issued (.tlwait h tl a) p)) ∧
      (fget 0 p.core.eng.tl tl.toNat < (p.core.src .s1 false a).toNat → exec (.tlwait h tl a) s = .next (stalled [7] s))) ∧
    (∀ (tl : BitVec 3) (a b : BitVec 6), ∀ i ∈ [Instr.tlwait h tl a, .pwait h a b], Due i s → guardOf h (atIssue i s).core = false →
      exec i s = .next (issued i (atIssue i s))) ∧
    (∀ a b : BitVec 6, Due (.pwait h a b) s → Acts h (.pwait h a b) s →
      let p := atIssue (.pwait h a b) s
      let off := (p.core.src .s0 false a).toNat % 2 ^ 32
      let w := readNat p.pkg (arrayBase p.no + off) 8
      let there := (p.core.src .s0 true b).toNat % 256 ≤ w % 256 ∨ w / 256 % 4 ≠ 0
      let cause (c reason tstat : Nat) : CauseInfo :=
        { cause := c, slot := 0, gmask := 0, reason := reason, tl := 0, eng := 0, tlnum := 0, tstat := tstat }
      (off % 16 ≠ 0 → exec (.pwait h a b) s = .next (trapped s (cause 2 0 off))) ∧
      (off % 16 = 0 → 0x30_0000 ≤ off → exec (.pwait h a b) s = .next (trapped s (cause 3 7 (0xFF_FFFF_FFC0_0000 + off)))) ∧
      (off % 16 = 0 → off < 0x30_0000 → p.core.carved off = true →
        exec (.pwait h a b) s = .next (trapped s (cause 3 4 (0xFF_FFFF_FFC0_0000 + off)))) ∧
      (off % 16 = 0 → off < 0x30_0000 → p.core.carved off = false →
        (badData p.pkg (arrayBase p.no + off) 8 = true →
          exec (.pwait h a b) s = .next (trapped s (cause 5 0 (0xFF_FFFF_FFC0_0000 + off)))) ∧
        (badData p.pkg (arrayBase p.no + off) 8 = false →
          (p.core.eng.cmds.any Cmd.counting = true ∨ ¬ there → exec (.pwait h a b) s = .next (stalled [17] s)) ∧
          (p.core.eng.cmds.any Cmd.counting = false → there →
            exec (.pwait h a b) s = .next (issued (.pwait h a b) (p.enqPlain false h false (.acqTok 3 none)))))))

/-- R133 to R136: PHASE takes its number from bits 63:48, ends the adaptive mode and moves the carve-out to the size code in bits 2:0,
at most 4; CARVE sets the bounds, the two thresholds and ADAPT. A move that starts lasts 640 clk a step; one asked for during another
waits and starts at its end, the last one asked for. CARVE_MOVE_END: the lines of the banks that left the cache hold zeros, are empty
and have tag 0; no other byte, bit or tag changes. ADAPTIVE_INTERVAL_END: of n sampled loads, a size below MINC grows a step and one above MAXC shrinks
a step; between them it grows a step where the loads that one step more of cache would have hit reach GROW/256 of n and it is below MAXC, else shrinks a step where those
that hit the last step stay below SHRINK/256 of n and it is above MINC, else it stays. The step is a Move: it waits where one drains, and the next interval begins at its end.
Assumption log entries 14 and 79 name the choices of the model it rests on. -/
def Obligations.CarveOutControl : Prop :=
  ∀ s : State,
    (∀ (h : Head) (a : BitVec 6), Due (.phase h a) s → Acts h (.phase h a) s →
      let p := atIssue (.phase h a) s
      let v := (p.core.src .s1 false a).toNat
      let q := p.modLsu fun l => { l with phaseno := BitVec.ofNat 16 (v / 2 ^ 48), adapt := false }
      exec (.phase h a) s = .next (issued (.phase h a) (q.moveTo (min (v % 8) 4)))) ∧
    (∀ (h : Head) (a : BitVec 6), Due (.carve h a) s → Acts h (.carve h a) s →
      let p := atIssue (.carve h a) s
      let v := (p.core.src .s1 false a).toNat
      exec (.carve h a) s = .next (issued (.carve h a) (p.modLsu fun l => { l with
        minc := min (v % 8) 4, maxc := max (min (v / 2 ^ 4 % 8) 4) (min (v % 8) 4), grow := BitVec.ofNat 8 (v / 2 ^ 16),
        shrink := BitVec.ofNat 8 (v / 2 ^ 24), adapt := (BitVec.ofNat 64 v).getLsbD 8, adaptFrom := p.clk }))) ∧
    (∀ c, c ≤ 4 → s.core.lsu.move = none → s.core.lsu.size ≠ c →
      (s.moveTo c).core.lsu.size = c ∧
      (s.moveTo c).core.lsu.move = some
        { fromCode := s.core.lsu.size, toCode := c, fin := s.clk + 640 * (c - s.core.lsu.size) + 640 * (s.core.lsu.size - c) }) ∧
    (∀ (m : Move) (c : Nat), s.core.lsu.move = some m → s.moveTo c = s.modLsu fun l => { l with moveNext := some c }) ∧
    (∀ m : Move, stopped s = false → s.core.lsu.move = some m → m.fin ≤ s.clk →
      let back (a : Nat) : Bool := decide (m.toCode < m.fromCode ∧ arrayBase s.no + (48 - 4 * m.fromCode) * 65536 ≤ a ∧
        a < arrayBase s.no + (48 - 4 * m.toCode) * 65536)
      ∃ t, exec .carveMoveEnd s = .next t ∧ t.core.lsu.moveNext = none ∧ t.core.sca = s.core.sca ∧ t.core.vec = s.core.vec ∧
        (s.core.lsu.moveNext = none → t.core.lsu.move = none ∧ t.core.lsu.size = s.core.lsu.size ∧
          ∀ a, readByte t.pkg a = (if back a then 0 else readByte s.pkg a) ∧ fullAt t.pkg a = (!back a && fullAt s.pkg a) ∧
            tagAt t.pkg a = (if back a then 0 else tagAt s.pkg a)) ∧
        (∀ c, s.core.lsu.moveNext = some c → t.core.lsu.size = c ∧ t.core.lsu.move = (if c = s.core.lsu.size then none else some
          { fromCode := s.core.lsu.size, toCode := c, fin := s.clk + 640 * (c - s.core.lsu.size) + 640 * (s.core.lsu.size - c) }))) ∧
    (∀ n hits0 top0 : Nat, stopped s = false → s.core.lsu.adapt = true → s.core.lsu.adaptFrom + 65536 ≤ s.clk →
      Config.samples s.takeFree.1 = (n, hits0, top0) →
      let l := s.core.lsu
      let more := hits0 % (n + 1)
      let top := top0 % (n + 1)
      let c := if l.size < l.minc then l.size + 1 else if l.maxc < l.size then l.size - 1
        else if l.grow.toNat * n ≤ 256 * more ∧ l.size < l.maxc then l.size + 1
        else if 256 * top < l.shrink.toNat * n ∧ l.minc < l.size then l.size - 1 else l.size
      ∃ t, exec .adaptiveIntervalEnd s = .next t ∧ t.core.lsu.adapt = true ∧ t.core.sca = s.core.sca ∧ t.core.vec = s.core.vec ∧
        (c = l.size → t.core.lsu = { l with adaptFrom := l.adaptFrom + 65536 }) ∧
        (c ≠ l.size → l.move = none → t.core.lsu.size = c ∧ t.core.lsu.adaptFrom = s.clk + 640 ∧
          t.core.lsu.move = some { fromCode := l.size, toCode := c, fin := s.clk + 640 }) ∧
        (∀ m, c ≠ l.size → l.move = some m → t.core.lsu = { l with moveNext := some c, adaptFrom := m.fin + 640 }))

/-- R164 to R168: the shift change. A TSWAP whose shadow side is EMPTY or INVALID raises TABINV precisely. One whose side is FILLING or
VALID arrives at its set and waits, a clk of SWSTALL at a time. A set of which N members have arrived, all VALID, completes and is
closed; a member whose set has completed waits on for the release alone. The release swaps the sides, clears the latches and counts SWCOUNT, and the waiting bundle then issues. A wait of 2^24 clk
that no completion has met is withdrawn and raises SWITCHTO.
Assumption log entries 29 and 96 name the choices of the model it rests on. -/
def Obligations.ShiftChange : Prop :=
  ∀ s : State,
    (∀ (h : Head) (a : BitVec 6), Due (.tswap h a) s →
      let i := Instr.tswap h a
      let w := (atWait i s).core.src .s0 false a
      (Acts h i s → s.core.tab.wait = none → s.core.shst = 0 ∨ s.core.shst = 3 → exec i s = .next (trapped s (tabinv s.core))) ∧
      (Acts h i s → s.core.tab.wait = none → s.core.shst = 1 ∨ s.core.shst = 2 → ∃ t, exec i s = .next t ∧
        (t.coreAt s.no).tab = { s.core.tab with
          wait := some { word := w, since := s.clk, granted := false, grantAt := 0, released := false, withdrawn := false },
          swstall := s.core.tab.swstall + 1 } ∧
        (t.coreAt s.no).sca = s.core.sca ∧ t.pkg.sets = arriveSet s.no s.core.un.job w s.pkg.sets ∧ t.pkg.mem = s.pkg.mem) ∧
      (∀ x, s.core.tab.wait = some x → x.released = true →
        exec i s = .next (issued i (atIssue i s))) ∧
      (∀ x, s.core.tab.wait = some x → x.released = false → x.withdrawn = false → x.granted = true → exec i s = .next (stalled [] s)) ∧
      (∀ x, s.core.tab.wait = some x → x.released = false → x.withdrawn = true → exec i s = .next (trapped s
        { cause := 9, slot := 0, gmask := 0, reason := 0, tl := 0, eng := 0, tlnum := 0, tstat := x.word.toNat }))) ∧
    (∀ (k : Nat) (x : SwSet), stopped s = false → s.pkg.sets[k]? = some x → x.n ≤ x.members.length →
      (∀ m ∈ x.members, (s.coreAt m).shst = 2) → ∃ t, exec (.setComplete k) s = .next t ∧ t.pkg.sets = s.pkg.sets.eraseIdx k ∧
        (∀ m ∈ x.members, (t.coreAt m).tab.wait = (s.coreAt m).tab.wait.map fun w =>
          { w with granted := true, grantAt := s.clk }) ∧
        (∀ m, m ∉ x.members → t.coreAt m = s.coreAt m) ∧ t.pkg.mem = s.pkg.mem) ∧
    (∀ w : SwWait, stopped s = false → s.core.tab.wait = some w → w.granted = true → w.released = false →
      ∃ t, exec .shiftChangeRelease s = .next t ∧ t.core.tab.act = !s.core.tab.act ∧ t.core.tab.bad = false ∧
        t.core.tab.swcount = s.core.tab.swcount + 1 ∧ t.core.tab.ents = s.core.tab.ents ∧ t.core.tab.wait = some { w with released := true } ∧
        (∀ n, t.core.latch n = 0) ∧ t.core.sca.g = s.core.sca.g ∧ t.core.vec = s.core.vec ∧ t.pkg = s.pkg) ∧
    (∀ w : SwWait, stopped s = false → s.core.tab.wait = some w → w.granted = false → w.since + 2 ^ 24 ≤ s.clk →
      ∃ t, exec .switchWithdrawal s = .next t ∧ t.core.tab = { s.core.tab with wait := some { w with withdrawn := true } } ∧
        (∀ x ∈ t.pkg.sets, s.no ∉ x.members) ∧ t.core.sca = s.core.sca ∧ t.pkg.mem = s.pkg.mem)

/-! ### Cells, tasks and dispatch -/

/-- R310, R320, R322 to R326: the cell operations. A cell address that is not a multiple of 64 traps ALIGN, then a record or value
address that is not; then the translation's fault; else a release token of pkg scope and the operation's own entry join the store
queue, FREG's with a result and an acquire of pkg scope after it.
That tokens take none of the 64 entries of a queue is the model's choice (log entry 10).
Assumption log entries 10, 11 and 85 name the choices of the model it rests on. -/
def Obligations.CellOperationIssue : Prop :=
  ∀ (h : Head) (a b : BitVec 6) (tl : BitVec 3) (dst : BitVec 5) (wbs : Bool) (s : State)
    (x : Instr × Acc × Bool × (Nat → Nat → Double → QOp) × Option (BitVec 5 × Bool)),
    x ∈ ([(.cellmk h a b, .cellOp, true, fun ea pa v => .cellmk ea pa v.toNat false, none),
          (.cellmkFut h a, .cellOp, false, fun ea pa _ => .cellmk ea pa 0 true, none),
          (.resolve h a b, .cellOp, true, fun ea pa v => .resolve ea pa v.toNat, none),
          (.resolveOn h a b tl, .cellOp, false, fun ea pa v => .resolveOn ea pa tl.toNat v, none),
          (.specev h a b, .cellOp, false, fun ea pa v => .specev ea pa v, none),
          (.freg h dst wbs a b, .cellRd, true, fun ea pa v => .freg ea pa v.toNat, some (dst, wbs))] :
        List (Instr × Acc × Bool × (Nat → Nat → Double → QOp) × Option (BitVec 5 × Bool))) →
    Due x.1 s → Acts h x.1 s →
    let p := atIssue x.1 s
    let ea := (p.core.src .s1 false a).toNat
    let v := p.core.src .s1 true b
    let align (n : Nat) : CauseInfo := { cause := 2, slot := 1, gmask := 0, reason := 0, tl := 0, eng := 0, tlnum := 0, tstat := n }
    let q := p.enqPlain true h false (.relTok 2)
    (ea % 64 ≠ 0 → exec x.1 s = .next (trapped s (align ea))) ∧
    (ea % 64 = 0 → tlbWait ea p = .go → qCount (atWait x.1 s).core.lsu.storeQ < 64 →
      (x.2.2.1 = true → v.toNat % 64 ≠ 0 → exec x.1 s = .next (trapped s (align v.toNat))) ∧
      (x.2.2.1 = false ∨ v.toNat % 64 = 0 →
        (∀ e, translate p p.root x.2.1 8 ea = .error e → exec x.1 s = .next (trapped s (xerrCause e 1 ea))) ∧
        (∀ t, translate p p.root x.2.1 8 ea = .ok t → exec x.1 s = .next (issued x.1 (match x.2.2.2.2 with
          | none => q.enqPlain true h (p.far t.pa) (x.2.2.2.1 ea t.pa v)
          | some (d, w) => (q.enqResult true .s1 h d w (p.far t.pa) (x.2.2.2.1 ea t.pa v)).enqPlain false h false
              (.acqTok 2 (some q.core.sca.seq)))))))

/-- R294, R296, R310, R311, R317: SPAWN, LAUNCH, CANCEL and DISPATCH join the store queue behind a release of pkg scope; CHUNK, CNTRD and
MLOOK join the load queue, CNTRD with an acquire of pkg scope after it. SPAWN's and LAUNCH's address must be a multiple of 64; DISPATCH's
offset is checked as PCNT's, for 128. R305, R304: SUSPEND and FINISH end the unit's stretch at their bundle: the unit leaves with its operands,
no bundle issues after, and fetch stays where it stands with any redirect discarded (R306).
R305, R306, R316, R331: the turns of a unit that leaves. It waits while a result is in flight, an access not performed or a command not ended; a
report is taken before it goes. Then its core is free. SUSPEND queues the record on the die at its priority, with the new header and ENTRY
and the live words of g1 to g12; in a cancelled launch the unit is counted out instead. FINISH writes its status to the launch, if it is not zero, the
launch is not cancelled and no status was written, and counts the unit out; an evaluation that it has not resolved fails. A kill writes the status 0x8000_0000 and
the cause, counts the unit out, and logs the cause and the trap registers of every level.
That tokens take none of the 64 entries of a queue is the model's choice (log entry 10).
Assumption log entries 10, 11, 42, 53, 85 and 118 name the choices of the model it rests on. -/
def Obligations.TaskInstructionIssue : Prop :=
  (∀ (h : Head) (a b : BitVec 6) (lvl : BitVec 3) (dst : BitVec 5) (wbs : Bool) (s : State),
    (∀ x ∈ ([(.spawn h a b, none), (.launch h dst wbs a, some (dst, wbs))] : List (Instr × Option (BitVec 5 × Bool))),
      Due x.1 s → Acts h x.1 s →
      let p := atIssue x.1 s
      let ea := (p.core.src .s1 false a).toNat
      let q := p.enqPlain true h false (.relTok 2)
      (ea % 64 ≠ 0 → exec x.1 s = .next (trapped s
        { cause := 2, slot := 1, gmask := 0, reason := 0, tl := 0, eng := 0, tlnum := 0, tstat := ea })) ∧
      (ea % 64 = 0 → qCount (atWait x.1 s).core.lsu.storeQ < 64 → exec x.1 s = .next (issued x.1 (match x.2 with
        | none => q.enqPlain true h false (.spawn ea (p.core.src .s1 true b))
        | some (d, w) => q.enqResult true .s1 h d w false (.launch ea))))) ∧
    (∀ x ∈ ([(.chunk h dst wbs, fun _ => .chunk, false), (.cntrd h dst wbs a lvl, fun v => .cntrd v lvl.toNat, true),
          (.mlook h dst wbs a, fun v => .mlook v, false)] : List (Instr × (Double → QOp) × Bool)),
      Due x.1 s → Acts h x.1 s → qCount (atWait x.1 s).core.lsu.loadQ < 64 →
      let p := atIssue x.1 s
      let u := p.enqResult false .s1 h dst wbs false (x.2.1 (p.core.src .s1 false a))
      exec x.1 s = .next (issued x.1 (if x.2.2 then u.enqPlain false h false (.acqTok 2 (some p.core.sca.seq)) else u))) ∧
    (Due (.cancel h a lvl) s → Acts h (.cancel h a lvl) s →
      let p := atIssue (.cancel h a lvl) s
      qCount (atWait (.cancel h a lvl) s).core.lsu.storeQ < 64 → exec (.cancel h a lvl) s = .next (issued (.cancel h a lvl)
        ((p.enqPlain true h false (.relTok 2)).enqPlain true h false (.cancel (p.core.src .s1 false a) lvl.toNat)))) ∧
    (Due (.dispatch h dst wbs a) s → Acts h (.dispatch h dst wbs a) s →
      let p := atIssue (.dispatch h dst wbs a) s
      let off := (p.core.src .s1 false a).toNat % 2 ^ 32
      let cause (c reason tstat : Nat) : CauseInfo :=
        { cause := c, slot := 1, gmask := 0, reason := reason, tl := 0, eng := 0, tlnum := 0, tstat := tstat }
      qCount (atWait (.dispatch h dst wbs a) s).core.lsu.storeQ < 64 → exec (.dispatch h dst wbs a) s = .next (
        if off % 128 ≠ 0 then trapped s (cause 2 0 off)
        else if 0x30_0000 ≤ off then trapped s (cause 3 7 (0xFF_FFFF_FFC0_0000 + off))
        else if p.core.carved off then trapped s (cause 3 4 (0xFF_FFFF_FFC0_0000 + off))
        else issued (.dispatch h dst wbs a) ((p.enqPlain true h false (.relTok 2)).enqResult true .s1 h dst wbs false (.dispatch off))))) ∧
  (∀ (h : Head) (a : BitVec 6) (off : BitVec 21) (s : State) (x : Instr × (State → Leave)),
    x ∈ ([(.suspend h a off, fun p => .suspend (p.core.src .s0 false a) (((p.core.sca.pc : Int) + 32 * off.toInt) % 2 ^ 56).toNat),
          (.finish h a, fun p => .finish (p.core.src .s0 false a))] : List (Instr × (State → Leave))) →
    Due x.1 s → Acts h x.1 s → s.core.sca.late = [] → s.core.sca.tretNow = false →
    ∃ t, exec x.1 s = .next t ∧ (t.coreAt s.no).un.st = .leaving (x.2 (atIssue x.1 s)) ∧
      (t.coreAt s.no).sca.pc = s.core.sca.pc ∧ (t.coreAt s.no).sca.br1 = none ∧ (t.coreAt s.no).sca.br2 = none ∧
      (t.coreAt s.no).sca.g = s.core.sca.g ∧ (t.coreAt s.no).vec = s.core.vec) ∧
  (∀ (s : State) (how : Leave), stopped s = false → s.core.un.st = .leaving how → s.core.trp.raised = none →
    (∃ a b, how = .suspend a b) ∨ (∃ a, how = .finish a) ∨ (∃ i p b r, how = .killed i p b r) →
    let killed : Prop := ∃ i p b r, how = .killed i p b r
    let still : Prop := s.core.sca.inflight = [] ∧ s.core.trp.assay = none ∧ s.core.trp.reentry = none ∧ s.core.sca.cellStall = none
    let slot := recLslot s.core.un.recd
    (s.core.trp.reentry ≠ none → s.core.sca.hold ≤ s.clk → s.core.trp.assay = none →
      exec .bundleIssue s = exec .bundleIssue (s.reenter true)) ∧
    (s.core.trp.reentry = none ∨ s.clk < s.core.sca.hold ∨ s.core.trp.assay ≠ none →
      (¬killed → ¬still → exec .bundleIssue s = .next s.endTurn) ∧
      (∀ r, ¬killed → still → reportDue s = some r → ∃ u, exec .trapTake s = .next u ∧ exec .bundleIssue s = .next u.endTurn) ∧
      (killed ∨ still ∧ reportDue s = none →
        s.core.sca.inflight ≠ [] ∨ s.core.lsu.loadQ ≠ [] ∨ s.core.lsu.storeQ ≠ [] ∨ s.core.lsu.outst ≠ [] ∨ s.core.lsu.ackcnt ≠ 0 →
        ∃ t, exec .bundleIssue s = .next t ∧ (t.coreAt s.no).un.st = .leaving how ∧ t.pkg.queues = s.pkg.queues ∧
          launchAt t.pkg slot = launchAt s.pkg slot)) ∧
    (still → (killed ∨ reportDue s = none) → s.core.lsu.loadQ = [] → s.core.lsu.storeQ = [] → s.core.lsu.outst = [] → s.core.lsu.ackcnt = 0 →
      (∀ c ∈ s.core.eng.cmds, c.st = .ended) → (∀ a ∈ s.core.eng.armed, fget 0 s.advanceAll.core.eng.tl a.tl < a.b.toNat) →
      ∃ t, exec .bundleIssue s = .next t ∧ (t.coreAt s.no).un.st = .idle ∧ (t.coreAt s.no).sca.inflight = [] ∧ (t.coreAt s.no).trp.level = 0 ∧
        (∀ (a : Double) (target : Nat), how = .suspend a target → s.cancelled slot = false →
          launchAt t.pkg slot = launchAt s.pkg slot ∧ ∃ q,
            dieQueue t.pkg (s.no / 64) (recPrio q.recd) = dieQueue s.pkg (s.no / 64) (recPrio q.recd) ++ [q] ∧
            (∀ k, k ≠ 8 * (s.no / 64) + recPrio q.recd → fget [] t.pkg.queues k = fget [] s.pkg.queues k) ∧
            q.deliver = none ∧ q.saved = none ∧ q.since = s.clk ∧ q.evalOf = s.core.un.evalOf ∧ q.argIdx = s.core.un.argIdx ∧
            (let d := a.toNat
             let live := min (d % 2 ^ 4) 12
             let join := d / 2 ^ 4 % 2 ^ 6
             recWord q.recd 0 = (if d / 2 ^ 14 % 2 = 1 then recPrio s.core.un.recd else d / 2 ^ 11 % 8) * 2 ^ 29 + recKind s.core.un.recd * 2 ^ 27 +
               live * 2 ^ 23 + join * 2 ^ 17 + d / 2 ^ 10 % 2 * 2 ^ 16 + slot ∧
             recWord q.recd 1 = recHandle s.core.un.recd ∧
             (recWord q.recd 2 : Int) = ((target : Int) - s.core.un.code) % 2 ^ 32 ∧
             recWord q.recd 3 = recPhjob s.core.un.recd ∧
             ∀ k, k < 12 → recWord q.recd (4 + k) = if live ≤ k then 0
               else if join.testBit (k / 2) then (s.core.greg (1 + k / 2 * 2)).toNat / 2 ^ (32 * (k % 2)) % 2 ^ 32
               else (s.core.greg (1 + k)).toNat % 2 ^ 32)) ∧
        (∀ (a : Double) (target : Nat) (l : Launch), how = .suspend a target → launchAt s.pkg slot = some l → l.cancelled = true →
          (∀ pa, s.core.un.evalOf = some pa → cellAt s.pkg pa ≠ .pending) →
          t.pkg.queues = s.pkg.queues ∧ ∃ l', launchAt t.pkg slot = some l' ∧ l'.counter = l.counter - 1 ∧ l'.status = l.status) ∧
        (∀ (a : Double) (l : Launch), how = .finish a → launchAt s.pkg slot = some l →
          (∀ pa, s.core.un.evalOf = some pa → cellAt s.pkg pa ≠ .pending) →
          t.pkg.queues = s.pkg.queues ∧ ∃ l', launchAt t.pkg slot = some l' ∧ l'.counter = l.counter - 1 ∧ l'.complete = l.complete ∧
            l'.status = (if a.toNat % 2 ^ 32 ≠ 0 ∧ l.cancelled = false ∧ l.status = none then some (BitVec.ofNat 32 a.toNat) else l.status) ∧
            ∀ i, s.core.un.argIdx = some i → ∀ g ∈ l'.grants, i ∉ g.2) ∧
        (∀ (i : CauseInfo) (p b r : Nat), how = .killed i p b r → (∀ pa, s.core.un.evalOf = some pa → cellAt s.pkg pa ≠ .pending) →
          t.pkg.queues = s.pkg.queues ∧
          (∀ l, launchAt s.pkg slot = some l → ∃ l', launchAt t.pkg slot = some l' ∧ l'.counter = l.counter - 1 ∧
            l'.status = (if l.status = none then some (BitVec.ofNat 32 (2 ^ 31 + i.cause)) else l.status)) ∧
          (let d1 (type level : Nat) : Nat := recPhjob s.core.un.recd * 2 ^ 32 + slot * 2 ^ 16 + type * 2 ^ 13 + level * 2 ^ 11 + s.no
           let es := [logDoubles s.pkg.gts (d1 1 0) (causeWord i).toNat i.tstat, logDoubles s.pkg.gts (d1 2 0) p b] ++
             ((List.range s.core.trp.level).map fun l =>
               let x := if l = 0 then s.core.trp.bank1 else s.core.trp.bank2
               [logDoubles s.pkg.gts (d1 3 (l + 1)) x.tcause.toNat x.tstat.toNat,
                logDoubles s.pkg.gts (d1 4 (l + 1)) x.tepc.toNat x.tbun.toNat]).flatten
           t.pkg.mgmt.log = trimLog (insLog es s.pkg.mgmt.log.reverse).reverse ∧ ∃ more, t.pkg.mgmt.msix = s.pkg.mgmt.msix ++ 20 :: more))) ∧
    (∀ (a : Double) (pa : Nat) (e : PoolEntry), how = .finish a → still → reportDue s = none → s.core.lsu.loadQ = [] → s.core.lsu.storeQ = [] →
      s.core.lsu.outst = [] → s.core.lsu.ackcnt = 0 → (∀ c ∈ s.core.eng.cmds, c.st = .ended) → s.core.eng.armed = [] →
      s.core.lsu.ingress = [] → s.core.trp.resumeLeave = none →
      s.core.un.evalOf = some pa → cellAt s.pkg pa = .pending → cellSdone s.pkg pa = false → cellEvid s.pkg pa = s.core.un.pool →
      peerLost s.pkg pa = false → copyAt s.pkg pa s.core.un.pool = some e → chainOf s.pkg pa = [] →
      ∃ t, exec .bundleIssue s = .next t ∧ (t.coreAt s.no).un.st = .idle ∧ cellAt t.pkg pa = .suspended ∧
        ∀ l, launchAt s.pkg slot = some l → ∃ l', launchAt t.pkg slot = some l' ∧ l'.counter = l.counter - 1))
/-! ### Traps and the system instructions -/

/-- R341, R342: TRAP raises SWTRAP and DBGBRK raises DBGBRK, precisely, with the code in TSTAT. TRET at level 0 raises NOTRAP; at level 1
or 2 its bundle issues, and at the bundle's end the level falls, fetch goes to the banked TEPC, held operands and redirect are those of the bank, and no bundle
issues for 8 clk; a cell load that the bundle waited for and that is still to come holds it again (R321); a suspension that the trap had interrupted goes on at level 0 (R306); the landing records and the XNEXT remainder wait. At the clk T at which TEPC's bundle issues, a record whose remainder r
is 0 has landed, the others are in flight to land at T + r, and XNEXT is T plus the remainder (R339).
Assumption log entry 17 names the choices of the model it rests on. -/
def Obligations.TrapInstructionsAndReturn : Prop :=
  ∀ (h : Head) (s : State),
    (∀ (code : BitVec 16) (x : Instr × Nat), x ∈ ([(.trap h code, 27), (.dbgbrk h code, 28)] : List (Instr × Nat)) → Due x.1 s → Acts h x.1 s →
      exec x.1 s = .next (trapped s
        { cause := x.2, slot := 0, gmask := 0, reason := 0, tl := 0, eng := 0, tlnum := 0, tstat := code.toNat })) ∧
    (Due (.tret h) s → Acts h (.tret h) s → s.core.trp.level = 0 → exec (.tret h) s = .next (trapped s
      { cause := 30, slot := 0, gmask := 0, reason := 0, tl := 0, eng := 0, tlnum := 0, tstat := 0 })) ∧
    (∀ l : Nat, Due (.tret h) s → Acts h (.tret h) s → s.core.trp.level = l + 1 → l ≤ 1 → s.core.sca.late = [] →
      let p := atIssue (.tret h) s
      let b := if l = 0 then p.core.trp.bank1 else p.core.trp.bank2
      ∃ t, exec (.tret h) s = .next t ∧ (t.coreAt s.no).trp.level = l ∧ (t.coreAt s.no).sca.pc = b.tepc.toNat % 2 ^ 56 / 32 * 32 ∧
        (t.coreAt s.no).sca.held = b.held ∧ (t.coreAt s.no).sca.br1 = b.br1 ∧ (t.coreAt s.no).sca.br2 = b.br2 ∧
        (t.coreAt s.no).sca.hold = s.clk + 8 ∧ (t.coreAt s.no).tab.xnext = 0 ∧
        (t.coreAt s.no).sca.cellStall = (match b.cellStall with
          | some k => if ((t.coreAt s.no).lsu.loadQ ++ (t.coreAt s.no).lsu.outst).any (fun e => e.id == k) then some k else none
          | none => none) ∧
        (t.coreAt s.no).trp.reentry = some { recs := b.recs, rem := b.xrem, start := s.clk + 8 } ∧
        (t.coreAt s.no).un.st = (match s.core.trp.resumeLeave with
          | some how => if l = 0 then .leaving how else .running | none => .running) ∧
        (t.coreAt s.no).sca.g = p.core.sca.g ∧ (t.coreAt s.no).vec = p.core.vec) ∧
    (∀ r : Reentry, s.core.trp.reentry = some r →
      let t := s.reenter true
      t.core.trp.reentry = none ∧ t.core.tab.xnext = s.clk + r.rem ∧
      (∀ x ∈ r.recs, x.due ≠ 0 → ∃ y ∈ t.core.sca.inflight, y.due = s.clk + x.due ∧ y.eff = x.eff) ∧
      ((∀ x ∈ r.recs, x.due ≠ 0) → t.core.sca.g = s.core.sca.g ∧ t.core.vec = s.core.vec ∧ t.pkg = s.pkg) ∧
      (∀ x, r.recs = [x] → x.due = 0 → t.core.vec = (applyEff x.iss x.eff s).core.vec ∧ t.core.sca.g = (applyEff x.iss x.eff s).core.sca.g ∧
        t.pkg = (applyEff x.iss x.eff s).pkg))

/-- R333, R334, R338: a cause that is forwarded below level 2. The next level's bank holds the cause word, the bundle's address in TEPC,
TSTAT and TBUN, and the results in flight with their remaining clk; held operands and redirect are banked and clear, the XNEXT
remainder and the cell load waited for are banked, and TSAVE stands; the latches are cleared; fetch goes to the handler. Records that still wait for a re-entry go
before them. A check in flight is captured with its result (R212). The g registers, tiles, tables and memory are as they were; of the table
state XNEXT alone is cleared. No physical failure is pending here (see AssayStopAndReplay).
Assumption log entries 18 and 48 name the choices of the model it rests on. -/
def Obligations.TrapEntry : Prop :=
  ∀ (s : State) (info : CauseInfo) (tbun handler : Nat), s.core.trp.level < 2 → s.pkg.env.mismatch = [] →
    s.pkg.env.mchkFail = [] →
    let l := s.core.trp.level + 1
    let t := s.enterTrap info tbun handler
    let b := if l = 1 then t.core.trp.bank1 else t.core.trp.bank2
    t.core.trp.level = l ∧ t.core.sca.pc = handler ∧
      b.tcause.toNat = info.cause % 64 + info.slot % 16 * 2 ^ 6 + info.gmask % 2 ^ 8 * 2 ^ 10 + info.reason % 2 ^ 8 * 2 ^ 18 +
        info.tl % 8 * 2 ^ 26 + info.eng % 8 * 2 ^ 29 + info.tlnum % 2 ^ 32 * 2 ^ 32 ∧
      b.tepc = BitVec.ofNat 64 s.core.sca.pc ∧ b.tstat = BitVec.ofNat 64 info.tstat ∧ b.tbun = BitVec.ofNat 64 tbun ∧
      b.recs = s.core.trp.reRecs ++ s.core.sca.inflight.map (fun x =>
        { x with due := x.due - s.clk, eff := match x.eff with | .asstat g none => .asstat g (some false) | e => e }) ∧
      t.core.sca.inflight = [] ∧ t.core.trp.reentry = none ∧ t.core.tab = { s.core.tab with xnext := 0 } ∧ t.core.un.st = .running ∧
      b.held = s.core.sca.held ∧ t.core.sca.held = [] ∧ b.br1 = s.core.sca.br1 ∧ b.br2 = s.core.sca.br2 ∧
      b.cellStall = s.core.sca.cellStall ∧ t.core.sca.cellStall = none ∧ t.core.sca.hold = 0 ∧
      t.core.sca.br1 = none ∧ t.core.sca.br2 = none ∧ b.xrem = (match s.core.trp.reentry with | some r => r.rem | none => s.core.tab.xnext - s.clk) ∧
      b.tsave = (if l = 1 then s.core.trp.bank1 else s.core.trp.bank2).tsave ∧
      (∀ n, t.core.latch n = 0) ∧ t.core.sca.g = s.core.sca.g ∧ t.core.sca.lc = s.core.sca.lc ∧ t.core.sca.spst = s.core.sca.spst ∧
      t.core.vec = s.core.vec ∧ t.pkg = s.pkg ∧ t.others = s.others

/-- R64, R329, R330, R331, R369: a precise cause. The bundle has no effect, and what is done follows from the entry in effect for the cause:
the default where the action table is off, the cause is fixed, the entry cannot be read or a reserved field of it is not zero; else the
entry's fields. Replay is made while fewer than RCOUNT replays have been made, then AFTER is done. Replay counts and issues the bundle again; kill and park
make the unit leave, a kill without its results in flight; forward enters the trap, or at level 2 kills with TLVL and the cause in TSTAT. Where the entry lies
in memory that cannot be reached, the cause waits, and no bundle issues: until the entry can be reached, or, at a peer, until 2^26 clk have passed; then the MEMUE
of the read is logged and the default is taken.
Assumption log entries 20, 57 and 137 name the choices of the model it rests on. -/
def Obligations.PreciseCauseAction : Prop :=
  ∀ (s : State) (c : CauseInfo),
    let u := (((s.modTab fun t => { t with wait := none }).modSca fun x => { x with hwinHeld := false, flushHeld := false }).modLsu fun l =>
      { l with walked := none }).logMemue c
    let e := u.actFor c.cause
    let tab := s.core.trp.acttab.toNat
    let a := tab / 2 ^ 9 % 2 ^ 47 * 512 + 8 * c.cause
    (defaultAct c.cause).act = (if c.cause = 13 then .replay else if c.cause ∈ [3, 5, 9, 22, 26, 28, 29] then .park else .kill) ∧
    (tab % 2 = 0 ∨ c.cause ∈ [22, 24, 25, 29] → e = defaultAct c.cause ∧ u.actLost c.cause = none) ∧
    (tab % 2 = 1 → c.cause ∉ [22, 24, 25, 29] →
      (∀ x, translate u u.root .load 8 a = .error x → e = defaultAct c.cause ∧ u.actLost c.cause = none) ∧
      (∀ x, translate u u.root .load 8 a = .ok x →
        let w := readNat u.pkg x.pa 8
        u.actLost c.cause = (if peerLost u.pkg x.pa then some x.pa else none) ∧
        (peerLost u.pkg x.pa = true ∨ badData u.pkg x.pa 8 = true ∨ w / 2 ^ 56 % 4 ≠ 0 ∨ w / 4 % 8 ≠ 0 → e = defaultAct c.cause) ∧
        (peerLost u.pkg x.pa = false → badData u.pkg x.pa 8 = false → w / 2 ^ 56 % 4 = 0 → w / 4 % 8 = 0 →
          e.act = actOfCode (w % 4) ∧ e.rcount = w / 2 ^ 60 % 16 ∧ e.handler = w / 32 % 2 ^ 51 * 32 ∧
          e.after = (if w / 2 ^ 58 % 4 = 1 then .kill else actOfCode (w / 2 ^ 58 % 4))))) ∧
    (∀ n, e.now n = if e.act = .replay then (if n < e.rcount then .replay else e.after) else e.act) ∧
    (∀ (v : State) (tbun : Nat),
      let d := v.actFor c.cause
      let now := d.now v.core.trp.replays
      (now = .replay → v.takeFor false c tbun = (v.modTrp fun t => { t with replays := t.replays + 1 }).perf 14 1) ∧
      (now = .kill → v.takeFor false c tbun = v.startKill c tbun ∧
        (v.startKill c tbun).core.un.st = .leaving (.killed c v.core.sca.pc tbun v.core.waitRef) ∧ (v.startKill c tbun).core.sca.inflight = []) ∧
      (now = .park → v.takeFor false c tbun = v.startPark c tbun ∧ (v.startPark c tbun).core.un.st = .leaving (.park c tbun)) ∧
      (now = .forward → v.core.trp.level < 2 → v.takeFor false c tbun = v.enterTrap c tbun d.handler) ∧
      (now = .forward → 2 ≤ v.core.trp.level → v.takeFor false c tbun = v.startKill { c with cause := 25, tstat := c.cause } tbun)) ∧
    (u.actLost c.cause = none → trapped s c = (u.takeFor false c s.core.sca.pc).endTurn) ∧
    (∀ pa, u.actLost c.cause = some pa → trapped s c =
      (u.modTrp fun t => { t with raised := some { info := c, tbun := s.core.sca.pc, reported := false, since := s.clk } }).endTurn) ∧
    (∀ r : Raised, stopped s = false → s.core.un.st = .running → s.core.trp.raised = some r → r.info = c →
      let resumed (v : State) : State := ((v.modTrp fun t => { t with raised := none }).takeFor r.reported c r.tbun).endTurn
      (s.actLost c.cause = none → exec .bundleIssue s = .next (resumed s)) ∧
      (∀ pa, s.actLost c.cause = some pa →
        (isPeer pa = false ∨ s.clk < r.since + 2 ^ 26 → exec .bundleIssue s = .next (stalled [] s)) ∧
        (isPeer pa = true → r.since + 2 ^ 26 ≤ s.clk →
          exec .bundleIssue s = .next (resumed (s.logAct c.cause)) ∧ (s.logAct c.cause).actFor c.cause = defaultAct c.cause ∧
          (s.logAct c.cause).core = s.core ∧ (s.logAct c.cause).pkg.mgmt.msix = s.pkg.mgmt.msix ++ [20])))

/-- R343, R344: MFS lands the special register as it stands; a read of IQPOP pops a value, gives it with bit 63 set and acquires at sys
scope, and gives 0 and pops nothing where the head is a token or the queue is empty. MTS takes effect at the end of its bundle.
R345, R346: TIME lands GTS after 4 clk or the clk count after 1, PERFRD a counter after 1. R170, R171: TSTATR reads TABST, SWSTALL or SWCOUNT
after 1 clk; TDSET writes the low word of its source into a tile descriptor of every selected group after 1 clk.
Assumption log entry 11 names the choices of the model it rests on. -/
def Obligations.SpecialRegistersAndStatus : Prop :=
  (∀ (sl : SSlot) (h : Head) (s : State),
    (∀ (dst : BitVec 5) (wbs : Bool) (spr : BitVec 12), Due (.mfs sl h dst wbs spr) s → Acts h (.mfs sl h dst wbs spr) s →
      let p := atIssue (.mfs sl h dst wbs spr) s
      let q := spr.toNat - 0x01C
      (¬(0x01C ≤ spr.toNat ∧ spr.toNat ≤ 0x01F) → exec (.mfs sl h dst wbs spr) s =
        .next (issued (.mfs sl h dst wbs spr) (p.land sl h dst wbs (p.readSpr spr.toNat) 1))) ∧
      (0x01C ≤ spr.toNat → spr.toNat ≤ 0x01F → ∀ (v : BitVec 63) (rest : List QVal), fget [] p.core.eng.iq q = .value v :: rest →
        exec (.mfs sl h dst wbs spr) s = .next (issued (.mfs sl h dst wbs spr)
          (((p.modEng fun e => { e with iq := fset [] e.iq q rest }).enqPlain false h false (.acqTok 3 none)).land sl h dst wbs
            (BitVec.ofNat 64 (2 ^ 63 + v.toNat)) 1))) ∧
      (0x01C ≤ spr.toNat → spr.toNat ≤ 0x01F → (∀ (v : BitVec 63) (rest : List QVal), fget [] p.core.eng.iq q ≠ .value v :: rest) →
        exec (.mfs sl h dst wbs spr) s = .next (issued (.mfs sl h dst wbs spr) (p.land sl h dst wbs 0 1)))) ∧
    (∀ (spr : BitVec 12) (a : BitVec 6), Due (.mts sl h spr a) s → Acts h (.mts sl h spr a) s → s.core.sca.late = [] →
      let p := atIssue (.mts sl h spr a) s
      exec (.mts sl h spr a) s = .next (issued (.mts sl h spr a) (p.modSca fun c => { c with late := [(spr.toNat, p.core.src sl false a)] }))) ∧
    (∀ (dst : BitVec 5) (wbs : Bool) (sel : BitVec 2), Due (.time sl h dst wbs sel) s → Acts h (.time sl h dst wbs sel) s →
      let p := atIssue (.time sl h dst wbs sel) s
      exec (.time sl h dst wbs sel) s = .next (issued (.time sl h dst wbs sel)
        (if sel = 0 then p.land sl h dst wbs (BitVec.ofNat 64 s.pkg.gts) 4 else p.land sl h dst wbs (BitVec.ofNat 64 s.pkg.clk) 1))) ∧
    (∀ (dst : BitVec 5) (wbs : Bool) (cnt : BitVec 8), Due (.perfrd sl h dst wbs cnt) s → Acts h (.perfrd sl h dst wbs cnt) s →
      exec (.perfrd sl h dst wbs cnt) s = .next (issued (.perfrd sl h dst wbs cnt)
        ((atIssue (.perfrd sl h dst wbs cnt) s).land sl h dst wbs (fget 0 s.core.un.perf cnt.toNat) 1)))) ∧
  (∀ (sl : SSlot) (h : Head) (s : State),
    (∀ (dst : BitVec 5) (wbs : Bool) (sel : BitVec 3), Due (.tstatr sl h dst wbs sel) s → Acts h (.tstatr sl h dst wbs sel) s →
      let p := atIssue (.tstatr sl h dst wbs sel) s
      let t := p.core.tab
      let shst := if !t.ever then 0 else if 0 < p.core.fills then 1 else if t.bad then 3 else 2
      let tabst : Nat := (if t.act then 1 else 0) + 2 * shst + (if t.bad then 8 else 0) + 2 ^ 8 * min p.core.fills 255 +
        2 ^ 28 * t.badwhy.toNat + 2 ^ 32 * t.badidx.toNat
      exec (.tstatr sl h dst wbs sel) s = .next (issued (.tstatr sl h dst wbs sel) (p.land sl h dst wbs
        (if sel = 0 then BitVec.ofNat 64 tabst else if sel = 1 then t.swstall else BitVec.ofNat 64 t.swcount.toNat) 1))) ∧
    (∀ (treg : BitVec 5) (a : BitVec 6) (gmask : BitVec 8), Due (.tdset sl h treg a gmask) s → Acts h (.tdset sl h treg a gmask) s →
      let p := atIssue (.tdset sl h treg a gmask) s
      exec (.tdset sl h treg a gmask) s = .next (issued (.tdset sl h treg a gmask)
        (p.putEffs h.sq 1 (((List.range 8).filter fun g => gmask.getLsbD g).map fun g =>
          .desc g treg.toNat 0xFFFFFFFF (BitVec.ofNat 32 (p.core.src sl false a).toNat))))))

/-- R343, R344, R41, R107, R334: what an MTS has written by the end of its bundle, as MFS reads it: the registers a program may write hold the
value, reserved bits zero, and RNGS takes 1 for a zero word. Every register read-only to programs is unchanged.
Assumption log entry 8 names the choices of the model it rests on. -/
def Obligations.SpecialRegisterWrite : Prop :=
  ∀ (v : Double) (s : State),
    (∀ x ∈ ([(0x000, 1), (0x001, 22), (0x002, 40)] : List (Nat × Nat)), ((mtsWrite x.1 v s).readSpr x.1).toNat = v.toNat % 2 ^ x.2) ∧
    (∀ n ∈ [0x004, 0x005, 0x006, 0x021, 0x023, 0x029, 0x02B], (mtsWrite n v s).readSpr n = v) ∧
    (∀ n, 0x008 ≤ n → n ≤ 0x00F → ((mtsWrite n v s).readSpr n).toNat = if v.toNat % 2 ^ 32 = 0 then 1 else v.toNat % 2 ^ 32) ∧
    (∀ n ∈ [0x022, 0x025, 0x02A, 0x02D], ((mtsWrite n v s).readSpr n).toNat = v.toNat % 2 ^ 56 / 32 * 32) ∧
    (∀ n ∈ [0x024, 0x02C], ((mtsWrite n v s).readSpr n).toNat = v.toNat % 2 ^ 56) ∧
    (∀ n, 0x010 ≤ n ∧ n ≤ 0x020 ∨ 0x030 ≤ n → mtsWrite n v s = s) ∧
    (∀ n m, n ≠ m → (mtsWrite n v s).readSpr m = s.readSpr m)

/-! ### Table entries, the transform unit, engine commands -/

/-- R157, R158, R159: XEX. A false stage predicate or a class of NOP issues and does nothing. What the groups' entries
compute is TileEntries, ElementEntries, ReshapingEntries and MatrixEntries; that every entry reads back from its word is EntryRoundTrip. A step before XNEXT stalls (counter 5); one
whose checks fail traps; one whose queue entries are not ready stalls (counter 6); else it issues: XNEXT moves on by the interval of
its class, and every result it puts in flight lands after the latency of its class.
Assumption log entry 27 names the choices of the model it rests on. -/
def Obligations.XexIssue : Prop :=
  ∀ (h : Head) (idx : BitVec 10) (psel : BitVec 4) (s : State), Due (.xex h idx psel) s → Acts h (.xex h idx psel) s →
    let i := Instr.xex h idx psel
    let p := atIssue i s
    let w := atWait i s
    let k := p.core.classOf p.core.tab.act idx.toNat
    let on := psel = 0 ∨ p.core.sca.spst.getLsbD (psel.toNat - 8) = true
    let ps := stepPlans idx.toNat p p.core
    (¬on ∨ k = .nop → exec i s = .next (issued i p)) ∧
    (on → k ≠ .nop → s.clk < w.core.tab.xnext → exec i s = .next (stalled [5] s)) ∧
    (on → k ≠ .nop → w.core.tab.xnext ≤ s.clk → ∀ c, stepFault idx.toNat p ps = some c → exec i s = .next (trapped s c)) ∧
    (on → k ≠ .nop → w.core.tab.xnext ≤ s.clk → stepFault idx.toNat p ps = none → queuesReady w ps = false →
      exec i s = .next (stalled [6] s)) ∧
    (on → k ≠ .nop → w.core.tab.xnext ≤ s.clk → stepFault idx.toNat p ps = none → queuesReady w ps = true → stepMemue p ps = none →
      ∃ u, exec i s = .next (issued i u) ∧ u = issueStep h.sq k.latency ps ((p.modTab fun t => { t with xnext := p.clk + k.interval }).perf 1 1) ∧
        u.core.tab.xnext = p.clk + k.interval ∧
        (∀ x ∈ u.core.sca.inflight, x ∈ p.core.sca.inflight ∨ (x.due = p.clk + k.latency ∧ ∃ y ∈ ps, x.eff ∈ y.2.2.effs)) ∧
        (∀ y ∈ ps, ∀ e ∈ y.2.2.effs, ∃ x ∈ u.core.sca.inflight, x.eff = e ∧ x.due = p.clk + k.latency))

/-- R225, R226, R230 to R232: the transform instructions that read codebooks and the scale path. XPND and XPNDI stall while their bank
fills (CBSTALL) and raise XFORM on an empty or failed bank; where nothing fails, value i of XPND's 128 or XPNDI's 16 is the codebook
entry whose index is the i-th 4-bit or 3-bit field. KLD reads 32 bytes or 4, KSET writes a word, 16 equal halves or 8 equal words,
KMOV copies.
Assumption log entry 26 names the choices of the model it rests on. -/
def Obligations.CodebookAndScale : Prop :=
  ∀ (h : Head) (s : State),
    (∀ o : XpndOps, Due (.xpnd h o) s → Acts h (.xpnd h o) s →
      let p := atIssue (.xpnd h o) s
      let b := o.bank.toNat
      let off := (p.core.src .s1 false o.a).toNat % 2 ^ 32
      let len := if o.w then 64 else 48
      let w := if o.w then 4 else 3
      let data := readNat p.pkg (arrayBase p.no + off) len
      (p.core.cbState b = 1 → exec (.xpnd h o) s = .next (stalled [16] s)) ∧
      (p.core.cbState b = 2 → off % 16 = 0 → off + len ≤ 0x30_0000 → (off + len - 1) / 65536 < p.core.lsu.carveBank →
        badData p.pkg (arrayBase p.no + off) len = false →
        ∃ v, (∀ i, i < 128 → v / 2 ^ (16 * i) % 2 ^ 16 = p.core.cbEntry b o.slot.toNat (data / 2 ^ (w * i) % 2 ^ w)) ∧ v < 2 ^ 2048 ∧
          exec (.xpnd h o) s = .next (issued (.xpnd h o) (p.putEffs h.sq 6 (((List.range 8).filter fun g => o.gmask.getLsbD g).map fun g =>
            .tileSeg g o.td.toNat (256 * o.blk.toNat) 256 v b)))) ∧
      (p.core.cbState b = 0 ∨ p.core.cbState b = 3 → off % 16 = 0 → off + len ≤ 0x30_0000 → (off + len - 1) / 65536 < p.core.lsu.carveBank →
        exec (.xpnd h o) s = .next (trapped s { cause := 12, slot := 4, gmask := 0, reason := 3, tl := 0, eng := 0, tlnum := 0, tstat := o.td.toNat + (((List.range 8).filter fun g => o.gmask.getLsbD g).headD 0) * 2 ^ 8 }))) ∧
    (∀ o : XpndiOps, Due (.xpndi h o) s → Acts h (.xpndi h o) s →
      let p := atIssue (.xpndi h o) s
      let b := o.bank.toNat
      let w := if o.w then 4 else 3
      let a := (p.core.src .s1 false o.a).toNat
      (p.core.cbState b = 1 → exec (.xpndi h o) s = .next (stalled [16] s)) ∧
      (p.core.cbState b = 0 ∨ p.core.cbState b = 3 → exec (.xpndi h o) s = .next (trapped s { cause := 12, slot := 4, gmask := 0, reason := 3, tl := 0, eng := 0, tlnum := 0, tstat := o.td.toNat + o.gd.toNat * 2 ^ 8 })) ∧
      (p.core.cbState b = 2 → ∃ v, v < 2 ^ 256 ∧
        (∀ i, i < 16 → v / 2 ^ (16 * i) % 2 ^ 16 = p.core.cbEntry b o.slot.toNat (a / 2 ^ (w * i) % 2 ^ w)) ∧
        exec (.xpndi h o) s = .next (issued (.xpndi h o) (p.putEff h.sq 4 (.tileSeg o.gd.toNat o.td.toNat (32 * o.seg.toNat) 32 v b))))) ∧
    (∀ (kn : BitVec 3) (a : BitVec 6) (sz : Bool) (ofs : BitVec 13), Due (.kld h kn a sz ofs) s → Acts h (.kld h kn a sz ofs) s →
      let p := atIssue (.kld h kn a sz ofs) s
      let off := ((((p.core.src .s1 false a).toNat : Int) + ofs.toInt) % 2 ^ 32).toNat
      let n := if sz then 4 else 32
      off % n = 0 → off + n ≤ 0x30_0000 → (off + n - 1) / 65536 < p.core.lsu.carveBank → badData p.pkg (arrayBase p.no + off) n = false →
      exec (.kld h kn a sz ofs) s = .next (issued (.kld h kn a sz ofs)
        (p.putEff h.sq 6 (.kreg kn.toNat (BitVec.ofNat 256 (readNat p.pkg (arrayBase p.no + off) n)))))) ∧
    (∀ (kn : BitVec 3) (a : BitVec 6) (mode : BitVec 2) (j : BitVec 3), Due (.kset h kn a mode j) s → Acts h (.kset h kn a mode j) s →
      let p := atIssue (.kset h kn a mode j) s
      let v := (p.core.src .s1 false a).toNat
      ∃ x : Effect, exec (.kset h kn a mode j) s = .next (issued (.kset h kn a mode j) (p.putEff h.sq 2 x)) ∧
        (mode = 0 → x = .kword kn.toNat j.toNat (BitVec.ofNat 32 v)) ∧
        (mode = 1 → ∃ y : Bits256, x = .kreg kn.toNat y ∧ ∀ i, i < 16 → y.toNat / 2 ^ (16 * i) % 2 ^ 16 = v % 2 ^ 16) ∧
        (mode = 2 → ∃ y : Bits256, x = .kreg kn.toNat y ∧ ∀ i, i < 8 → y.toNat / 2 ^ (32 * i) % 2 ^ 32 = v % 2 ^ 32)) ∧
    (∀ kd ks : BitVec 3, Due (.kmov h kd ks) s → Acts h (.kmov h kd ks) s →
      exec (.kmov h kd ks) s = .next (issued (.kmov h kd ks)
        ((atIssue (.kmov h kd ks) s).putEff h.sq 2 (.kreg kd.toNat (fget 0 (atIssue (.kmov h kd ks) s).core.vec.kregs ks.toNat)))))

/-- R227, R228, R40: XPOS and XCVTW, where the checks of R221 find nothing. XPOS lands after 16 clk a dense tile of the same format and
layout, rows and columns exchanged, whose element i is the source's element at the exchanged place, the rest of the tile zero. XCVTW lands after 4 clk the low or
the high half of the source's positions, each widened exactly. A failed check raises XFORM with the lowest reason.
Assumption log entry 26 names the choices of the model it rests on. -/
def Obligations.TransposeAndWiden : Prop :=
  ∀ (h : Head) (s : State),
    (∀ (gs : BitVec 3) (ts : BitVec 5) (gd : BitVec 3) (td : BitVec 5), Due (.xpos h gs ts gd td) s → Acts h (.xpos h gs ts gd td) s →
      let p := atIssue (.xpos h gs ts gd td) s
      let d := p.core.descOf gs.toNat ts.toNat
      let f := dFmt d
      let nd := mkDesc f 0 (dLay d) 0 (dCols d) (dRows d)
      (∀ r, lowest (xformReasons d (plainFmt f) false) = some r → exec (.xpos h gs ts gd td) s = .next (trapped s
        { cause := 12, slot := 4, gmask := 0, reason := r, tl := 0, eng := 0, tlnum := 0, tstat := ts.toNat + gs.toNat * 2 ^ 8 })) ∧
      (lowest (xformReasons d (plainFmt f) false) = none →
        ∃ v : Nat, (∀ i, i < dRows d * dCols d → v / 2 ^ (fmtBits f * i) % 2 ^ fmtBits f =
            nth (p.core.positions gs.toNat ts.toNat f) (posOf d (rowCol nd i).2 (rowCol nd i).1) % 2 ^ fmtBits f) ∧
          v < 2 ^ (fmtBits f * (dRows d * dCols d)) ∧
          exec (.xpos h gs ts gd td) s = .next (issued (.xpos h gs ts gd td) (p.putEffs h.sq 16
            [.tile gd.toNat td.toNat (BitVec.ofNat 16384 v), .desc gd.toNat td.toNat 0xFFFFFFFF (BitVec.ofNat 32 nd)])))) ∧
    (∀ o : XcvtwOps, Due (.xcvtw h o) s → Acts h (.xcvtw h o) s →
      let p := atIssue (.xcvtw h o) s
      let d := p.core.descOf o.gs.toNat o.ts.toNat
      let tgt := o.fmt.toNat
      let n := npos tgt
      let rs := xformReasons d (xcvtPair (dFmt d) tgt) (!unpadded d || longDim d % 2 != 0)
      (∀ r, lowest rs = some r → exec (.xcvtw h o) s = .next (trapped s
        { cause := 12, slot := 4, gmask := 0, reason := r, tl := 0, eng := 0, tlnum := 0, tstat := o.ts.toNat + o.gs.toNat * 2 ^ 8 })) ∧
      (lowest rs = none →
        exec (.xcvtw h o) s = .next (issued (.xcvtw h o) (p.putEffs h.sq 4
          [.tile o.gd.toNat o.td.toNat (BitVec.ofNat 16384 (packElems (fmtBits tgt)
             ((((p.core.positions o.gs.toNat o.ts.toNat (dFmt d)).drop (if o.hi then n else 0)).take n).map (widenOne (dFmt d) tgt)))),
           .desc o.gd.toNat o.td.toNat 0xFFFFFFFF (BitVec.ofNat 32 (reshape d tgt false 2))]))))

/-- R234, R235, R146, R238, R253, R255 to R261, R266, R280: the C slot. Every engine command stalls while the store queue is full
(counter 4); else it takes the next number of its timeline (8: none), keeps its sources as read at issue, and puts a marker in the
store queue. A TFILL also makes the shadow side not EMPTY and, where it covers every index, clears BAD; a CBFILL clears its bank's
failure mark (R223).
That tokens take none of the 64 entries of a queue is the model's choice (log entry 10).
Assumption log entries 10, 31 and 33 name the choices of the model it rests on. -/
def Obligations.CommandIssue : Prop :=
  ∀ (h : Head) (a b : BitVec 6) (c2 : BitVec 2) (c1 : BitVec 1) (sid : BitVec 3) (s : State)
    (sf df gm d8 : BitVec 8) (k3 : BitVec 3) (iq : BitVec 2) (sm : BitVec 4) (g : Bool) (x : Instr × Nat × Nat × (Double → Double → CmdOp)),
    x ∈ ([(.cpy h a b c2, c2.toNat, 0x80, fun x y => .copy 0 x y 0 0), (.cpyg h a b c2, c2.toNat, 0x81, fun x y => .copy 1 x y 0 0),
          (.cpys h a b c2, c2.toNat, 0x82, fun x y => .copy 2 x y 0 0), (.cpyt h a b c2, c2.toNat, 0x83, fun x y => .copy 3 x y 0 0),
          (.cpyx h a b c2, c2.toNat, 0x84, fun x y => .copy 4 x y 0 0), (.cpyz h a b c2, c2.toNat, 0x85, fun x y => .copy 5 x y 0 0),
          (.cpyw h a b c2 (sf.setWidth _) (df.setWidth _), c2.toNat, 0x86, fun x y => .copy 6 x y (sf.toNat % 32) (df.toNat % 32)),
          (.cfill h a b c2, c2.toNat, 0x87, fun x y => .copy 7 x y 0 0),
          (.strm h a sid g d8, 8, 0x88, fun x _ => .strm x sid.toNat g (d8.toNat + 1)), (.strmx h a sid, 8, 0x89, fun x _ => .strmx x sid.toNat),
          (.syncw h a b c2 g, c2.toNat, 0x8A, fun x y => .syncw x y g), (.hsub h a b sid g, 6, 0x8B, fun x y => .hsub x y sid.toNat g),
          (.hrel h sid, 8, 0x8C, fun _ _ => .hrel sid.toNat), (.cbfill h a c1 sm, 7, 0x8D, fun x _ => .cbfill x c1.toNat sm),
          (.qpush h a b c2 iq g, c2.toNat, 0x8E, fun x y => .qpush x y iq.toNat g), (.tfill h a b gm, 7, 0x90, fun x y => .tfill x y gm),
          (.coll h a k3 c1, 4 + c1.toNat, 0x94, fun x _ => .coll x k3.toNat), (.pcancel h a, 8, 0x95, fun x _ => .pcancel x)] :
        List (Instr × Nat × Nat × (Double → Double → CmdOp))) →
    Due x.1 s → Acts h x.1 s →
    let p := atIssue x.1 s
    let id := p.core.eng.nextCmd
    let n := if x.2.1 = 8 then 0 else fget 0 p.core.eng.issued x.2.1 + 1
    let cmd := Cmd.fresh id x.2.1 n (x.2.2.2 (p.core.src .s1 false a) (p.core.src .s1 true b)) x.2.2.1 p.core.sca.seq p.core.sca.pc
    let u := (p.modEng fun e => { e with
      cmds := e.cmds ++ [cmd], nextCmd := id + 1, issued := if x.2.1 = 8 then e.issued else fset 0 e.issued x.2.1 n }).enqueue true
        (.plain 0 (.marker id) false 0 3 false)
    (64 ≤ qCount (atWait x.1 s).core.lsu.storeQ → exec x.1 s = .next (stalled [4] s)) ∧
    (qCount (atWait x.1 s).core.lsu.storeQ < 64 → exec x.1 s = .next (issued x.1 (
      if x.2.2.1 = 0x90 then u.modTab fun t => { t with
        ever := true, bad := if (p.core.src .s1 true b).toNat % 2 ^ 21 = 1024 * 2 ^ 10 then false else t.bad }
      else if x.2.2.1 = 0x8D then u.modVec fun v => { v with
        cbMark := v.cbMark &&& ~~~(1#2 <<< c1.toNat), cbEver := v.cbEver ||| (1#2 <<< c1.toNat) }
      else u)))

/-! ### What the table entries compute -/

/-- R69, R70, R155: table entries. Every well-formed entry encodes in a word that decodes to it, with every operand at every value its field
admits; and a word that decodes to an entry is that entry's encoding: its EOP stands in bits 63:56, its class in 55:52 and its format in
51:47. Words written out from the operand tables decode to the entries they stand for; an unassigned EOP, a class that is not the
operation's and a set bit marked zero do not decode. -/
def Obligations.EntryRoundTrip : Prop :=
  (∀ e : Entry, e.wf = true → Entry.decode e.encode = some e) ∧
  (∀ (w : Double) (e : Entry), Entry.decode w = some e → e.wf = true ∧ e.encode = w ∧ w.toNat / 2 ^ 56 = e.eop ∧
    w.toNat / 2 ^ 52 % 16 = e.cls.code ∧ w.toNat / 2 ^ 47 % 32 = e.fmt) ∧
  Entry.decode 0 = some .nop ∧
  Entry.decode 0x0110_0020_0000_0800 = some (.pset 0 false 0x1_0000 2048) ∧
  Entry.decode (BitVec.ofNat 64 (0x10 * 2 ^ 56 + 2 * 2 ^ 52 + 1 * 2 ^ 47 + 3 * 2 ^ 42 + 1 * 2 ^ 37 + 2 * 2 ^ 32)) = some (.elem .add 1 3 1 2 0) ∧
  Entry.decode (BitVec.ofNat 64 (0x08 * 2 ^ 56 + 7 * 2 ^ 52 + 9 * 2 ^ 42 + 5 * 2 ^ 39 + 6 * 2 ^ 36 + 2 ^ 35 + 2 ^ 33)) =
    some (.move .tld { t := 9, pn := 5, ps := 6, pi := true, tt := false, sp := true }) ∧
  Entry.decode (BitVec.ofNat 64 (0x40 * 2 ^ 56 + 6 * 2 ^ 52 + 2 * 2 ^ 47 + 3 * 2 ^ 45 + 4 * 2 ^ 40 + 5 * 2 ^ 35 + 1 * 2 ^ 28 + 2 * 2 ^ 26 + 2 ^ 25)) =
    some (.mstep .step 2 { ad := 3, ta := 4, tb := 5, tc := 0, ka := 1, kb := 2, z := true }) ∧
  Entry.decode (BitVec.ofNat 64 (0x05 * 2 ^ 56)) = none ∧
  Entry.decode (BitVec.ofNat 64 (0x10 * 2 ^ 56 + 3 * 2 ^ 52 + 1 * 2 ^ 47)) = none ∧
  Entry.decode (BitVec.ofNat 64 (0x0D * 2 ^ 56 + 2 * 2 ^ 52 + 1)) = none

/-- R173, R174, R178, R182, R184, R185, R186, R274: pointers, drift, copies, fills, tile moves and TLDP, each as the results it puts in flight
(with the latency of its class, XexIssue). PSET and PADD write a pointer, PSET its stride too; DSH and DBC pull a tile of another group; TMOV copies data,
scale side and descriptor; VFILL and VIOTA write every position. A load lands the 2,048 bytes at its pointer, the scale side of a
scaled format from its own pointer, and where TT is set the tag as descriptor bits 31:16; a store writes the array bytes and the tag of
its slot, 0x0000 where it does not cover one; PI advances the pointer by its stride. TLDQ empties the 16 lines at issue, TSTQ claims them
and fills them when it lands. TLDP reads the counter's byte and lands, with it in PSNAP, each element's view for that many planes, by the
kind of its group, rounded once, where the group's depth code is not reserved and the count is at most its depth. -/
def Obligations.TileEntries : Prop :=
  ∀ (idx g : Nat) (p : State) (late : Core),
    let c := p.core
    (∀ (pn : BitVec 3) (b : Bool) (ptr : BitVec 22) (str : BitVec 21), ∃ v : Word32,
      v.toNat = ptr.toNat + (if b then c.vec.pbase.toNat else 0) ∧
      (planOf (.pset pn b ptr str) idx g p late).effs = [.ptr g pn.toNat v, .stride g pn.toNat str]) ∧
    (∀ (pn : BitVec 3) (m : Bool) (imm : BitVec 21), ∃ v : Word32,
      (v.toNat : Int) = ((c.ptrOf g pn.toNat : Int) + (if m then imm.toInt else c.strideOf g pn.toNat)) % 2 ^ 32 ∧
      (planOf (.padd pn m imm) idx g p late).effs = [.ptr g pn.toNat v]) ∧
    (∀ (td ts : BitVec 5) (k : BitVec 3), g < 8 → ((g - (k.toNat : Int)) % 8).toNat = (g + 8 - k.toNat) % 8 ∧
      (planOf (.dsh td ts k) idx g p late).effs = [.tile g td.toNat (c.tileOf ((g + 8 - k.toNat) % 8) ts.toNat)] ∧
      (planOf (.dbc td ts k) idx g p late).effs = [.tile g td.toNat (c.tileOf k.toNat ts.toNat)]) ∧
    (∀ td ta : BitVec 5, (planOf (.tmov td ta) idx g p late).effs = [.tile g td.toNat (c.tileOf g ta.toNat),
      .side g td.toNat (c.sideOf g ta.toNat), .desc g td.toNat 0xFFFFFFFF (BitVec.ofNat 32 (c.descOf g ta.toNat))]) ∧
    (∀ (f td : BitVec 5) (imm : BitVec 32), plainFmt f.toNat = true →
      let d := c.descOf g td.toNat
      let nd : Word32 := BitVec.ofNat 32 (mkDesc f.toNat 0 (dLay d) 0 (dRows d) (dCols d))
      ∀ x ∈ ([(.vfill f td imm, 0), (.viota f td imm, 1)] : List (Entry × Nat)),
        ∃ v, (planOf x.1 idx g p late).effs = [.tile g td.toNat v, .desc g td.toNat 0xFFFFFFFF nd] ∧
          ∀ i, i < npos f.toNat → elemAt (fmtBits f.toNat) v.toNat i = (imm.toNat + x.2 * i) % 2 ^ fmtBits f.toNat) ∧
    (∀ (o : LOp) (a : TileOps),
      let t := a.t.toNat
      let off := c.ptrOf g a.pn.toNat
      let ps := c.ptrOf g a.ps.toNat
      let x := planOf (.move o a) idx g p late
      let tag := (if off < 0x30_0000 then tagAt p.pkg (arrayBase p.no + off) else 0).toNat
      let ld : Prop := o = .tld ∨ o = .tldq
      let q : Prop := o = .tldq ∨ o = .tstq
      let fmt := if a.tt ∧ ld then tag / 2 ^ 11 else dFmt (c.descOf g t)
      let gs := if a.tt ∧ ld then tag / 4 % 4 else dGs (c.descOf g t)
      let scaled : Prop := fmt = 6 ∨ fmt = 7 ∨ fmt = 0xC ∨ fmt = 0xD
      let len : Nat := if fmt = 6 ∨ fmt = 7 then npos fmt / 32 else if gs = 3 then 0 else 4 * npos fmt / (32 * 2 ^ gs)
      (off, 2048) ∈ x.reach ∧
      (5 ∈ x.bad ↔ off % (if a.tt then 2048 else if q then 128 else 64) ≠ 0 ∨ (scaled ∧ a.sp = true ∧ ps % 64 ≠ 0)) ∧
      (8 ∈ x.bad ↔ scaled ∧ a.sp = false) ∧
      (ld →
        (∃ v, .tile g t v ∈ x.effs ∧ ∀ i, i < 2048 → v.toNat / 256 ^ i % 256 = (readByte p.pkg (arrayBase p.no + off + i)).toNat) ∧
        (a.tt = true → .desc g t 0xFFFF0000 (BitVec.ofNat 32 ((tagAt p.pkg (arrayBase p.no + off)).toNat * 2 ^ 16)) ∈ x.effs) ∧
        (scaled → ∃ v, .side g t v ∈ x.effs ∧ ∀ i, i < 512 →
          v.toNat / 256 ^ i % 256 = if i < len then (readByte p.pkg (arrayBase p.no + ps + i)).toNat else 0) ∧
        (¬scaled → ∀ v, .side g t v ∉ x.effs)) ∧
      (scaled → (ps, len) ∈ x.reach) ∧
      (¬ld →
        (scaled → ∃ bs, .array g ps bs ∈ x.effs ∧ bs.length = len ∧ ∀ i, i < len → (bs.getD i 0).toNat = (c.sideOf g t).toNat / 256 ^ i % 256) ∧
        (∃ bs, .array g off bs ∈ x.effs ∧ bs.length = 2048 ∧ ∀ i, i < 2048 → (bs.getD i 0).toNat = (c.tileOf g t).toNat / 256 ^ i % 256) ∧
        (if off % 2048 = 0 then .tag g off (BitVec.ofNat 16 (c.descOf g t / 2 ^ 16)) ∈ x.effs
         else .tag g off 0 ∈ x.effs ∧ .tag g (off + 2047) 0 ∈ x.effs)) ∧
      (a.pi = true → ∃ v : Word32, .ptr g a.pn.toNat v ∈ x.effs ∧ (v.toNat : Int) = ((off : Int) + c.strideOf g a.pn.toNat) % 2 ^ 32) ∧
      (a.pi = false → ∀ n v, .ptr g n v ∉ x.effs) ∧
      (q → x.lines = (List.range 16).map (fun i => off / 128 + i) ∧ x.wantFull = decide (o = .tldq)) ∧
      (¬q → x.lines = [] ∧ x.now p = p) ∧
      (o = .tldq → ∀ y, fullAt (x.now p).pkg y = (fullAt p.pkg y &&
        !(decide ((arrayBase p.no + off) / 128 ≤ y / 128) && decide (y / 128 < (arrayBase p.no + off) / 128 + 16)))) ∧
      (o = .tstq → (x.now p).core.lsu.claims = c.lsu.claims ++ x.lines ∧ .full off 16 ∈ x.effs)) ∧
    (∀ (f td : BitVec 5) (pn pc : BitVec 3) (mid : Bool) (ff : FF), fmtFF f.toNat = some ff → wideFmt f.toNat = true →
      let off := c.ptrOf g pn.toNat
      let ctr := c.ptrOf g pc.toNat
      let x := planOf (.tldp f td pn pc mid) idx g p late
      let n := (readByte p.pkg (arrayBase p.no + ctr)).toNat
      let word (k i : Nat) : Nat := readNat p.pkg (arrayBase p.no + (off + 128 * k + 4 * (i / 32))) 4
      let plane (q i : Nat) : Bool := (word (1 + q) i).testBit (i % 32)
      let code (i : Nat) : Nat := word 0 i / 2 ^ 27 % 8
      let depth (i : Nat) : Nat := nth [8, 12, 16, 24, 32] (code i)
      let exp (i : Nat) : Int := (BitVec.ofNat 16 (word 0 i)).toInt
      let grid (first k i : Nat) : XR :=
        let m : Nat := ((List.range k).map fun q => if plane (first + q) i then 2 ^ (k - 1 - q) else 0).sum
        .fin (plane 0 i) ((m : Rat) * pow2 (exp i - k + 1) + if mid ∧ n < depth i then pow2 (exp i - k + 1) / 2 else 0)
      let view (i : Nat) : XR :=
        if n = 0 then .fin false 0
        else match word 0 i / 2 ^ 30 with
        | 0 => grid 1 (n - 1) i
        | 1 => .fin (plane 0 i) 0
        | 2 => if n ≤ 2 ∨ plane 1 i then .nan else if plane 2 i then .inf (plane 0 i) else grid 3 (n - 3) i
        | _ => .nan
      (5 ∈ x.bad ↔ off % 64 ≠ 0 ∨ ctr % 16 ≠ 0) ∧ .psnap g (BitVec.ofNat 8 n) ∈ x.effs ∧
      .desc g td.toNat 0xFFFFFFFF (BitVec.ofNat 32 (mkDesc f.toNat 0 0 0 (npos f.toNat / 32) 32)) ∈ x.effs ∧
      ∃ v, .tile g td.toNat v ∈ x.effs ∧ ∀ i, i < npos f.toNat → code i ≤ 4 → n ≤ depth i →
        elemAt (fmtBits f.toNat) v.toNat i = flushOut c.ftz f.toNat (roundNE ff (view i)))

/-- R187 to R192, R43, R45: the vector entries whose sources have the entry's own format, position by position. Each lands one tile and a
descriptor of that format with tA's layout and shape (a mask's for compares). Floating positions are rounded once from the exact value, with
VFTZ's flush of sources and results; integer positions saturate, INT8 at ±127 (R32). The checks ask each source for the entry's format, density and no
reserved field, and tA for a shape that fits.
Assumption log entries 25 and 89 name the choices of the model it rests on. -/
def Obligations.ElementEntries : Prop :=
  ∀ (idx g : Nat) (p : State) (late : Core) (f td ta tb tc : BitVec 5),
    let c := p.core
    let b := fmtBits f.toNat
    let at' (t : BitVec 5) (i : Nat) : Nat := elemAt b (c.tileOf g t.toNat).toNat i
    let val (t : BitVec 5) (i : Nat) : XR := flushIn c.ftz f.toNat (at' t i)
    let int (t : BitVec 5) (i : Nat) : Int := intValue f.toNat (at' t i)
    let da := c.descOf g ta.toNat
    let nd (fmt : Nat) : Word32 := BitVec.ofNat 32 (mkDesc fmt 0 (dLay da) 0 (dRows da) (dCols da))
    let lands (e : Entry) (fmt : Nat) (r : Nat → Nat) : Prop := ∃ v,
      (planOf e idx g p late).effs = [.tile g td.toNat v, .desc g td.toNat 0xFFFFFFFF (nd fmt)] ∧ ∀ i, i < npos f.toNat → elemAt b v.toNat i = r i
    let good (t : BitVec 5) : Prop := dFmt (c.descOf g t.toNat) = f.toNat ∧ descReserved (c.descOf g t.toNat) = false ∧
      notDense (c.descOf g t.toNat) = false
    let checks (e : Entry) (ts : List (BitVec 5)) : Prop := (planOf e idx g p late).bad = [] ↔ good ta ∧ shapeBad da = false ∧ ∀ t ∈ ts, good t
    (∀ ff, fmtFF f.toNat = some ff → arithFmt f.toNat = true →
      ∀ x ∈ ([(.add, fun i => xadd (val ta i) (val tb i)), (.sub, fun i => xadd (val ta i) (val tb i).neg),
              (.mul, fun i => xmul (val ta i) (val tb i)), (.fma, fun i => xadd (xmul (val ta i) (val tb i)) (val tc i)),
              (.fms, fun i => xadd (xmul (val ta i) (val tb i)) (val tc i).neg), (.abs, fun i => (val ta i).abs), (.neg, fun i => (val ta i).neg),
              (.min, fun i => if (val ta i).isNan || (val tb i).isNan then .nan
                else if xlt (val tb i) (val ta i) || ((val ta i).isZero && (val tb i).isZero && (val tb i).sign) then val tb i else val ta i),
              (.max, fun i => if (val ta i).isNan || (val tb i).isNan then .nan
                else if xlt (val ta i) (val tb i) || ((val ta i).isZero && (val tb i).isZero && (val ta i).sign) then val tb i else val ta i)] :
              List (VOp × (Nat → XR))),
        lands (.elem x.1 f td ta tb tc) f.toNat fun i => flushOut c.ftz f.toNat (roundNE ff (x.2 i))) ∧
    (fmtFF f.toNat = none → arithFmt f.toNat = true →
      ∀ x ∈ ([(.add, fun i => int ta i + int tb i), (.sub, fun i => int ta i - int tb i), (.mul, fun i => int ta i * int tb i),
              (.fma, fun i => int ta i * int tb i + int tc i), (.fms, fun i => int ta i * int tb i - int tc i),
              (.min, fun i => if int ta i ≤ int tb i then int ta i else int tb i), (.max, fun i => if int ta i ≤ int tb i then int tb i else int ta i),
              (.abs, fun i => ((int ta i).natAbs : Int)), (.neg, fun i => -int ta i)] : List (VOp × (Nat → Int))),
        lands (.elem x.1 f td ta tb tc) f.toNat fun i =>
          let lo : Int := if f = 0x11 then 0 else if f = 0xA then -127 else -2 ^ (b - 1)
          let hi : Int := if f = 0x11 then 255 else 2 ^ (b - 1) - 1
          ((if x.2 i < lo then lo else if hi < x.2 i then hi else x.2 i) % 2 ^ b).toNat) ∧
    (∀ (o : VOp), checks (.elem o f td ta tb tc) (match o with | .fma | .fms => [tb, tc] | .abs | .neg => [] | _ => [tb])) ∧
    (∀ x ∈ ([(.bits .and td ta tb, c.tileOf g ta.toNat &&& c.tileOf g tb.toNat), (.bits .or td ta tb, c.tileOf g ta.toNat ||| c.tileOf g tb.toNat),
            (.bits .xor td ta tb, c.tileOf g ta.toNat ^^^ c.tileOf g tb.toNat), (.bits .not td ta tb, ~~~(c.tileOf g ta.toNat))] : List (Entry × TileBits)),
      (planOf x.1 idx g p late).effs = [.tile g td.toNat x.2, .side g td.toNat (c.sideOf g ta.toNat),
        .desc g td.toNat 0xFFFFFFFF (BitVec.ofNat 32 da)]) ∧
    (∀ (h : Bool) (sh : BitVec 5), shiftFmt f.toNat = true → sh.toNat < b →
      let n (i : Nat) : Nat := if h then sh.toNat else at' tb i % b
      lands (.shift .shl f td ta tb h sh) f.toNat (fun i => at' ta i * 2 ^ n i % 2 ^ b) ∧
      lands (.shift .shr f td ta tb h sh) f.toNat (fun i => at' ta i / 2 ^ n i) ∧
      lands (.shift .sar f td ta tb h sh) f.toNat (fun i =>
        let x : Int := if at' ta i < 2 ^ (b - 1) then at' ta i else (at' ta i : Int) - 2 ^ b
        ((x / 2 ^ n i) % 2 ^ b).toNat) ∧
      ∀ o, checks (.shift o f td ta tb h sh) (if h then [] else [tb])) ∧
    (arithFmt f.toNat = true →
      (∀ x ∈ ([(.eq, fun i => xeq (val ta i) (val tb i)), (.ne, fun i => !xeq (val ta i) (val tb i)), (.lt, fun i => xlt (val ta i) (val tb i)),
              (.le, fun i => xlt (val ta i) (val tb i) || xeq (val ta i) (val tb i))] : List (COp × (Nat → Bool))),
        lands (.cmp x.1 f td ta tb) (if b = 32 then 8 else if b = 16 then 9 else 0xA) (fun i => if x.2 i then 2 ^ b - 1 else 0) ∧
        checks (.cmp x.1 f td ta tb) [tb]) ∧
      lands (.vsel f td tc ta tb) f.toNat (fun i => if at' tc i = 0 then at' tb i else at' ta i)) ∧
    (∀ o ff, fmtFF f.toNat = some ff → wideFmt f.toNat = true → checks (.fn o f td ta) [] ∧
      lands (.fn o f td ta) f.toNat fun i => flushOut c.ftz f.toNat (special o.code ff (flushOut c.ftz f.toNat (at' ta i)) (val ta i))) ∧
    (∀ ff (a : Rat) (n : Bool), 0 < a → (∀ k, special FOp.rcp.code ff k (.fin n a) = roundNE ff (.fin n (1 / a))) ∧
      ∀ k, special FOp.rcp.code ff k (.fin n 0) = ff.infBits n ∧ special FOp.exp2.code ff k (.inf true) = roundNE ff (.fin false 0) ∧
        special FOp.log2.code ff k (.fin n 0) = ff.infBits true ∧ special FOp.log2.code ff k (.fin true a) = ff.nanBits ∧
        special FOp.rsq.code ff k (.fin n 0) = ff.infBits n ∧ special FOp.rsq.code ff k (.fin true a) = ff.nanBits ∧
        special FOp.tanh.code ff k (.inf n) = roundNE ff (.fin n 1) ∧ special FOp.silu.code ff k (.inf true) = roundNE ff (.fin true 0))

/-- R190, R191, R193 to R199, R31: the vector entries that reshape. A reduction lands one value a row or column: a floating sum is the exact
sum rounded once to FP32, an integer sum saturates at 32 bits, VRMAX keeps an element. A broadcast places vector elements by row or column of
tD's own shape. VSMXM lands the new maxima and the rescale factors 2^(mo − mn), VSMXS the powers 2^(s − mn) (both stated where the difference is a
whole number, an infinity or NaN), zero in padding, and the new sums. A conversion reads its source positions in order from consecutive source
tiles and fills its destination tiles in order; VQNT and VDQ convert likewise, with their scales; VSCL scales.
Assumption log entries 28, 90 and 91 name the choices of the model it rests on. -/
def Obligations.ReshapingEntries : Prop :=
  ∀ (idx g : Nat) (p : State) (late : Core) (f td ta : BitVec 5),
    let c := p.core
    let b := fmtBits f.toNat
    let da := c.descOf g ta.toNat
    let sf := dFmt da
    let sb := fmtBits sf
    let src (k : Nat) : Nat := elemAt sb (c.tileOf g (ta.toNat + k / npos sf)).toNat (k % npos sf)
    let el (r k : Nat) : Nat := elemAt b (c.tileOf g ta.toNat).toNat (posOf da r k)
    let one (e : Entry) (fmt rows cols : Nat) (r : Nat → Nat) (len : Nat) : Prop := ∃ v,
      (planOf e idx g p late).effs = [.tile g td.toNat v, .desc g td.toNat 0xFFFFFFFF (BitVec.ofNat 32 (mkDesc fmt 0 0 0 rows cols))] ∧
      (∀ i, i < len → elemAt (fmtBits fmt) v.toNat i = r i) ∧ ∀ i, len ≤ i → i < npos fmt → elemAt (fmtBits fmt) v.toNat i = 0
    let fills (e : Entry) (n : Nat) (r : Nat → Nat) : Prop := ∀ j i, j < n → i < npos f.toNat →
      ∃ v, .tile g (td.toNat + j) v ∈ (planOf e idx g p late).effs ∧ elemAt b v.toNat i = r (j * npos f.toNat + i)
    let outs : Nat := if b ≤ sb then 1 else b / sb
    let ins : Nat := if b ≤ sb then sb / b else 1
    (arithFmt f.toNat = true → shapeBad da = false → dFmt da = f.toNat →
      (∀ ff, fmtFF f.toNat = some ff →
        let sum (l : List Nat) : Nat := flushOut c.ftz 1 (roundNE .fp32 (xsum (l.map (flushIn false f.toNat))))
        one (.red .rsum f td ta) 1 (dRows da) 1 (fun r => sum ((List.range (dCols da)).map fun k => el r k)) (dRows da) ∧
        one (.red .csum f td ta) 1 1 (dCols da) (fun k => sum ((List.range (dRows da)).map fun r => el r k)) (dCols da)) ∧
      (fmtFF f.toNat = none →
        let sum (l : List Nat) : Nat := ((satS (l.map (intValue f.toNat)).sum 32) % 2 ^ 32).toNat
        one (.red .rsum f td ta) 8 (dRows da) 1 (fun r => sum ((List.range (dCols da)).map fun k => el r k)) (dRows da) ∧
        one (.red .csum f td ta) 8 1 (dCols da) (fun k => sum ((List.range (dRows da)).map fun r => el r k)) (dCols da)) ∧
      (∀ r, r < dRows da → ∃ v, .tile g td.toNat v ∈ (planOf (.red .rmax f td ta) idx g p late).effs ∧
        ((∃ k, k < dCols da ∧ (flushIn c.ftz f.toNat (el r k)).isNan = true) →
          ∀ ff, fmtFF f.toNat = some ff → elemAt b v.toNat r = ff.nanBits) ∧
        ((∀ k, k < dCols da → (flushIn c.ftz f.toNat (el r k)).isNan = false) →
          (∃ k, k < dCols da ∧ elemAt b v.toNat r = flushOut c.ftz f.toNat (el r k)) ∧
          ∀ k, k < dCols da → xlt (flushIn false f.toNat (elemAt b v.toNat r)) (flushIn c.ftz f.toNat (el r k)) = false))) ∧
    (∀ (col h : Bool), arithFmt f.toNat = true →
      let d := c.descOf g td.toNat
      let from0 := if h then npos f.toNat / 2 else 0
      dRows d * dCols d ≤ npos f.toNat →
      ∃ v, (planOf (.bcast col f td ta h) idx g p late).effs = [.tile g td.toNat v, .desc g td.toNat 0xFFFFFFFF
          (BitVec.ofNat 32 (mkDesc f.toNat 0 (dLay d) 0 (dRows d) (dCols d)))] ∧
        ∀ r k, r < dRows d → k < dCols d → from0 + (if col then r else k) < npos f.toNat → elemAt b v.toNat (posOf d r k) =
          elemAt b (c.tileOf g ta.toNat).toNat (from0 + if col then r else k)) ∧
    (∀ ts : BitVec 5, wideFmt f.toNat = true → dFmt (c.descOf g ts.toNat) = f.toNat →
      let ds := c.descOf g ts.toNat
      let old (r : Nat) : Nat := elemAt 32 (c.tileOf g td.toNat).toNat r
      let best (r : Nat) : Nat := rowMax c.ftz f.toNat ((List.range (dCols ds)).map fun k => elemAt b (c.tileOf g ts.toNat).toNat (posOf ds r k))
      ∃ m v, (planOf (.vsmxm f td ts) idx g p late).effs = [.tileMask g td.toNat m v] ∧ ∀ r, r < dRows ds →
        elemAt 32 m.toNat r = 0xFFFFFFFF ∧ elemAt 32 m.toNat (256 + r) = 0xFFFFFFFF ∧
        (let mo := flushIn c.ftz 1 (old r)
         let mn := xmax mo (flushIn false f.toNat (best r))
         elemAt 32 v.toNat r = roundNE .fp32 mn ∧
         (mn.isNan = true → elemAt 32 v.toNat (256 + r) = 0x7FC00000) ∧
         (mn.isNan = false → xeq mo mn = true → elemAt 32 v.toNat (256 + r) = 0x3F800000) ∧
         (mn.isNan = false → xeq mo mn = false →
           (xsub mo mn = .inf true → elemAt 32 v.toNat (256 + r) = 0) ∧
           ∀ j : Nat, j ≤ 1000 → xsub mo mn = .fin true (j : Rat) →
             elemAt 32 v.toNat (256 + r) = flushOut c.ftz 1 (roundNE .fp32 (.fin false (1 / 2 ^ j)))))) ∧
    (∀ (tm tl : BitVec 5) (ff : FF), fmtFF f.toNat = some ff → wideFmt f.toNat = true → wideFmt sf = true →
      dRows da * dCols da ≤ npos f.toNat → dRows da * dCols da ≤ npos sf →
      let mn (r : Nat) : XR := flushIn c.ftz 1 (elemAt 32 (c.tileOf g tm.toNat).toNat r)
      let scale (r : Nat) : XR := flushIn c.ftz 1 (elemAt 32 (c.tileOf g tm.toNat).toNat (256 + r))
      let old (r : Nat) : XR := flushIn c.ftz 1 (elemAt 32 (c.tileOf g tl.toNat).toNat r)
      let sc (r k : Nat) : XR := flushIn c.ftz sf (elemAt sb (c.tileOf g ta.toNat).toNat (posOf da r k))
      ∃ v m w, (planOf (.vsmxs f td ta tm tl) idx g p late).effs = [.tile g td.toNat v, .desc g td.toNat 0xFFFFFFFF
          (BitVec.ofNat 32 (mkDesc f.toNat 0 (dLay da) 0 (dRows da) (dCols da))), .tileMask g tl.toNat m w] ∧
        (∀ r k, r < dRows da → k < dCols da →
          let y := elemAt b v.toNat (posOf da r k)
          (sc r k = .inf true → (mn r).isNan = false → y = 0) ∧
          ((sc r k).isNan = true ∨ (mn r).isNan = true → y = ff.nanBits) ∧
          ∀ j : Nat, j ≤ 1000 → (xsub (sc r k) (mn r) = .fin true (j : Rat) ∨ (j = 0 ∧ xsub (sc r k) (mn r) = .fin false 0)) →
            y = flushOut c.ftz f.toNat (roundNE ff (.fin false (1 / 2 ^ j)))) ∧
        (∀ i, dRows da * dCols da ≤ i → i < npos f.toNat → elemAt b v.toNat i = 0) ∧
        (∀ r, r < dRows da → elemAt 32 m.toNat r = 0xFFFFFFFF ∧ elemAt 32 w.toNat r = flushOut c.ftz 1 (roundNE .fp32 (xsum
          (xmul (scale r) (old r) :: (List.range (dCols da)).map fun k => flushIn false f.toNat (elemAt b v.toNat (posOf da r k)))))) ∧
        ∀ i, dRows da ≤ i → i < 512 → elemAt 32 m.toNat i = 0) ∧
    (∀ rm : BitVec 3, plainFmt f.toNat = true → plainFmt sf = true → ta.toNat + ins ≤ 32 →
      (rm.toNat < 4 → fills (.vcvt f td ta rm) outs fun k => flushOut c.ftz f.toNat
        (roundTo f.toNat (match rm.toNat with | 0 => .rne | 1 => .rtz | 2 => .rup | _ => .rdn) (flushIn c.ftz sf (src k)))) ∧
      (rm = 4 → fills (.vcvt f td ta rm) outs (fun k => flushOut c.ftz f.toNat
          (roundTo f.toNat (.rsr ((lfsrDraws (k + 1) (c.rngOf g)).2.toNat % 2 ^ 16)) (flushIn c.ftz sf (src k)))) ∧
        fget 1 ((planOf (.vcvt f td ta rm) idx g p late).now p).core.vec.rngs g = (lfsrDraws (ins * npos sf) (c.rngOf g)).2)) ∧
    (∀ kn : BitVec 3, f = 0xA ∨ f = 0xB → wideFmt sf = true → ta.toNat + ins ≤ 32 →
      fills (.vqnt f td ta kn 0) 1 fun k => roundTo f.toNat .rne (xmul (flushIn c.ftz sf (src k))
        (flushIn c.ftz 1 ((c.kreg kn.toNat).toNat % 2 ^ 32)))) ∧
    (∀ kn : BitVec 3, f = 6 ∨ f = 7 → wideFmt sf = true → ta.toNat + ins ≤ 32 →
      let block (j : Nat) : List XR := (List.range 32).map fun i => flushIn c.ftz sf (src (32 * j + i))
      let q (j : Nat) := mxQuant f.toNat (List.replicate 32 .rne) (block j)
      fills (.vqnt f td ta kn 0) 1 (fun k => (q (k / 32)).2.getD (k % 32) 0) ∧
      .side g td.toNat (BitVec.ofNat 4096 (packElems 8 ((List.range (npos f.toNat / 32)).map fun j => (q j).1))) ∈
        (planOf (.vqnt f td ta kn 0) idx g p late).effs) ∧
    (∀ (kn : BitVec 3) (gs : BitVec 2), f = 0xC ∨ f = 0xD → gs ≠ 3 → wideFmt sf = true → ta.toNat + ins ≤ 32 →
      let group (j : Nat) : List XR := (List.range (32 * 2 ^ gs.toNat)).map fun i => flushIn c.ftz sf (src (32 * 2 ^ gs.toNat * j + i))
      let finite (j : Nat) : Bool := (group j).all fun x => match x with | .fin _ _ => true | _ => false
      let lo (j : Nat) : Rat := ((group j).map XR.toRat).foldl min 0
      let hi (j : Nat) : Rat := ((group j).map XR.toRat).foldl max 0
      let whole (x : Rat) : Int := satS (roundI (-2 ^ 31) (2 ^ 31 - 1) .rne (xr false x)) b
      let sc (j : Nat) : Nat :=
        let e := roundNE .fp16 (xr false ((hi j - lo j) / (2 ^ b - 1)))
        if e % 2 ^ 15 = 0 then 1 else if 0x7C00 ≤ e then 0x7BFF else e
      let step (j : Nat) : Rat := (decodeF .fp16 (sc j)).toRat
      let z (j : Nat) : Int := whole (-2 ^ (b - 1) - lo j / step j)
      fills (.vqnt f td ta kn gs) 1 (fun k =>
        let j := k / (32 * 2 ^ gs.toNat)
        if finite j = false ∨ hi j = lo j then 0
        else (whole (((group j).getD (k % (32 * 2 ^ gs.toNat)) .nan).toRat / step j + z j) % 2 ^ b).toNat) ∧
      ∃ w : BitVec 4096, .side g td.toNat w ∈ (planOf (.vqnt f td ta kn gs) idx g p late).effs ∧
        ∀ j, j < npos f.toNat / (32 * 2 ^ gs.toNat) → elemAt 32 w.toNat j =
          if finite j = false then 0x7E00 else if hi j = lo j then 0x3C00 else (z j % 2 ^ b).toNat * 2 ^ 16 + sc j) ∧
    (∀ kn : BitVec 3, wideFmt f.toNat = true → quantFmt sf = true → ∀ ff, fmtFF f.toNat = some ff →
      fills (.vdq f td ta kn) outs fun k =>
        let side := (c.sideOf g ta.toNat).toNat
        flushOut c.ftz f.toNat (roundNE ff
          (if sf = 6 ∨ sf = 7 then xmul (elemValue sf (src k)) (e8m0 (elemAt 8 side (k / 32)))
           else if sf = 0xC ∨ sf = 0xD then qiValue sf (elemAt 32 side (k / (32 * 2 ^ dGs da))) (src k)
           else xmul (xint (intValue sf (src k))) (flushIn c.ftz 1 ((c.kreg kn.toNat).toNat % 2 ^ 32))))) ∧
    (∀ (kn : BitVec 3) (mode : BitVec 2), wideFmt f.toNat = true → mode ≠ 3 → sf = f.toNat → ∀ ff, fmtFF f.toNat = some ff →
      let k16 (j : Nat) : XR := flushIn c.ftz 3 ((c.kreg kn.toNat).toNat / 2 ^ (16 * (j % 16)) % 2 ^ 16)
      ∀ r k, r < dRows da → k < dCols da → posOf da r k < npos f.toNat →
        ∃ v, .tile g td.toNat v ∈ (planOf (.vscl f td ta kn mode) idx g p late).effs ∧ elemAt b v.toNat (posOf da r k) =
          flushOut c.ftz f.toNat (roundNE ff (xmul (flushIn c.ftz f.toNat (el r k))
            (if mode = 0 then flushIn c.ftz 1 ((c.kreg kn.toNat).toNat % 2 ^ 32) else if mode = 1 then k16 k else k16 r))))

/-- R200 to R211, R46 to R48: the matrix entries. MSTEP and MSTEPI land, for each row of tA and column of tB inside the tiles, the step sum or the
integer sum of the products of the K slice; MSTEPS takes B's row from the metadata; MSTEPQ sums one term a weight group. A step opens its
accumulator and with Z sets its mode; MZERO zeroes those of its mask and opens them; MRET lands the accumulator times its factor, in one
tile or two, and with C closes it; MCHK lands its result. A step of the other mode without Z is refused (reason 9), and a failed
condition on the operands each with its reason: reserved (0), shape (1), format (2), sparsity (4), t31 (6).
Assumption log entry 90 names the choices of the model it rests on. -/
def Obligations.MatrixEntries : Prop :=
  ∀ (idx g : Nat) (p : State) (late : Core), g < 8 →
    let c := p.core
    (∀ (o : MOp) (f : BitVec 5) (x : StepOps),
      let e := planOf (.mstep o f x) idx g p late
      let a := c.opnd g x.ta.toNat
      let b := c.opnd g x.tb.toNat
      let b2 := c.opnd g (x.tb.toNat + 1)
      let k := 4 * g + x.ad.toNat
      let int : Bool := f == 0xA || f == 0xB || f == 0x11
      let row (m j : Nat) : Nat := if o = .steps then
        4 * (j / 2) + (c.tileOf g x.tc.toNat).toNat / 2 ^ (2 * (1024 * x.ka.toNat + 32 * m + j)) % 4 else j
      let tb (m j : Nat) : Opnd := if o = .steps ∧ 32 ≤ row m j then b2 else b
      let rb (m j : Nat) : Nat := 32 * x.kb.toNat + row m j % 32
      let ks (m n : Nat) : List Nat := (List.range 32).filter fun j => 32 * x.ka.toNat + j < dCols a.d ∧ m < dRows a.d ∧
        rb m j < dRows (tb m j).d ∧ n < dCols (tb m j).d
      (int = false → isQi f.toNat = false → ∃ sums, e.effs = [.stepF g x.ad.toNat x.z (dRows a.d) (dCols b.d) sums idx false] ∧
        ∀ m n, m < dRows a.d → n < dCols b.d → sums.getD (m * dCols b.d + n) .nan =
          stepSum ((ks m n).map fun j => xmul (a.value m (32 * x.ka.toNat + j)) ((tb m j).value (rb m j) n))) ∧
      (int = false → isQi f.toNat = true → ∃ sums, e.effs = [.stepF g x.ad.toNat x.z (dRows a.d) (dCols b.d) sums idx false] ∧
        ∀ m n, m < dRows a.d → n < dCols b.d → sums.getD (m * dCols b.d + n) .nan =
          stepSum (termsQ a b m n ((ks m n).map fun j => (32 * x.ka.toNat + j, tb m j, rb m j)))) ∧
      (int = true → ∃ sums, e.effs = [.stepI g x.ad.toNat x.z (dRows a.d) (dCols b.d) sums idx false] ∧
        ∀ m n, m < dRows a.d → n < dCols b.d → sums.getD (m * dCols b.d + n) 0 =
          ((ks m n).map fun j => a.int m (32 * x.ka.toNat + j) * (tb m j).int (rb m j) n).sum) ∧
      (9 ∈ e.bad ↔ x.z = false ∧ c.vec.intm.getLsbD k ≠ int) ∧
      (0 ∈ e.bad ↔ descReserved a.d = true ∨ descReserved b.d = true ∨ (o = .steps ∧ x.tb ≠ 31 ∧ descReserved b2.d = true)) ∧
      (6 ∈ e.bad ↔ o = .steps ∧ x.tb = 31) ∧
      (let pair : Prop := o = .steps ∧ x.tb ≠ 31
       let mx (d : Nat) : Prop := dFmt d = 6 ∨ dFmt d = 7
       let qi (d : Nat) : Prop := dFmt d = 0xC ∨ dFmt d = 0xD
       let full (d : Nat) : Prop := dFmt d ≠ 0 ∧ dFmt d ≠ 0x10 ∧ npos (dFmt d) < dRows d * dCols d
       let shapeB (d : Nat) : Prop := full d ∨ 32 < dCols d ∨ dRows d ≤ 32 * x.kb.toNat ∨ ((mx d ∨ qi d) ∧ dLay d ≠ 1 ∧ dLay d ≠ 3) ∨
         (mx d ∧ dRows d % 32 ≠ 0) ∨ (qi d ∧ dRows d % (32 * 2 ^ dGs d) ≠ 0)
       let fmtA : Prop := if o = .stepq then dFmt a.d = 2 ∨ dFmt a.d = 3 ∨ dFmt a.d = 4 ∨ dFmt a.d = 5 else dFmt a.d = f.toNat
       let fmtB (d : Nat) : Prop := dFmt d = f.toNat ∨ ((f = 4 ∨ f = 5) ∧ (dFmt d = 4 ∨ dFmt d = 5)) ∨
         ((f = 0xA ∨ f = 0x11) ∧ (dFmt d = 0xA ∨ dFmt d = 0x11))
       let sparseB (d : Nat) : Prop := dSpar d ≠ 0 ∨ dLay d = 4
       (1 ∈ e.bad ↔ (full a.d ∨ 32 < dRows a.d ∨ dCols a.d ≤ 32 * x.ka.toNat ∨
           (mx a.d ∧ ((dLay a.d ≠ 0 ∧ dLay a.d ≠ 2) ∨ dCols a.d % 32 ≠ 0))) ∨ shapeB b.d ∨ (pair ∧ shapeB b2.d)) ∧
       (2 ∈ e.bad ↔ ¬fmtA ∨ ¬fmtB b.d ∨ (pair ∧ ¬fmtB b2.d)) ∧
       (4 ∈ e.bad ↔ dSpar a.d ≠ (if o = .steps then 1 else 0) ∨ dLay a.d = 4 ∨ sparseB b.d ∨ (pair ∧ sparseB b2.d))) ∧
      (let v := (e.now p).core.vec
       (∀ j, j < 32 → v.opened.getLsbD j = (c.vec.opened.getLsbD j || decide (j = k)) ∧
         v.intm.getLsbD j = (if j = k ∧ x.z = true then int else c.vec.intm.getLsbD j) ∧
         fget none v.openSince j = (if j = k ∧ c.vec.opened.getLsbD k = false then some p.clk else fget none c.vec.openSince j)) ∧
       v.acc = c.vec.acc ∧ v.tiles = c.vec.tiles)) ∧
    (∀ (mask : BitVec 4) (int : Bool),
      let e := planOf (.mzero mask int) idx g p late
      e.bad = [] ∧ (∀ i, i < 4 → (mask.getLsbD i = true ↔ .azero g i ∈ e.effs)) ∧
      ∀ j, j < 32 → (e.now p).core.vec.opened.getLsbD j = (c.vec.opened.getLsbD j || (decide (4 * g ≤ j) && mask.getLsbD (j - 4 * g))) ∧
        (e.now p).core.vec.intm.getLsbD j = (if 4 * g ≤ j ∧ mask.getLsbD (j - 4 * g) = true then int else c.vec.intm.getLsbD j)) ∧
    (∀ (f : BitVec 5) (a : MretOps), plainFmt f.toNat = true →
      let e := planOf (.mret f a) idx g p late
      let k := 4 * g + a.acc.toNat
      let last (n : Nat) : Bool := (fget 0 late.sca.lc n).toNat % 2 ^ 32 == (fget 0 late.sca.lc n).toNat / 2 ^ 32
      let rows := if a.e && last 0 then a.em.toNat + 1 else 32
      let cols := if a.e && last 1 then a.en.toNat + 1 else 32
      let wide : Prop := f = 1 ∨ f = 8
      let fac : XR := if a.ks then decodeF .fp32 ((c.kreg a.kn.toNat).toNat % 2 ^ 32) else .fin false 1
      let y (m n : Nat) : Nat :=
        let w := (c.accOf g a.acc.toNat).toNat / 2 ^ (32 * (32 * m + n)) % 2 ^ 32
        roundTo f.toNat .rne (xmul (if c.vec.intm.getLsbD k then xint (BitVec.ofNat 32 w).toInt else decodeF .fp32 w) fac)
      (e.bad = if wide ∧ a.td = 31 ∧ 16 < rows then [6] else []) ∧
      (∀ m n, m < rows → n < cols →
        let t := if wide ∧ 16 ≤ m then a.td.toNat + 1 else a.td.toNat
        let m' := if wide ∧ 16 ≤ m then m - 16 else m
        let r := if wide then (if 16 ≤ m then rows - 16 else min rows 16) else rows
        ∃ v, .tile g t v ∈ e.effs ∧ elemAt (fmtBits f.toNat) v.toNat (m' * cols + n) = y m n ∧
          .desc g t 0xFFFFFFFF (BitVec.ofNat 32 (mkDesc f.toNat 0 0 0 r cols)) ∈ e.effs) ∧
      ∀ j, j < 32 → (e.now p).core.vec.opened.getLsbD j = (c.vec.opened.getLsbD j && !(a.c && decide (j = k)))) ∧
    (planOf .mchk idx g p late).effs = [.asstat g none]

/-! ### Events of a core -/

/-- R71, R59, R62, R46, R206, R211, R217: RESULT_LAND. The first result in flight that is due lands alone, and writes what its kind names and
nothing else: a register unless WBS or g0, offered to its chain; a tile, part of one or masked positions; a scale side, descriptor bits,
a pointer, a stride, a snapshot, a scale register or a word of one; a loop counter; a held operand; array bytes, a tag, full bits whose
claims end; an MCHK's flags, with what its array answers where that comes at its landing; and a step adds its sums to the accumulator elements inside its rows and columns, first zeroed where Z is
set, in FP32 or exact and saturated, unless its update is withheld.
Assumption log entries 8 and 119 name the choices of the model it rests on. -/
def Obligations.ResultLands : Prop :=
  ∀ (x : Pending) (rest : List Pending) (s : State), stopped s = false → s.core.sca.inflight = x :: rest → x.due ≤ s.clk →
    s.pkg.env.mismatch = [] →
    ∃ t, exec .resultLand s = .next t ∧ t.core.sca.inflight = rest ∧ t.others = s.others ∧ t.core.sca.pc = s.core.sca.pc ∧
      (∀ sl wbs dst v, x.eff = .reg sl wbs dst v →
        (∀ n, t.core.greg n = if n = dst.toNat ∧ n ≠ 0 ∧ wbs = false then v else s.core.greg n) ∧
        (match sl with | .s0 => t.core.sca.land0 | .s1 => t.core.sca.land1) =
          (match (match sl with | .s0 => s.core.sca.land0 | .s1 => s.core.sca.land1) with
           | some (i, w) => if i ≤ x.iss then some (x.iss, v) else some (i, w) | none => some (x.iss, v)) ∧
        t.pkg = s.pkg ∧ t.core.vec = s.core.vec ∧ t.core.sca.lc = s.core.sca.lc) ∧
      (∀ r v, x.eff = .base r v → (∀ n, t.core.greg n = if n = r.toNat ∧ n ≠ 0 then v else s.core.greg n) ∧
        t.core.sca.land0 = s.core.sca.land0 ∧ t.core.sca.land1 = s.core.sca.land1 ∧ t.pkg = s.pkg ∧ t.core.vec = s.core.vec) ∧
      (∀ n v, x.eff = .lcSet n v → (fget 0 t.core.sca.lc n).toNat = v.toNat + 2 ^ 32 * v.toNat ∧ t.core.sca.g = s.core.sca.g ∧ t.pkg = s.pkg) ∧
      (∀ sl b v, x.eff = .held sl b v → (∀ n, t.core.heldReg n = if n = heldIdx sl b then v else s.core.heldReg n) ∧
        t.core.sca.g = s.core.sca.g ∧ t.core.vec = s.core.vec ∧ t.pkg = s.pkg) ∧
      (∀ g k v, x.eff = .tile g k v → t = ((s.modSca fun c => { c with inflight := rest }).modVec fun y => { y with tiles := t.core.vec.tiles }) ∧
        ∀ j, fget 0 t.core.vec.tiles j = if j = 32 * g + k then v else fget 0 s.core.vec.tiles j) ∧
      (∀ g k off len v cb, x.eff = .tileSeg g k off len v cb → off + len ≤ 2048 →
        t = ((s.modSca fun c => { c with inflight := rest }).modVec fun y => { y with tiles := t.core.vec.tiles }) ∧
        (∀ j, j ≠ 32 * g + k → fget 0 t.core.vec.tiles j = fget 0 s.core.vec.tiles j) ∧
        ∀ i, (fget 0 t.core.vec.tiles (32 * g + k)).getLsbD i =
          if 8 * off ≤ i ∧ i < 8 * off + 8 * len then v.testBit (i - 8 * off) else (fget 0 s.core.vec.tiles (32 * g + k)).getLsbD i) ∧
      (∀ g k mask v, x.eff = .tileMask g k mask v →
        t = ((s.modSca fun c => { c with inflight := rest }).modVec fun y => { y with tiles := t.core.vec.tiles }) ∧
        (∀ j, j ≠ 32 * g + k → fget 0 t.core.vec.tiles j = fget 0 s.core.vec.tiles j) ∧
        ∀ i, (fget 0 t.core.vec.tiles (32 * g + k)).getLsbD i =
          if mask.getLsbD i then v.getLsbD i else (fget 0 s.core.vec.tiles (32 * g + k)).getLsbD i) ∧
      (∀ g k mask v, x.eff = .desc g k mask v →
        t = ((s.modSca fun c => { c with inflight := rest }).modVec fun y => { y with descs := t.core.vec.descs }) ∧
        (∀ j, j ≠ 32 * g + k → fget 0 t.core.vec.descs j = fget 0 s.core.vec.descs j) ∧
        ∀ i, (fget 0 t.core.vec.descs (32 * g + k)).getLsbD i =
          if mask.getLsbD i then v.getLsbD i else (fget 0 s.core.vec.descs (32 * g + k)).getLsbD i) ∧
      (∀ g k v, x.eff = .side g k v → t = ((s.modSca fun c => { c with inflight := rest }).modVec fun y => { y with sides := t.core.vec.sides }) ∧
        ∀ j, fget 0 t.core.vec.sides j = if j = 32 * g + k then v else fget 0 s.core.vec.sides j) ∧
      (∀ g q v, x.eff = .ptr g q v → t = ((s.modSca fun c => { c with inflight := rest }).modVec fun y => { y with ptrs := t.core.vec.ptrs }) ∧
        ∀ j, fget 0 t.core.vec.ptrs j = if j = 8 * g + q then v else fget 0 s.core.vec.ptrs j) ∧
      (∀ g q v, x.eff = .stride g q v →
        t = ((s.modSca fun c => { c with inflight := rest }).modVec fun y => { y with strides := t.core.vec.strides }) ∧
        ∀ j, fget 0 t.core.vec.strides j = if j = 8 * g + q then v else fget 0 s.core.vec.strides j) ∧
      (∀ g v, x.eff = .psnap g v → g < 8 →
        t = ((s.modSca fun c => { c with inflight := rest }).modVec fun y => { y with psnap := t.core.vec.psnap }) ∧
        ∀ i, i < 64 → t.core.vec.psnap.getLsbD i = if i / 8 = g then v.getLsbD (i % 8) else s.core.vec.psnap.getLsbD i) ∧
      (∀ n v, x.eff = .kreg n v → t = ((s.modSca fun c => { c with inflight := rest }).modVec fun y => { y with kregs := t.core.vec.kregs }) ∧
        ∀ j, fget 0 t.core.vec.kregs j = if j = n then v else fget 0 s.core.vec.kregs j) ∧
      (∀ n w v, x.eff = .kword n w v → w < 8 →
        t = ((s.modSca fun c => { c with inflight := rest }).modVec fun y => { y with kregs := t.core.vec.kregs }) ∧
        (∀ j, j ≠ n → fget 0 t.core.vec.kregs j = fget 0 s.core.vec.kregs j) ∧
        ∀ i, i < 256 → (fget 0 t.core.vec.kregs n).getLsbD i = if i / 32 = w then v.getLsbD (i % 32) else (fget 0 s.core.vec.kregs n).getLsbD i) ∧
      (∀ g o, x.eff = .asstat g o → g < 8 →
        let b := (match o with | some b => b | none => decide ((s.no, g) ∈ s.pkg.env.mchkFail))
        t = (((s.modSca fun c => { c with inflight := rest }).modVec fun y => { y with asstat := t.core.vec.asstat }).modPkg fun p =>
          { p with env := { p.env with mchkFail :=
              (match o with | some _ => p.env.mchkFail | none => p.env.mchkFail.erase (s.no, g)) } }) ∧
        t.core.vec.asstat.getLsbD (48 + g) = true ∧ t.core.vec.asstat.getLsbD (56 + g) = b ∧
        (∀ i, i < 64 → i ≠ 48 + g → i ≠ 56 + g → b = false ∨ (32 ≤ i ∧ i ≠ 32 + g ∧ i ≠ 40 + g) →
          t.core.vec.asstat.getLsbD i = s.core.vec.asstat.getLsbD i) ∧
        (b = true → t.core.vec.asstat.toNat % 2 ^ 32 = min (s.core.vec.asstat.toNat % 2 ^ 32 + 1) (2 ^ 32 - 1) ∧
          t.core.vec.asstat.getLsbD (32 + g) = true ∧
          t.core.vec.asstat.getLsbD (40 + g) = (s.core.vec.asstat.getLsbD (40 + g) || s.core.vec.asstat.getLsbD (32 + g)))) ∧
      (∀ g off bs, x.eff = .array g off bs → t.core.sca.g = s.core.sca.g ∧ t.core.vec = s.core.vec ∧
        ∀ a, readByte t.pkg a = if arrayBase s.no + off ≤ a ∧ a < arrayBase s.no + off + bs.length
          then bs.getD (a - (arrayBase s.no + off)) 0 else readByte s.pkg a) ∧
      (∀ g off v, x.eff = .tag g off v → t.core.vec = s.core.vec ∧ t.pkg.mem = s.pkg.mem ∧
        ∀ a, tagAt t.pkg a = if a / 2048 = (arrayBase s.no + off) / 2048 then v else tagAt s.pkg a) ∧
      (∀ off n, x.eff = .full off n → t.core.vec = s.core.vec ∧ t.pkg.mem = s.pkg.mem ∧
        (∀ a, fullAt t.pkg a = if (arrayBase s.no + off) / 128 ≤ a / 128 ∧ a / 128 < (arrayBase s.no + off) / 128 + n then true else fullAt s.pkg a) ∧
        (∀ k, k ∈ t.core.lsu.claims ↔ k ∈ s.core.lsu.claims ∧ ¬ (off / 128 ≤ k ∧ k < off / 128 + n))) ∧
      (∀ g a, x.eff = .azero g a → t = ((s.modSca fun c => { c with inflight := rest }).modVec fun y => { y with acc := t.core.vec.acc }) ∧
        ∀ j, fget 0 t.core.vec.acc j = if j = 4 * g + a then 0 else fget 0 s.core.vec.acc j) ∧
      (∀ g a z rows cols sums idx, x.eff = .stepI g a z rows cols sums idx false →
        (∀ m n, m < 32 → n < 32 →
          let old := (fget 0 s.core.vec.acc (4 * g + a)).toNat / 2 ^ (32 * (32 * m + n)) % 2 ^ 32
          let start := if z then 0 else old
          (fget 0 t.core.vec.acc (4 * g + a)).toNat / 2 ^ (32 * (32 * m + n)) % 2 ^ 32 =
            if m < rows ∧ n < cols then accumI start (sums.getD (m * cols + n) 0) % 2 ^ 32 else start) ∧
        (∀ j, j ≠ 4 * g + a → fget 0 t.core.vec.acc j = fget 0 s.core.vec.acc j) ∧ t.core.sca.g = s.core.sca.g ∧ t.pkg = s.pkg) ∧
      (∀ g a z rows cols sums idx, x.eff = .stepF g a z rows cols sums idx false →
        (∀ m n, m < 32 → n < 32 →
          let old := (fget 0 s.core.vec.acc (4 * g + a)).toNat / 2 ^ (32 * (32 * m + n)) % 2 ^ 32
          let start := if z then 0 else old
          (fget 0 t.core.vec.acc (4 * g + a)).toNat / 2 ^ (32 * (32 * m + n)) % 2 ^ 32 =
            if m < rows ∧ n < cols
            then roundNE .fp32 (xadd (decodeF .fp32 start) (sums.getD (m * cols + n) (.fin false 0))) % 2 ^ 32 else start) ∧
        (∀ j, j ≠ 4 * g + a → fget 0 t.core.vec.acc j = fget 0 s.core.vec.acc j) ∧ t.core.sca.g = s.core.sca.g ∧ t.pkg = s.pkg) ∧
      (∀ g a z rows cols sums idx, x.eff = .stepI g a z rows cols sums idx true → t = s.modSca fun c => { c with inflight := rest }) ∧
      (∀ g a z rows cols sums idx, x.eff = .stepF g a z rows cols sums idx true → t = s.modSca fun c => { c with inflight := rest })

/-- R217, R218, R330, R354: the assay. A step due whose group has a mismatch listed does not land: with replays allowed the sequencer stops, what
else is in flight keeps its remaining clk, and the mismatch is counted; ASSAY_REPLAY with no further mismatch lands it and puts the
rest back in flight from then. Where no replay is allowed, or the last mismatches again, ASSAY is reported, and the update is withheld. Where
the action entry lies in memory that is not reached, the stop waits for it (log entry 137).
Assumption log entries 24 and 137 name the choices of the model it rests on. -/
def Obligations.AssayStopAndReplay : Prop :=
  ∀ s : State, stopped s = false →
    (∀ (x : Pending) (rest : List Pending) (g idx : Nat), s.core.sca.inflight = x :: rest → x.due ≤ s.clk → stepWhere x.eff = some (g, idx) →
      (s.no, g) ∈ s.pkg.env.mismatch →
      ∃ t, exec .resultLand s = .next t ∧ t.core.vec.acc = s.core.vec.acc ∧ t.core.vec.asstat = countMismatch s.core.vec.asstat g ∧
        t.core.sca.g = s.core.sca.g ∧ t.pkg.mem = s.pkg.mem ∧
        (s.actLost 13 = none → 0 < s.assayReplays → t.core.trp.assay = some (x, 1) ∧ t.core.trp.assayAsks = false ∧ t.core.trp.assayDue = s.clk + 199 ∧
          t.core.trp.assayRecs = rest.map (fun y => { y with due := y.due - s.clk }) ∧ t.core.sca.inflight = []) ∧
        (s.actLost 13 ≠ none → t.core.trp.assay = some (x, 0) ∧ t.core.trp.assayAsks = true ∧ t.core.sca.inflight = []) ∧
        (s.actLost 13 = none → s.assayReplays = 0 → s.core.trp.reports.length < 16 → t.core.sca.inflight = rest ∧ t.core.trp.assay = s.core.trp.assay ∧
          ∃ r, t.core.trp.reports = s.core.trp.reports ++ [r] ∧ r.info = assayCause g idx ∧ r.tbun = x.tbun)) ∧
    (∀ (x : Pending) (n g idx : Nat), s.core.trp.assay = some (x, n) → stepWhere x.eff = some (g, idx) → s.core.trp.assayAsks = true →
      (s.actLost 13 = none → ∃ t, exec .assayReplay s = .next t ∧ t.core.vec = s.core.vec ∧ t.core.sca.g = s.core.sca.g ∧ t.pkg.mem = s.pkg.mem ∧
        (n < s.assayReplays → t.core.trp.assay = some (x, n + 1) ∧ t.core.trp.assayAsks = false ∧ t.core.trp.assayDue = s.clk + 199) ∧
        (s.assayReplays ≤ n → t.core.trp.assay = none)) ∧
      (∀ a, s.actLost 13 = some a → s.core.un.lost = [] → ∃ t, exec .assayReplay s = .next t ∧ t.core.trp = s.core.trp ∧ t.core.sca = s.core.sca ∧
        t.core.vec = s.core.vec ∧ t.pkg = s.pkg)) ∧
    (∀ (x : Pending) (n g idx : Nat), s.core.trp.assay = some (x, n) → stepWhere x.eff = some (g, idx) → s.core.trp.assayAsks = false →
      (s.no, g) ∉ s.pkg.env.mismatch →
      ∃ t, exec .assayReplay s = .next t ∧ t.core.trp.assay = none ∧ t.core.vec = (applyEff x.iss x.eff s).core.vec ∧
        t.core.tab.xnext = s.clk + s.core.trp.assayRem ∧ t.core.sca.hold = s.clk + s.core.trp.assayHold ∧
        (∀ y ∈ s.core.trp.assayRecs, ∃ z ∈ t.core.sca.inflight, z.due = s.clk + y.due ∧ z.eff = y.eff) ∧
        t.core.sca.g = s.core.sca.g ∧ t.pkg = s.pkg) ∧
    (∀ (x : Pending) (n g idx : Nat), s.core.trp.assay = some (x, n) → stepWhere x.eff = some (g, idx) → s.core.trp.assayAsks = false →
      s.actLost 13 = none → (s.no, g) ∈ s.pkg.env.mismatch →
      ∃ t, exec .assayReplay s = .next t ∧ t.core.vec.acc = s.core.vec.acc ∧ t.core.vec.asstat = countMismatch s.core.vec.asstat g ∧
        t.core.sca.g = s.core.sca.g ∧ t.pkg.mem = s.pkg.mem ∧
        (n < s.assayReplays → t.core.trp.assay = some (x, n + 1) ∧ t.core.trp.assayDue = s.clk + 199 ∧ t.core.sca.inflight = s.core.sca.inflight) ∧
        (s.assayReplays ≤ n → s.core.trp.reports.length < 16 → t.core.trp.assay = none ∧
          ∃ r, t.core.trp.reports = s.core.trp.reports ++ [r] ∧ r.info = assayCause g idx ∧ r.tbun = x.tbun))

/-- R119, R125, R132, R139, R140, R146 to R148, R277, R353, R369: the events of the two queues. QUEUE_DISPATCH takes the head of a queue where nothing holds it: a
store, a load that bypasses the cache or misses it joins the accesses in progress, a far store counting in ACKCNT; a load that hits lands its
line's bytes; a token that may go goes; TLREAD lands its
timeline and PCNT its counter's double 0 as it is then, but where that word fails ECC MEMUE is reported afterwards, as a deferred cause (log entry 15); a RINV first takes its lines from the cache and keeps the head for its clk. WRITE_ACKNOWLEDGEMENT gives a count back. TLB_WALK brings in the page waited for. INGRESS_FLUSH, after
2^20 clk of a full buffer, applies it at the boundary the unit stands at, in a stall too, and holds the bundle due for 3 clk; where the unit leaves it is
applied at once. A far store to a peer that cannot be reached gives
its count back 2^26 clk after its dispatch and, unless it was killed, is reported as MEMUE.
That tokens take none of the 64 entries of a queue is the model's choice (log entry 10). That the micro-TLB holds the 256 newest pages (log entry 47) and that RINV
drops lines by their virtual lines (log entry 12) is the model's choice too.
Assumption log entries 10, 11, 12, 15, 16, 35 and 47 name the choices of the model it rests on. -/
def Obligations.QueueEvents : Prop :=
  ∀ s : State, stopped s = false →
    (∀ (e : QEntry) (rest : List QEntry), s.core.lsu.storeQ = e :: rest → s.mayDispatch true e = true →
      (∀ c ∈ s.core.eng.cmds, c.tl = 8 → c.st ≠ .ready) →
      (∀ va pa size data dev, e.op = .store va pa size data dev → ∃ t, exec (.queueDispatch true) s = .next t ∧ t.core.lsu.storeQ = rest ∧
        t.core.lsu.outst = s.core.lsu.outst ++ [{ e with since := s.clk }] ∧ t.core.lsu.ackcnt = s.core.lsu.ackcnt + (if e.far then 1 else 0) ∧
        t.core.sca = s.core.sca ∧ t.core.vec = s.core.vec ∧ t.pkg.mem = s.pkg.mem) ∧
      (∀ scp, e.op = .relTok scp → ∃ t, exec (.queueDispatch true) s = .next t ∧ t.core.lsu.storeQ = rest ∧
        t.core.lsu.outst = s.core.lsu.outst ∧ t.core.sca = s.core.sca ∧ t.pkg.mem = s.pkg.mem)) ∧
    (∀ (e : QEntry) (rest : List QEntry) (va pa size : Nat) (signed cell dev : Bool), s.core.lsu.loadQ = e :: rest → s.mayDispatch false e = true →
      (∀ c ∈ s.core.eng.cmds, c.tl = 8 → c.st ≠ .ready) → e.op = .load va pa size signed cell dev true → ∃ t, exec (.queueDispatch false) s = .next t ∧ t.core.lsu.loadQ = rest ∧
        t.core.lsu.outst = s.core.lsu.outst ++ [{ e with since := s.clk }] ∧ t.core.sca = s.core.sca ∧ t.core.vec = s.core.vec ∧ t.pkg.mem = s.pkg.mem) ∧
    (∀ (e : QEntry) (rest : List QEntry), s.core.lsu.loadQ = e :: rest → s.mayDispatch false e = true →
      (∀ c ∈ s.core.eng.cmds, c.tl = 8 → c.st ≠ .ready) → e.res = true → e.dead = false → e.bank = none → s.core.trp.assay = none →
      (∀ (va pa size : Nat) (signed dev : Bool), e.op = .load va pa size signed false dev false →
        (∀ (line : BitVec 1024), s.core.lsu.hit va pa = some line →
          ∃ t, exec (.queueDispatch false) s = .next t ∧ t.core.lsu.loadQ = rest ∧ t.core.lsu.outst = s.core.lsu.outst ∧
            (let v : Double := loadValue size signed (line.toNat / 2 ^ (8 * (pa % 128)) % 2 ^ (8 * size))
             t.core.sca = { s.core.sca with inflight := insPending (returned s e v) s.core.sca.inflight }) ∧
            t.core.vec = s.core.vec ∧ t.pkg = s.pkg ∧ fget 0 t.core.un.perf 9 = fget 0 s.core.un.perf 9 + 1) ∧
        (s.core.lsu.hit va pa = none → ∃ t, exec (.queueDispatch false) s = .next t ∧ t.core.lsu.loadQ = rest ∧
          t.core.lsu.outst = s.core.lsu.outst ++ [{ e with since := s.clk }] ∧ t.core.sca = s.core.sca ∧ t.core.vec = s.core.vec ∧ t.pkg = s.pkg ∧
          fget 0 t.core.un.perf 10 = fget 0 s.core.un.perf 10 + 1)) ∧
      (∀ (v : Double), (∃ n, e.op = .tlread n ∧ v = BitVec.ofNat 64 (s.core.tlValue n)) ∨
          (∃ pa, e.op = .pcnt pa ∧ badData s.pkg pa 8 = false ∧ v = BitVec.ofNat 64 (readNat s.pkg pa 8)) →
        ∃ t, exec (.queueDispatch false) s = .next t ∧ t.core.lsu.loadQ = rest ∧ t.core.lsu.outst = s.core.lsu.outst ∧
          t.core.sca = { s.core.sca with inflight := insPending (returned s e v) s.core.sca.inflight } ∧ t.core.vec = s.core.vec ∧ t.pkg = s.pkg) ∧
      (∀ pa, e.op = .pcnt pa → badData s.pkg pa 8 = true → ∃ t, exec (.queueDispatch false) s = .next t ∧ t.core.lsu.loadQ = rest ∧
        t.core.lsu.outst = s.core.lsu.outst ++ [{ e with since := s.clk }] ∧ t.core.sca = s.core.sca ∧ t.pkg = s.pkg)) ∧
    (∀ (id : Nat) (e : QEntry) (pa : Nat), s.core.lsu.outst.find? (fun x => x.id == id) = some e → e.op = .pcnt pa →
      mayPerform e s.core.lsu.outst = true → s.core.trp.reports.length < 16 →
      ∃ t r, exec (.accessPerformed id) s = .next t ∧ t.core.lsu.outst = s.core.lsu.outst.filter (fun x => x.id ≠ id) ∧ t.core.sca = s.core.sca ∧
        t.core.trp.reports = s.core.trp.reports ++ [r] ∧ r.info.cause = 5 ∧ r.info.eng = 0 ∧ r.tbun = e.tbun ∧ r.deferred = true ∧
        r.info.tstat = 0xFF_FFFF_FFC0_0000 + (pa - arrayBase s.no)) ∧
    (∀ (e : QEntry) (rest : List QEntry) (a b : Nat), s.core.lsu.loadQ = e :: rest → e.op = .rinv a b →
      (∀ c ∈ s.core.eng.cmds, c.tl = 8 → c.st ≠ .ready) →
      (s.core.lsu.rinvHeld = none → ∃ t, exec (.queueDispatch false) s = .next t ∧ t.core.lsu.loadQ = e :: rest ∧
        t.core.lsu.rinvHeld = some (e.id, s.clk + (min b (2 ^ 20) + 16383) / 16384) ∧
        (∀ x, x ∈ t.core.lsu.cache ↔ x ∈ s.core.lsu.cache ∧
          ¬ (2 ^ 20 ≤ b ∨ (0 < b ∧ 128 * x.1 < va56 a + b ∧ va56 a < 128 * x.1 + 128))) ∧ t.core.sca = s.core.sca ∧ t.pkg.mem = s.pkg.mem) ∧
      (∀ u, s.core.lsu.rinvHeld = some (e.id, u) →
        (s.clk < u → ∃ t, exec (.queueDispatch false) s = .next t ∧ t.core.lsu = s.core.lsu) ∧
        (u ≤ s.clk → ∃ t, exec (.queueDispatch false) s = .next t ∧ t.core.lsu.loadQ = rest ∧ t.core.lsu.rinvHeld = none))) ∧
    (∀ (k : Nat) (ks : List Nat), s.core.lsu.acks = k :: ks → exec .writeAcknowledgement s =
      .next (s.modLsu fun l => { l with acks := ks, ackcnt := l.ackcnt - 1 })) ∧
    (∀ pg, missPage s = some pg → ∃ t, exec .tlbWalk s = .next t ∧
      (∀ l, walk s.pkg s.root (pg * 65536) = .ok l → t.core.lsu.utlb = (pg :: s.core.lsu.utlb).take 256 ∧ t.core.lsu.walked = s.core.lsu.walked) ∧
      (∀ e, walk s.pkg s.root (pg * 65536) = .error e → t.core.lsu.walked = some pg ∧ t.core.lsu.utlb = s.core.lsu.utlb) ∧
      fget 0 t.core.un.perf 11 = fget 0 s.core.un.perf 11 + 1 ∧ t.core.sca = s.core.sca ∧ t.pkg = s.pkg) ∧
    (∀ k, s.core.lsu.ingressFull = some k → k + 2 ^ 20 ≤ s.clk →
      (s.core.un.st = .running → s.core.trp.assay = none → s.core.sca.hold ≤ s.clk →
        exec .ingressFlush s = .next ((s.applyHwin 64).modSca fun c => { c with hold := s.clk + 3, hwinHeld := false, flushHeld := true })) ∧
      (∀ how, s.core.un.st = .leaving how → exec .ingressFlush s = .next (s.applyHwin 64)) ∧
      (s.applyHwin 64).core.lsu.ingressFull = none ∧ (s.core.lsu.ingress.length ≤ 64 → (s.applyHwin 64).core.lsu.ingress = [])) ∧
    (∀ (id : Nat) (e : QEntry) (va pa size : Nat) (data : Double) (dev : Bool), s.core.lsu.outst.find? (fun x => x.id == id) = some e →
      e.op = .store va pa size data dev → isPeer pa = true → peerLost s.pkg pa = true → e.far = true → e.since + 2 ^ 26 ≤ s.clk →
      (e.dead = true ∨ s.core.trp.reports.length < 16) →
      ∃ t, exec (.peerUnreachable id) s = .next t ∧ t.core.lsu.outst = s.core.lsu.outst.filter (fun x => x.id ≠ id) ∧
        t.core.lsu.ackcnt = s.core.lsu.ackcnt - 1 ∧ t.core.sca = s.core.sca ∧ t.pkg.mem = s.pkg.mem ∧
        (e.dead = true → t.core.trp = s.core.trp ∧ t.pkg.mgmt.msix = s.pkg.mgmt.msix ++ [20]) ∧
        (e.dead = false → ∃ r, t.core.trp.reports = s.core.trp.reports ++ [r] ∧ r.info.cause = 5 ∧ r.info.eng = 7 ∧
          r.info.tstat = va % 2 ^ 56 ∧ r.tbun = e.tbun ∧ r.deferred = false))

/-- R314, R330, R331, R337, R338, R347, R369: what comes at a boundary. A report is due at level 0 outside a shift-change wait: the one reported at the lowest
GTS, ties to the lower timeline counter. TRAP_TAKE takes that report and no other, before the bundle due or while the unit leaves: it leaves the queue, one that was
held for want of room joins it, and the command it belongs to has ended. The action is that of the cause's entry: a deferred cause is
replayed while fewer than RCOUNT replays were made (the bundle due issues again; a dispatcher's request is not repeated, log entry 21), an engine's
never, and AFTER takes the place of a replay; the result of a deferred dispatcher cause that waits for a re-entry lands first. Where the entry is in
memory that is not reached the cause waits (log entry 137). PREEMPTION keeps each result in flight, with its remaining clk, in the records of
bank 0, an MCHK with the result it takes then, and marks the accesses still queued for it: as at a park (R338), the model's reading (log entries 24 and 48). PREEMPTION_DUE and DEPTH each do what their rule says once their condition holds.
Assumption log entries 19, 21, 24, 48 and 137 name the choices of the model it rests on. -/
def Obligations.BoundaryEvents : Prop :=
  ∀ s : State, stopped s = false →
    (reportDue s = none ↔ s.core.trp.level ≠ 0 ∨ s.core.tab.wait ≠ none ∨ s.core.trp.reports = []) ∧
    (∀ r : Report, reportDue s = some r → r ∈ s.core.trp.reports ∧ ∀ q ∈ s.core.trp.reports, r.gts < q.gts ∨ r.gts = q.gts ∧ r.ord ≤ q.ord) ∧
    (∀ r : Report, reportDue s = some r →
      (s.core.un.st = .running ∧ atBoundary issueSem fetchBundle s = true ∧ s.core.trp.stepDue = false) ∨
        (((∃ a b, s.core.un.st = .leaving (.suspend a b)) ∨ (∃ a, s.core.un.st = .leaving (.finish a)) ∨
            (∃ a b, s.core.un.st = .leaving (.cellWait a b))) ∧
          s.core.sca.inflight = [] ∧ s.core.trp.assay = none ∧ s.core.trp.reentry = none ∧ s.core.sca.cellStall = none ∧ s.core.trp.raised = none) →
      ∃ t, exec .trapTake s = .next t ∧
        (let mine (x : Pending) : Bool := x.due == 0 && x.tbun == r.tbun
         let landed : State := (match s.core.trp.reentry with
           | some k => if r.deferred = true ∧ r.info.eng = 5
               then (k.recs.filter mine).foldl (fun s x => applyEff x.iss x.eff s)
                 (s.modTrp fun t => { t with reentry := some { k with recs := k.recs.filter fun x => !mine x } })
               else s
           | none => s)
         let u : State := (landed.modTrp fun t => { t with reports := removeReport r t.reports }.acceptHeld).modEng fun e =>
           { e with cmds := e.cmds.map fun (c : Cmd) => if r.cmd ≠ 0 ∧ c.id = r.cmd then { c with st := .ended } else c }
         let e := u.actFor r.info.cause
         (u.actLost r.info.cause = none →
           t = u.applyAct (if e.act = .replay then (if r.deferred = true ∧ u.core.trp.replays < e.rcount then .replay else e.after) else e.act)
             e.handler r.info r.tbun) ∧
         (u.actLost r.info.cause ≠ none → ∃ x, t = u.modTrp (fun y => { y with raised := some x }) ∧ x.info = r.info ∧ x.tbun = r.tbun))) ∧
    (s.core.un.st = .running → s.core.un.start + 2 ^ 22 ≤ s.clk → s.higherWaits = true →
      exec .preemptionDue s = .next (s.modTrp fun t => { t with preemptDue := true })) ∧
    (s.core.trp.preemptDue = true → s.mayPreempt = true → reportDue s = none → s.core.trp.stepDue = false →
      atBoundary issueSem fetchBundle s = true → ∃ t, exec .preemption s = .next t ∧ t.core.un.st = .leaving .preempt ∧
      t.core.trp.preemptDue = false ∧ t.core.sca.inflight = [] ∧ t.core.sca.pc = s.core.sca.pc ∧ t.core.sca.g = s.core.sca.g ∧ t.pkg.mem = s.pkg.mem ∧
      t.core.trp.parkRem = (match s.core.trp.reentry with | some r => r.rem | none => s.core.tab.xnext - s.clk) ∧
      (∃ recs : List Pending, t.core.trp.bank0recs = s.core.trp.bank0recs ++ s.core.trp.reRecs ++ recs ∧ recs.length = s.core.sca.inflight.length ∧
        ∀ (i : Nat) (x : Pending), s.core.sca.inflight[i]? = some x → ∃ y : Pending, recs[i]? = some y ∧ y.due = x.due - s.clk ∧ y.iss = x.iss ∧ y.tbun = x.tbun ∧
          ((∀ g, x.eff ≠ .asstat g none) → y.eff = x.eff) ∧ (∀ g, x.eff = .asstat g none → ∃ f, y.eff = .asstat g (some f))) ∧
      (let mark (e : QEntry) : QEntry := if e.bank = none then { e with bank := some 0 } else e
       t.core.lsu.loadQ = s.core.lsu.loadQ.map mark ∧ t.core.lsu.storeQ = s.core.lsu.storeQ.map mark ∧
         t.core.lsu.outst = s.core.lsu.outst.map mark)) ∧
    (∀ (k : Nat) (since : Nat) (more : List (Nat × Nat)), s.tooDeep = (k, since) :: more → s.core.trp.reports.length < 16 →
      s.core.un.maxdepth + 4096 < s.clk - since ∧ s.core.vec.depthRaised.getLsbD k = false ∧
      ∃ t, exec .depth s = .next t ∧ t.core.vec.depthRaised = s.core.vec.depthRaised ||| (1#32 <<< k) ∧
        (∃ r, t.core.trp.reports = s.core.trp.reports ++ [r] ∧ r.info.cause = 31 ∧ r.info.tstat = s.clk - since ∧ r.tbun = s.core.sca.pc) ∧
        t.core.sca = s.core.sca ∧ t.pkg = s.pkg)
/-! ### A bundle, a step and a context -/

/-- R64, R75, R102, R104, R125: BUNDLE_ISSUE where no bundle boundary cause precedes the bundle. The bundle fetched at pc stalls while one of its
operations waits; then it issues: its operations act in the order S0, S1, X, C, E, and it ends, or it stalls where together they overfill a
queue. Each operation acts on the state its bundle began with and on what those before it have done. A precise fault of one of them, or of the fetch, is taken in its place. A bundle that holds one operation does what that operation
does by itself.
That tokens take none of the 64 entries of a queue is the model's choice (log entry 10).
Assumption log entries 8, 9 and 10 name the choices of the model it rests on. -/
def Obligations.BundleIssue : Prop :=
  (∀ b : Bundle, bundleOps b = b.s0.toList ++ b.s1.toList ++ b.x.toList ++ b.c.toList ++ b.e.toList) ∧
  (∀ (p u : State), runOps issueSem [] p u = .ok u ∧ ∀ (i : Instr) (is : List Instr),
    runOps issueSem (i :: is) p u = match (issueSem i).op p u with | .ok v => runOps issueSem is p v | .trap c => .trap c) ∧
  ∀ s : State, Boundary s →
    (∀ b : Bundle, fetchBundle s = .ok b → ingressStall b s = false → (∀ h a, b.s0 ≠ some (.tswap h a)) →
      let q := openBundle false b s
      let p := beginBundle b s
      joinWaits (baseWaits b q) = .go →
      (∀ ks, bundleWait issueSem b q = .stall ks → exec .bundleIssue s = .next (stalled ks s)) ∧
      (bundleWait issueSem b q = .go →
        (∀ u, runOps issueSem (bundleOps b) p p = .ok u → exec .bundleIssue s =
          .next (if queuesOver b p u then stalled [4] s else (endBundle mtsWrite b u).endTurn)) ∧
        (∀ c, runOps issueSem (bundleOps b) p p = .trap c → exec .bundleIssue s = .next (trapped s c)))) ∧
    (∀ c, fetchBundle s = .error c → exec .bundleIssue s = .next (if s.core.sca.cellStall = none then trapped s c else stalled [18] s)) ∧
    (∀ i : Instr, i.slot?.isSome = true → fetchBundle s = .ok (Bundle.single i) → exec .bundleIssue s = exec i s)

/-- One step of the package. A result due lands; else an event whose latest time has come happens; else the head of the agenda, which is refused
where it is no event; else, where no agent has anything to do and a unit runs, the bundle at pc is fetched: from a scanned-executable page
(R104), inside its object's code (R303), with good ECC (R75). Where its bytes decode to the bundle that holds `i` alone, the step is exec of `i`.
Assumption log entries 1 and 71 name the choices of the model it rests on. -/
def Obligations.StepRunsDecoded : Prop :=
  ∀ s : State,
    (∀ (x : Pending) (rest : List Pending), s.core.sca.inflight = x :: rest → x.due ≤ s.clk → stopped s = false →
      step s = exec .resultLand s) ∧
    (landingDue s = false → ∀ i, dueNow s = some i → step s = exec i s) ∧
    (landingDue s = false → dueNow s = none → ∀ (i : Instr) (rest : List Instr), s.agenda = i :: rest →
      (i.slot? = none → step s = exec i { s with agenda := rest }) ∧ (i.slot?.isSome = true → step s = .refused .badAgenda)) ∧
    (∀ (i : Instr) (pa : Nat), landingDue s = false → dueNow s = none → s.agenda = [] → defaultPick s = none → stopped s = false →
      s.core.un.st = .running → fetchPa s s.core.sca.pc = .ok pa → s.core.entryOutside = false → badData s.pkg pa 32 = false →
      decodeBundle (readNat s.pkg pa 32) = .ok (Bundle.single i) → s.core.tab.bindBad = false → i.slot?.isSome = true →
      step s = exec i s)

/-- R338, R347, R348, R350: CONTEXT_SAVE and CONTEXT_RESTORE. Where the accesses and commands of a unit that is being pre-empted or parked
are done, it has an area that can be reached, and every byte of it can be written, the context leaves the core: it is kept under its area with all its
registers, the core is idle, and the unit joins its core's run list (pre-empted) or is held for the host, which vector 21 tells (parked).
A context picked up from a run list whose area can be read comes back, once the carve-out has the size the area gives, as the area's sections hold
it: pc, registers, tiles and trap banks,
running, with the latches zero and the area free; what was in flight waits for the clk of the next bundle, at least the clk after.
Assumption log entries 48, 49, 50, 57 and 114 name the choices of the model it rests on. -/
def Obligations.ContextSaveRestore : Prop :=
  ∀ s : State, stopped s = false →
    (∀ (how : Leave) (u v w : State) (area : Nat), s.core.un.st = .leaving how → how = .preempt ∨ (∃ i b, how = .park i b) →
      s.takeArea.drainIngress.saveReady = some u → s.takeArea.core.un.area = some area →
      u.areaLost true (poolBase u.core.trp.ctxpool + area * poolSize u.core.trp.ctxpool)
        (min (poolSize u.core.trp.ctxpool) (0x44_0040 + u.core.recordArea.length)) = none →
      saveSections (poolBase u.core.trp.ctxpool + area * poolSize u.core.trp.ctxpool) (poolSize u.core.trp.ctxpool)
        (0x44_0040 + u.core.recordArea.length) u.sections u = (v, none) →
      saveBytes 2 (poolBase u.core.trp.ctxpool + area * poolSize u.core.trp.ctxpool + 0x44_0000) (leBytes 8 (2 ^ 63 + 1)) v = (w, none) →
      ∃ t, exec .contextSave s = .next t ∧ t.core.un.st = .idle ∧ t.core.sca.inflight = [] ∧ t.core.lsu.cache = [] ∧
        (∃ x c, t.pkg.saved = w.pkg.saved ++ [(x, c)] ∧ x.area = w.core.un.job * 65536 + area ∧ x.core = w.no ∧ x.job = w.core.un.job ∧
          c.sca = w.core.sca ∧ c.vec = w.core.vec ∧ c.trp = w.core.trp ∧ c.un.recd = w.core.un.recd ∧
          (how = .preempt → x.parked = false ∧ ∃ q, t.core.un.runList = insertRun q w.core.un.runList ∧ q.recd = w.core.un.recd ∧
            q.saved = some x.area ∧ t.pkg.mgmt.msix = w.pkg.mgmt.msix) ∧
          (∀ i b, how = .park i b → x.parked = true ∧ x.info = i ∧ x.tbun = b ∧ t.core.un.runList = w.core.un.runList ∧
            t.pkg.mgmt.msix = w.pkg.mgmt.msix ++ [21])) ∧
        t.pkg.mem = w.pkg.mem) ∧
    (∀ (q : QRec) (u : State) (key size : Nat) (sv : Saved) (old new : Core) (a b c : State),
      s.pick = some (s.no, q, u) → u.no = s.no → q.saved = some key → s.pkg.saved.find? (fun x => x.1.area == key) = some (sv, old) →
      s.core.lsu.move = none → new.trp.resumeLeave = none →
      a = u.modUn (fun n => { n with job := sv.job }) →
      let base := poolBase old.trp.ctxpool + sv.area % 65536 * poolSize old.trp.ctxpool
      a.readArea (base + 0x43_1000) 8 = .ok size → s.core.lsu.size = min size 4 → readContext a base old = .ok (b, new) → c = (saveBytes 2 (base + 0x44_0000) (leBytes 8 1) b).1 →
      ∃ t, exec .contextRestore s = .next t ∧ t.core.un.st = .running ∧ t.core.un.recd = new.un.recd ∧ t.core.sca.pc = new.sca.pc ∧
        t.core.sca.g = new.sca.g ∧ (∀ n, t.core.latch n = 0) ∧ t.core.sca.held = new.sca.held ∧ t.core.sca.lc = new.sca.lc ∧
        t.core.sca.spst = new.sca.spst ∧ t.core.sca.br1 = new.sca.br1 ∧ t.core.sca.br2 = new.sca.br2 ∧ t.core.sca.hold = c.clk + 1 ∧
        t.core.trp.level = new.trp.level ∧ t.core.trp.bank1 = new.trp.bank1 ∧ t.core.trp.bank2 = new.trp.bank2 ∧
        t.core.vec.tiles = new.vec.tiles ∧ t.core.vec.acc = new.vec.acc ∧ t.core.sca.inflight = [] ∧ t.core.tab.xnext = 0 ∧
        t.core.trp.reentry = some { recs := new.trp.bank0recs, rem := new.trp.parkRem, start := c.clk + 1 } ∧
        t.core.tab.ents = c.core.tab.ents ∧ t.pkg.mem = c.pkg.mem ∧ (∀ x ∈ t.pkg.saved, x.1.area ≠ key))

/-! ### Cells and the work hierarchy -/

/-- R310, R319, R321 to R327, R353: CELL_OPERATION and RESOLVE_ON_FIRE, by the state of the cell. A load or FREG on a VALUE cell returns it. FREG
on a SUSPENDED or PENDING cell parks its continuation there and returns 0; its launch counts it, and the evaluation that it starts. A load on a SUSPENDED
cell that is not its own evaluator's makes it PENDING and parks the unit with what its load is to write, which resumes at its next bundle; the evaluator it
starts is queued from the cell's record, owned by the unit's launch, which counts it, on the die the record's bits 1:0 ask for. A load by the cell's
own evaluator raises SELFDEP, CELLMK on a PENDING cell CELLBUSY, and RESOLVE on a VALUE cell DBLRES; the cell is as it was. CELLMK writes its
record and sets SUSPENDED, or makes a future with the issuer's launch slot. SPECEV makes a SUSPENDED cell PENDING and speculative. RESOLVE
makes a SUSPENDED cell VALUE; of a PENDING one it delivers to the unit parked there, which is queued on its die at its priority (a RESOLVE
is on its way for 2 clk at least). A resolution armed by RESOLVE.on does the same once its timeline has reached its number, and on a VALUE cell raises DBLRES,
but none where it was killed. Where the bits of the cell's state fail ECC, MEMUE is reported and the cell is as it was (log entry 140).
Assumption log entries 41, 42, 75, 86, 88, 118 and 140 name the choices of the model it rests on. -/
def Obligations.CellEvents : Prop :=
  ∀ s : State, stopped s = false →
    (∀ (id : Nat) (e : QEntry), s.core.lsu.outst.find? (fun x => x.id == id) = some e → mayPerform e s.core.lsu.outst = true → e.dead = false →
      (∀ a, e.op.place = some a → peerLost s.pkg a = false) →
      let rep (cause tstat : Nat) : Report :=
        { info := { cause := cause, slot := 1, gmask := 0, reason := 0, tl := 0, eng := 5, tlnum := 0, tstat := tstat }, tbun := e.tbun,
          gts := s.pkg.gts, ord := 8, deferred := e.res, cmd := 0 }
      (∀ (va pa size : Nat) (signed dev nc : Bool), e.op = .load va pa size signed true dev nc → badCell s.pkg pa = false →
        (cellAt s.pkg pa = .value → badData s.pkg pa size = false → ∃ t, exec (.cellOperation id) s = .next t ∧
          t.core.lsu.outst = s.core.lsu.outst.filter (fun x => x.id ≠ id) ∧ t.pkg = s.pkg ∧ t.core.un = s.core.un ∧
          t.core.sca.cellStall = (if s.core.sca.cellStall = some id then none else s.core.sca.cellStall) ∧
          (e.res = true → e.bank = none → returnedIn s t e (loadValue size signed (readNat s.pkg pa size)))) ∧
        (cellAt s.pkg pa = .suspended → badData s.pkg (pa / 64 * 64) 64 = false → s.isEvaluator pa = false → ∃ t ref w, exec (.cellOperation id) s = .next t ∧
          t.core.lsu.outst = s.core.lsu.outst.filter (fun x => x.id ≠ id) ∧ cellAt t.pkg pa = .pending ∧
          (e.bank = none → t.core.un.st =
            .leaving (.cellWait (match s.core.un.st with | .leaving _ => s.core.sca.cellNext | _ => s.core.sca.pc) ref)) ∧
          (∀ l, e.bank = some l → t.core.un.st = s.core.un.st ∧ t.core.trp.resumeLeave = some (.cellWait (if l = 0 then s.core.sca.pc
            else (if l = 1 then s.core.trp.bank1 else s.core.trp.bank2).tepc.toNat % 2 ^ 56 / 32 * 32) ref)) ∧
          poolAt t.pkg ref = some w ∧ w.cell = some (pa / 64 * 64) ∧ w.ready = false ∧
          w.wait = some { dst := e.dst, wbs := e.wbs, size := size, off := pa - pa / 64 * 64, signed := signed, line := pa / 64 * 64 } ∧
          t.core.sca.g = s.core.sca.g ∧
          (s.pkg.pool.length < 2 ^ 27 → s.no < 576 → ∃ q c,
            let r := recTrim (BitVec.ofNat 512 (readNat s.pkg (pa / 64 * 64) 64))
            let die := s.no / 64
            let dies := slotDies s.pkg s.mySlot
            ∃ d, dieQueue t.pkg d (recPrio q.recd) = dieQueue s.pkg d (recPrio q.recd) ++ [q] ∧ q.recd = recOwned r s.mySlot s.myPhjob ∧
              q.evalOf = some (pa / 64 * 64) ∧ q.pool = cellEvid t.pkg pa ∧ q.deliver = none ∧ q.argIdx = none ∧
              poolAt t.pkg q.pool = some c ∧ c.recd = r ∧ c.cell = none ∧ c.region = none ∧
              cellElslot t.pkg pa = recLslot s.core.un.recd ∧ cellSpec t.pkg pa = false ∧ cellNwait t.pkg pa = 1 ∧
              (recLslot r % 4 = 0 ∨ recLslot r % 4 = 3 → d = die) ∧
              (recLslot r % 4 = 1 → d = match homeDie s.pkg pa with | some h => if h ∈ dies then h else die | none => die) ∧
              (recLslot r % 4 = 2 → if dies = [] then d = die else d ∈ dies) ∧
              ∀ l, launchAt s.pkg s.mySlot = some l → ∃ l', launchAt t.pkg s.mySlot = some l' ∧ l'.counter = l.counter + 1)) ∧
        (cellAt s.pkg pa ≠ .value → badData s.pkg (pa / 64 * 64) 64 = false → s.core.un.evalOf = some (pa / 64 * 64) →
          (cellAt s.pkg pa = .pending → cellEvid s.pkg pa = s.core.un.pool) → s.core.trp.reports.length < 16 →
          ∃ t, exec (.cellOperation id) s = .next t ∧ t.core.lsu.outst = s.core.lsu.outst.filter (fun x => x.id ≠ id) ∧ t.pkg = s.pkg ∧
            t.core.un = s.core.un ∧ t.core.sca.inflight = s.core.sca.inflight ∧
            t.core.sca.cellStall = (if s.core.sca.cellStall = some id then none else s.core.sca.cellStall) ∧
            t.core.trp.reports = s.core.trp.reports ++ [rep 20 (va % 2 ^ 56 / 64 * 64)])) ∧
      (∀ (va pa recd : Nat) (fut : Bool), e.op = .cellmk va pa recd fut → badCell s.pkg pa = false → cellAt s.pkg pa = .pending → s.core.trp.reports.length < 16 →
        ∃ t, exec (.cellOperation id) s = .next t ∧ t.core.lsu.outst = s.core.lsu.outst.filter (fun x => x.id ≠ id) ∧ t.pkg = s.pkg ∧
          t.core.sca = s.core.sca ∧
          t.core.trp.reports = s.core.trp.reports ++ [rep 19 (va % 2 ^ 56)]) ∧
      (∀ va pa b v : Nat, e.op = .resolve va pa b → e.since + 2 ≤ s.clk → s.read64 b = .ok v → badCell s.pkg pa = false → cellAt s.pkg pa = .value →
        s.core.trp.reports.length < 16 →
        ∃ t, exec (.cellOperation id) s = .next t ∧ t.core.lsu.outst = s.core.lsu.outst.filter (fun x => x.id ≠ id) ∧ t.pkg = s.pkg ∧
          t.core.sca = s.core.sca ∧
          t.core.trp.reports = s.core.trp.reports ++ [rep 18 (va % 2 ^ 56)]) ∧
      (∀ va pa recd : Nat, e.op = .cellmk va pa recd false → badCell s.pkg pa = false → cellAt s.pkg pa ≠ .pending → ∀ v, s.read64 recd = .ok v →
        recKind (recTrim (BitVec.ofNat 512 v)) = 1 → recReserved (recTrim (BitVec.ofNat 512 v)) = false → ∃ t,
        exec (.cellOperation id) s = .next t ∧ cellAt t.pkg pa = .suspended ∧ t.core.sca = s.core.sca ∧ t.others = s.others ∧
        t.core.lsu.outst = s.core.lsu.outst.filter (fun x => x.id ≠ id) ∧
        ∀ a, readByte t.pkg a = if pa / 64 * 64 ≤ a ∧ a < pa / 64 * 64 + 64
          then BitVec.ofNat 8 ((recTrim (BitVec.ofNat 512 v)).toNat / 2 ^ (8 * (a - pa / 64 * 64))) else readByte s.pkg a) ∧
      (∀ va pa recd : Nat, e.op = .cellmk va pa recd true → badCell s.pkg pa = false → cellAt s.pkg pa ≠ .pending → ∃ t, exec (.cellOperation id) s = .next t ∧
        cellAt t.pkg pa = .pending ∧ cellEvid t.pkg pa = 0 ∧ cellNwait t.pkg pa = 0 ∧ cellElslot t.pkg pa = recLslot s.core.un.recd ∧
        cellSpec t.pkg pa = false ∧ t.core.sca = s.core.sca) ∧
      (∀ va pa b v : Nat, e.op = .resolve va pa b → e.since + 2 ≤ s.clk → s.read64 b = .ok v → badCell s.pkg pa = false →
        (cellAt s.pkg pa = .suspended → ∃ t, exec (.cellOperation id) s = .next t ∧ cellAt t.pkg pa = .value ∧ t.core.sca = s.core.sca ∧
          ∀ a, readByte t.pkg a = if pa / 64 * 64 ≤ a ∧ a < pa / 64 * 64 + 64 then BitVec.ofNat 8 (v / 2 ^ (8 * (a - pa / 64 * 64)))
            else readByte s.pkg a) ∧
        (∀ (ref : Nat) (w : PoolEntry) (k : CellWait), cellAt s.pkg pa = .pending → badData s.pkg (pa / 64 * 64) 64 = false →
          cellSpec s.pkg pa = false → chainOf s.pkg pa = [ref] → cellEvid s.pkg pa ≠ ref → poolAt s.pkg ref = some w → w.ready = true →
          w.wait = some k → ∃ t q, exec (.cellOperation id) s = .next t ∧ cellAt t.pkg pa = .value ∧
          poolAt t.pkg ref = none ∧ dieQueue t.pkg w.die (recPrio w.recd) = dieQueue s.pkg w.die (recPrio w.recd) ++ [q] ∧ q.recd = w.recd ∧
          q.deliver = some { dst := k.dst, wbs := k.wbs, v := loadValue k.size k.signed (v / 2 ^ (8 * k.off) % 2 ^ (8 * k.size)), line := k.line } ∧ q.argIdx = w.argIdx)) ∧
      (∀ va pa recd v : Nat, e.op = .freg va pa recd → badCell s.pkg pa = false → s.read64 recd = .ok v → cellAt s.pkg pa = .value →
        badData s.pkg (pa / 64 * 64) 8 = false →
        (recKind (recTrim (BitVec.ofNat 512 v)) = 0 ∨ recKind (recTrim (BitVec.ofNat 512 v)) = 2) →
        recReserved (recTrim (BitVec.ofNat 512 v)) = false → ∃ t, exec (.cellOperation id) s = .next t ∧ t.pkg = s.pkg ∧
        t.core.lsu.outst = s.core.lsu.outst.filter (fun x => x.id ≠ id) ∧
        (e.res = true → e.bank = none →
          returnedIn s t e (BitVec.ofNat 64 (2 ^ 63 + readNat s.pkg (pa / 64 * 64) 8 % 2 ^ 62)))) ∧
      (∀ va pa recd v : Nat, e.op = .freg va pa recd → badCell s.pkg pa = false → s.read64 recd = .ok v →
        (cellAt s.pkg pa = .suspended ∨ cellAt s.pkg pa = .pending ∧ cellSpec s.pkg pa = false) → badData s.pkg (pa / 64 * 64) 64 = false →
        s.isEvaluator pa = false →
        (recKind (recTrim (BitVec.ofNat 512 v)) = 0 ∨ recKind (recTrim (BitVec.ofNat 512 v)) = 2) →
        recReserved (recTrim (BitVec.ofNat 512 v)) = false → ∃ t ref w, exec (.cellOperation id) s = .next t ∧
        t.core.lsu.outst = s.core.lsu.outst.filter (fun x => x.id ≠ id) ∧ cellAt t.pkg pa = .pending ∧
        poolAt t.pkg ref = some w ∧ w.cell = some (pa / 64 * 64) ∧ w.wait = none ∧ w.ready = true ∧
        w.recd = recWithKind (recOwned (recTrim (BitVec.ofNat 512 v)) s.mySlot s.myPhjob) 2 ∧ t.core.un = s.core.un ∧ t.core.sca.g = s.core.sca.g ∧
        (∀ l, launchAt s.pkg s.mySlot = some l → ∃ l', launchAt t.pkg s.mySlot = some l' ∧
          l'.counter = l.counter + (if cellAt s.pkg pa = .suspended then 2 else 1)) ∧
        (e.res = true → e.bank = none → returnedIn s t e 0)) ∧
      (∀ (va pa : Nat) (b : Double), e.op = .specev va pa b → badCell s.pkg pa = false → cellAt s.pkg pa = .suspended →
        badData s.pkg (pa / 64 * 64) 64 = false → ∃ t, exec (.cellOperation id) s = .next t ∧
        cellAt t.pkg pa = .pending ∧ cellSpec t.pkg pa = true ∧ cellElslot t.pkg pa = recLslot s.core.un.recd ∧
        t.core.sca = s.core.sca ∧ t.core.un = s.core.un) ∧
      (∀ (va pa : Nat), ((∃ r f, e.op = .cellmk va pa r f) ∨ (∃ b, e.op = .specev va pa b) ∨ (∃ r, e.op = .freg va pa r) ∨
          (∃ b v, e.op = .resolve va pa b ∧ e.since + 2 ≤ s.clk ∧ s.read64 b = .ok v)) →
        badCell s.pkg pa = true → s.core.trp.reports.length < 16 → ∃ t, exec (.cellOperation id) s = .next t ∧
        t.core.lsu.outst = s.core.lsu.outst.filter (fun x => x.id ≠ id) ∧ t.pkg.mem = s.pkg.mem ∧ t.pkg.pool = s.pkg.pool ∧
        t.core.trp.reports = s.core.trp.reports ++ [rep 5 (va % 2 ^ 56)])) ∧
    (∀ (i : Nat) (a : Armed) (rest : List Armed), s.core.eng.armed.drop i = a :: rest → a.b.toNat ≤ s.core.tlValue a.tl →
      peerLost s.pkg a.pa = false → badCell s.pkg a.pa = false →
      (cellAt s.pkg a.pa = .suspended → ∃ t, exec (.resolveOnFire i) s = .next t ∧ cellAt t.pkg a.pa = .value ∧
        t.core.eng.armed = s.core.eng.armed.take i ++ rest ∧ t.core.sca = s.core.sca ∧
        ∀ k, readByte t.pkg k = if a.pa / 64 * 64 ≤ k ∧ k < a.pa / 64 * 64 + 64
          then BitVec.ofNat 8 ((1 + a.b.toNat * 2 ^ 64) / 2 ^ (8 * (k - a.pa / 64 * 64))) else readByte s.pkg k) ∧
      (cellAt s.pkg a.pa = .value → s.core.dying = false → a.dead = false → s.core.trp.reports.length < 16 → ∃ t r, exec (.resolveOnFire i) s = .next t ∧
        t.core.eng.armed = s.core.eng.armed.take i ++ rest ∧ t.core.trp.reports = s.core.trp.reports ++ [r] ∧ r.info.cause = 18 ∧
        r.info.eng = 5 ∧ r.info.tstat = a.va % 2 ^ 56 ∧ r.tbun = a.tbun ∧ t.pkg.mem = s.pkg.mem) ∧
      (cellAt s.pkg a.pa = .value → a.dead = true → exec (.resolveOnFire i) s =
        .next (s.modEng fun g => { g with armed := s.core.eng.armed.take i ++ rest })))

/-- R302, R303, R312, R313, R316, R361: the dispatchers. UNIT_PICKUP: the idle core that takes work runs its unit at ENTRY, with the live
words of its record in g1 to g12, or the value it was delivered, which also enters chain S1. QUEUE_PROMOTION moves a head that has waited 2^24 clk up one queue.
CHUNK_GRANT gives the next chunk of the arguments to a core, one unit each, or queues a SELF launch's P units. LEVEL_COMPLETION completes
a launch, graph, phase or job whose counter is zero and lowers the counter above it; a launch sends its signals, and a host launch its
completion event; one whose FUT cannot be reached waits. A unit whose image cannot be reached is not picked up here.
Assumption log entries 39, 40, 45, 46 and 57 name the choices of the model it rests on. -/
def Obligations.WorkEvents : Prop :=
  ∀ s : State, stopped s = false →
    (∀ (n : Nat) (q : QRec) (u : State) (o : Obj), s.pick = some (n, q, u) → q.saved = none → u.imageLost n q = none →
      objectOf u.pkg (recordJob u.pkg (recTrim q.recd)) (recHandle (recTrim q.recd)) = some o →
      ∃ t, exec .unitPickup s = .next t ∧ t.no = s.no ∧
        (let c := t.coreAt n
         let r := recTrim q.recd
         let w (i : Nat) : Double := if recSxt r then (BitVec.ofNat 32 (recWord r i)).signExtend 64 else BitVec.ofNat 64 (recWord r i)
         c.un.st = .running ∧ c.un.recd = r ∧ c.un.start = s.clk ∧ c.un.job = recordJob u.pkg r ∧
         c.sca.pc = (o.code + recWord r 2) % 2 ^ 56 / 32 * 32 ∧ c.sca.inflight = [] ∧ c.trp.level = 0 ∧
         (∀ d, q.deliver = some d → (d.wbs = false → c.greg d.dst.toNat = if d.dst = 0 then 0 else d.v) ∧ ∃ k, c.sca.land1 = some (k, d.v)) ∧
         (q.deliver = none → ∀ j, j < 6 →
           c.greg (1 + 2 * j) = (if bit (recJoin r) j then BitVec.ofNat 64 (recWord r (5 + 2 * j) * 2 ^ 32 + recWord r (4 + 2 * j))
             else w (4 + 2 * j)) ∧
           c.greg (2 + 2 * j) = (if bit (recJoin r) j then 0 else w (5 + 2 * j))))) ∧
    (∀ (die prio : Nat) (q : QRec) (rest : List QRec), dieQueue s.pkg die prio = q :: rest → prio < 7 → q.since + 2 ^ 24 ≤ s.clk →
      ∃ t, exec (.queuePromotion die prio) s = .next t ∧ dieQueue t.pkg die prio = rest ∧
        dieQueue t.pkg die (prio + 1) = dieQueue s.pkg die (prio + 1) ++ [{ q with since := s.clk }] ∧
        (∀ k, k ≠ 8 * die + prio → k ≠ 8 * die + (prio + 1) → fget [] t.pkg.queues k = fget [] s.pkg.queues k) ∧
        t.core = s.core ∧ t.others = s.others ∧ t.pkg.mem = s.pkg.mem) ∧
    (∀ (slot : Nat) (l : Launch) (j : Job), launchAt s.pkg slot = some l → l.complete = false → l.cancelled = false → l.stopped = false → l.raised = none →
      fget none s.pkg.jobs l.job = some j → j.stopped = false → s.pkg.mgmt.quiesced = none → s.unblocked l = true →
      slot < 65536 → l.phase < 65536 → l.job < 65536 →
      (∀ (n : Nat) (ns ws : List Nat), l.isSelf = false → l.next < l.narg → s.grantCores l = n :: ns →
        (if l.dispatched then .ok l.argWords else s.readArgs l.job
          (l.chunk s.pkg * l.asize) (l.args + 4 * l.asize * l.next)) = .ok ws →
        (l.dispatched = false → s.argsLost l.job (l.chunk s.pkg * l.asize) (l.args + 4 * l.asize * l.next) = false) →
        ∃ t l', exec (.chunkGrant slot) s = .next t ∧ launchAt t.pkg slot = some l' ∧ l'.next = l.next + l.chunk s.pkg ∧
          l'.grants = l.grants ++ [(n, (List.range (l.chunk s.pkg)).map fun i => l.next + i)] ∧
          l.chunk s.pkg = min (l.narg - l.next) (max (max 1 (cardFld l.card 30 16))
            ((l.narg - l.next + (2 * max 1 (l.par s.pkg) - 1)) / (2 * max 1 (l.par s.pkg)))) ∧
          (t.coreAt n).un.runList.map (fun q => q.argIdx) = (List.range (l.chunk s.pkg)).map (fun i => some (l.next + i)) ∧
          (∀ q ∈ (t.coreAt n).un.runList, recLslot q.recd = slot % 2 ^ 16 ∧ recHandle q.recd = cardFld l.card 4 32 ∧
            recEntry q.recd = cardFld l.card 8 32)) ∧
      (l.isSelf = true → l.selfDealt = false → ∃ t l', exec (.chunkGrant slot) s = .next t ∧ launchAt t.pkg slot = some l' ∧
          l'.selfDealt = true ∧ ∀ n ∈ ((List.range 576).filter fun n => (maskDies s.pkg l.mask).contains (n / 64)).take (l.par s.pkg),
            ∃ q, (t.coreAt n).un.runList = (s.coreAt n).un.runList ++ [q] ∧ q.self = true ∧ recWord q.recd 6 = l.narg ∧
              recWord q.recd 7 = l.asize)) ∧
    (∀ (slot : Nat) (l : Launch), launchAt s.pkg slot = some l → l.complete = false → l.counter = 0 → s.dealt l = true →
      (∀ pa, s.futPlace l = some pa → peerLost s.pkg pa = true → isPeer pa = false ∨ s.clk < l.lost.getD s.clk + 2 ^ 26 →
        exec (.levelCompletion .launch slot) s = .next (s.modLaunch slot fun x => { x with lost := some (l.lost.getD s.clk) })) ∧
      ((∀ pa, s.futPlace l = some pa → peerLost s.pkg pa = false) → ∃ t l', exec (.levelCompletion .launch slot) s = .next t ∧ launchAt t.pkg slot = some l' ∧ l'.complete = true ∧
        (∀ g, graphAt s.pkg l.graph = some g → ∃ g', graphAt t.pkg l.graph = some g' ∧ g'.counter = g.counter - 1 ∧
          ∀ c, c < 64 → fget 0 g'.dc c = fget 0 g.dc c - (if bit (cardFld l.card 40 64) c then 1 else 0)) ∧
        (l.host = true → (ringOf t.pkg l.ring).events = (ringOf s.pkg l.ring).events ++
          [((l.seq % 2 ^ 32) * 2 ^ 32 + (slot % 2 ^ 16) * 2 ^ 16 + 2 * 2 ^ 8, match l.status with | some v => v.toNat | none => 0)]))) ∧
    (∀ (g : Nat) (x : Graph) (y : LevelSt), graphAt s.pkg g = some x → x.complete = false → x.counter = 0 →
      fget none s.pkg.phases (phaseKey x.job x.phase) = some y → ∃ t x' y', exec (.levelCompletion .graph g) s = .next t ∧
      graphAt t.pkg g = some x' ∧ x'.complete = true ∧ fget none t.pkg.phases (phaseKey x.job x.phase) = some y' ∧
      y'.counter = y.counter - 1 ∧ t.core = s.core ∧ t.pkg.mem = s.pkg.mem) ∧
    (∀ (job phase : Nat) (x : LevelSt) (j : Job), phase < 65536 → fget none s.pkg.phases (phaseKey job phase) = some x → x.complete = false →
      x.counter = 0 → fget none s.pkg.jobs job = some j → ∃ t x' j', exec (.levelCompletion .phase (phaseKey job phase)) s = .next t ∧
      fget none t.pkg.phases (phaseKey job phase) = some x' ∧ x'.complete = true ∧ fget none t.pkg.jobs job = some j' ∧
      j'.level.counter = j.level.counter - 1 ∧ t.core = s.core) ∧
    (∀ (job : Nat) (j : Job), fget none s.pkg.jobs job = some j → j.level.counter = 0 → ∃ t j', exec (.levelCompletion .job job) s = .next t ∧
      fget none t.pkg.jobs job = some j' ∧ j'.level.complete = true ∧ t.core = s.core ∧ t.pkg.mem = s.pkg.mem)

/-- R292, R294, R297, R298, R311, R312, R317, R318: a task instruction is performed. DISPATCH_DECISION lands the number of conversions, and where none is
needed makes a launch of one argument record, with the operands' addresses and lengths in slots and the method's table image. LAUNCH takes a
slot for a card that passes its checks, counts it in the issuer's graph and lands the slot; a card that does not lands all ones and raises BADCARD. SPAWN
queues its record in the issuer's launch; CHUNK lands a range, one lost with its die before a new one; CNTRD lands a launch's counter with its state in
bits 63 and 62, and without COMPLETE drops the acquire placed behind it; one that later accesses have passed without COMPLETE lands what it read then.
CANCEL of a launch cancels it, and no more of it is dealt. MLOOK lands the address of the first record of its key among sixteen places, or 0.
Which slot a new launch takes is the model's choice (log entry 46).
Assumption log entries 21, 43, 44, 46 and 85 name the choices of the model it rests on. -/
def Obligations.TaskPerformed : Prop :=
  ∀ (s : State) (id : Nat) (e : QEntry), stopped s = false → s.core.lsu.outst.find? (fun x => x.id == id) = some e → e.dead = false →
    e.bank = none →
    (∀ (off : Nat) (cs : List DispTask) (m : DispTask), e.op = .dispatch off → s.core.carved off = false →
      badData s.pkg (arrayBase s.no + off) 128 = false → decideTasks s (parseReq (s.own off 128)) = .ok (cs, m) →
      ∃ t, exec (.dispatchDecision id) s = .next t ∧ (∀ x ∈ t.core.lsu.outst, x.id ≠ id) ∧
        (e.res = true → returnedIn s t e (BitVec.ofNat 64 cs.length)) ∧
        (cs = [] → ∀ l0, launchAt s.pkg s.mySlot = some l0 → l0.cancelled = false →
          ∃ l, launchAt t.pkg (freeSlot s.pkg) = some l ∧ l.dispatched = true ∧ l.nconv = 0 ∧ l.deps = 0 ∧ l.counter = 1 ∧
            l.argWords = taskWords m.opds ∧ l.graph = l0.graph ∧ l.job = s.core.un.job ∧ l.trange = fld m.meth 160 32 ∧
            l.table = fld m.meth 192 64 % 2 ^ 56)) ∧
    (mayPerform e s.core.lsu.outst = true →
      (∀ (va v : Nat) (m : Launch), e.op = .launch va → e.res = true → s.read64 va = .ok v → launchAt s.pkg s.mySlot = some m →
        (cardOk s.pkg m.graph (BitVec.ofNat 512 v) = true → m.cancelled = false → ∃ t l, exec (.accessPerformed id) s = .next t ∧
          (∀ x ∈ t.core.lsu.outst, x.id ≠ id) ∧ launchAt t.pkg (freeSlot s.pkg) = some l ∧ l.card = BitVec.ofNat 512 v ∧
          l.graph = m.graph ∧ l.job = s.core.un.job ∧ l.phjob = s.myPhjob ∧ l.complete = false ∧ l.cancelled = false ∧
          l.counter = (if v / 2 ^ 233 % 2 = 1 then (l.par s.pkg : Int) else ((v / 2 ^ 192 % 2 ^ 32 : Nat) : Int)) ∧
          returnedIn s t e (BitVec.ofNat 64 (freeSlot s.pkg)) ∧
          ∀ g, graphAt s.pkg m.graph = some g → ∃ g', graphAt t.pkg m.graph = some g' ∧ g'.counter = g.counter + 1) ∧
        (cardOk s.pkg m.graph (BitVec.ofNat 512 v) = false → s.core.trp.reports.length < 16 → ∃ t r, exec (.accessPerformed id) s = .next t ∧
          (∀ x ∈ t.core.lsu.outst, x.id ≠ id) ∧ t.pkg = s.pkg ∧ t.core.trp.reports = s.core.trp.reports ++ [r] ∧ r.info.cause = 17 ∧ r.info.eng = 5 ∧
          r.info.tstat = va ∧ r.tbun = e.tbun ∧ r.deferred = true ∧ returnedIn s t e (BitVec.allOnes 64))) ∧
      (∀ (a : Double) (l : Launch), e.op = .cancel a 0 →
        let slot := if a.getLsbD 31 then s.mySlot else a.toNat % 2 ^ 16
        launchAt s.pkg slot = some l → l.complete = false → l.cancelled = false → ∃ t l', exec (.accessPerformed id) s = .next t ∧
          launchAt t.pkg slot = some l' ∧ l'.cancelled = true ∧ (l.isSelf = false → l'.next = l.narg) ∧ (l.isSelf = true → l'.selfDealt = true)) ∧
      (∀ key : Double, e.op = .mlook key → e.res = true →
        let ctl := s.core.trp.methctl.toNat
        let f (lo n : Nat) : Nat := key.toNat / 2 ^ lo % 2 ^ n
        let place (i : Nat) : Nat :=
          (ctl / 2 ^ 12 % 2 ^ 44 * 4096 + 64 * ((methBucket (ctl % 32) (f 14 2) (f 0 12) (f 12 2) (f 16 16) (f 32 16) (f 48 16) + i) % 2 ^ (ctl % 32))) % 2 ^ 56
        let has (r : Nat) : Bool := methMatch r (f 14 2) (f 0 12) (f 12 2) (f 16 16) (f 32 16) (f 48 16)
        let other (i : Nat) : Prop := ∃ x, s.read64 (place i) = .ok x ∧ x / 2 ^ 31 % 2 = 1 ∧ has x = false
        let lands (v : Double) : Prop := ∃ t, exec (.accessPerformed id) s = .next t ∧ t.pkg = s.pkg ∧ (∀ x ∈ t.core.lsu.outst, x.id ≠ id) ∧
          returnedIn s t e v
        (ctl % 32 < 6 ∨ 20 < ctl % 32 → lands 0) ∧
        (6 ≤ ctl % 32 → ctl % 32 ≤ 20 → ((∀ i, i < 16 → other i) → lands 0) ∧
          ∀ i r, i < 16 → (∀ j, j < i → other j) → s.read64 (place i) = .ok r →
            (r / 2 ^ 31 % 2 = 0 → lands 0) ∧ (r / 2 ^ 31 % 2 = 1 → has r = true → lands (BitVec.ofNat 64 (place i))))) ∧
      (∀ (va : Nat) (b : Double) (v : Nat) (l : Launch), e.op = .spawn va b → fld b.toNat 0 2 = 0 → s.read64 va = .ok v →
        recKind (recTrim (BitVec.ofNat 512 v)) = 0 → recReserved (recTrim (BitVec.ofNat 512 v)) = false →
        launchAt s.pkg s.mySlot = some l → l.cancelled = false →
        ∃ t q l', exec (.accessPerformed id) s = .next t ∧ (∀ x ∈ t.core.lsu.outst, x.id ≠ id) ∧
          dieQueue t.pkg (s.no / 64) (recPrio q.recd) = dieQueue s.pkg (s.no / 64) (recPrio q.recd) ++ [q] ∧
          q.recd = recOwned (recTrim (BitVec.ofNat 512 v)) s.mySlot s.myPhjob ∧
          launchAt t.pkg s.mySlot = some l' ∧ l'.counter = l.counter + 1) ∧
      (e.op = .chunk → e.res = true → ∃ t v, exec (.accessPerformed id) s = .next t ∧ returnedIn s t e v ∧
        (s.core.un.self = false → v = (match s.core.un.argIdx with | some i => BitVec.ofNat 64 (2 ^ 32 + i) | none => 0xFFFFFFFF)) ∧
        (∀ l, s.core.un.self = true → launchAt s.pkg s.mySlot = some l → l.cancelled = false →
          (l.again = [] → v = BitVec.ofNat 64 (l.chunk s.pkg * 2 ^ 32 + l.next % 2 ^ 32) ∧
            ∃ l', launchAt t.pkg s.mySlot = some l' ∧ l'.next = l.next + l.chunk s.pkg) ∧
          (∀ x rest, l.again = x :: rest → v = BitVec.ofNat 64 (x.2 * 2 ^ 32 + x.1 % 2 ^ 32) ∧
            ∃ l', launchAt t.pkg s.mySlot = some l' ∧ l'.next = l.next ∧ l'.again = rest))) ∧
      (∀ (a : Double) (l : Launch), e.op = .cntrd a 0 → e.res = true →
        launchAt s.pkg (if a.getLsbD 31 then s.mySlot else a.toNat % 2 ^ 16) = some l →
        let now := BitVec.ofNat 64 ((if l.complete then 2 ^ 63 else 0) + (if l.cancelled then 2 ^ 62 else 0) + (l.counter % 2 ^ 32).toNat)
        let v := if l.complete then (s.core.lsu.passed id).getD now else now
        ∃ t, exec (.accessPerformed id) s = .next t ∧ t.pkg = s.pkg ∧ returnedIn s t e v ∧
          ∀ x, x ∈ t.core.lsu.loadQ ↔ x ∈ s.core.lsu.loadQ ∧ (v.getLsbD 63 = true ∨ ∀ scp, x.op ≠ .acqTok scp (some id))))

/-! ### Engine events -/

/-- R234, R237, R238, R239, R240, R241, R243, R244, R247, R248, R249, R251, R253, R255, R256: the events of the copy contexts, for the first command of a context that has not ended. A
copy whose descriptors can be read and pass the checks begins; it reads each beat of its source whole, once, and writes each beat of its destination
once, with a write: bytes of it wait for those a later run adds (log entry 135), a FE line for its full bit. The sync word counts what is
written. CPYG and CPYS take a run's innermost index from the list. CPYW widens each element,
CPYX puts zero beats where a record's mask has none, CPYZ leaves the zero beats of a block out of its record. CPYT reads the tag of each source slot with its first
byte; at the end CPYZ writes its length word, and each slot written takes the tag of R241, 0 where it was written in part. It pushes
an entry for each completed group of runs into the destination core's queue, at the end a token where QEOS is set. SYNCW sets TARGET and clears COUNT; QPUSH delivers its entry.
A wait of 2^24 clk fails with FEWAIT, or QFULL where it is for a queue (where the default action table is in force, so that nothing is
replayed). COMMAND_END brings the timeline to the largest number below which every command has ended.
Assumption log entries 30, 34, 35, 104 and 135 name the choices of the model it rests on. -/
def Obligations.CopyEvents : Prop :=
  ∀ s : State, stopped s = false →
    (∀ (ctx : Nat) (c : Cmd), ctx < 4 → s.core.head ctx = some c →
      (∀ (k : Nat) (a b : Double) (sf df : Nat), c.op = .copy k a b sf df →
        let pat := b
        (∀ sd dd : Desc, c.st = .ready → k ≠ 7 → s.readDesc (a.toNat % 2 ^ 32) = .ok sd → s.readDesc (b.toNat % 2 ^ 32) = .ok dd →
          copyStatic k sf df (some sd) (some dd) = none → s.syncOutside dd = false →
          ∃ t, exec (.copyBeatTransfer ctx) s = .next t ∧ { c with st := .run, src := some sd, dst := some dd } ∈ t.core.eng.cmds ∧
            t.pkg = s.pkg ∧ t.core.sca = s.core.sca) ∧
        (∀ (d : Desc) (va : Nat) (c0 c1 : Cmd) (ps : List (Nat × Nat)), c.st = .run → c.dst = some d → pushDue c d = none → c.t < d.len →
          s.streamVa k true c d c.t = .ok (va, c0) →
          (if d.fe then ([(va, min (d.len - c.t) (min (d.run - c.t % d.run) 128))], c0) else s.beatPieces k d (va / 32) 32 c.t c0) = (ps, c1) →
          let size (l : List (Nat × Nat)) : Nat := (l.map Prod.snd).sum
          let n := size ps
          let at' (j : Nat) : Nat := size (ps.take j)
          let fill : List Byte := (List.range n).map fun i => BitVec.ofNat 8 (pat.toNat / 2 ^ (8 * ((c.t + i) % 8)))
          (k ≠ 2 → va = d.vaOf c.t ∧ c1 = c ∧ (d.fe = false →
            (∀ (j : Nat) (p : Nat × Nat), ps[j]? = some p → p.1 = d.vaOf (c.t + at' j) ∧ p.1 / 32 = va / 32 ∧ c.t + at' j < d.len ∧
              p.2 = min (d.len - (c.t + at' j)) (min (d.run - (c.t + at' j) % d.run) (32 - p.1 % 32))) ∧
            (ps.length < 32 → d.len ≤ c.t + n ∨ d.vaOf (c.t + n) / 32 ≠ va / 32))) ∧
          (∀ (x : Xl) (out : List (Nat × Nat)) (data : List Byte), s.engXl true (k == 5) va = .ok x →
            (k = 7 ∧ out = ps ∧ data = fill ∨
              k ≠ 7 ∧ n ≤ c.outbuf.length ∧ c.outbuf ≠ [] ∧ out = ps ∧ data = c.outbuf.take n ∨
              k ≠ 7 ∧ c.outbuf.length < n ∧ c.outbuf ≠ [] ∧ out = cutPieces c.outbuf.length ps ∧ data = c.outbuf ∧
                ∃ sd, c.src = some sd ∧ sd.len ≤ c.u ∧ digest k sf df s c1 sd (d.len - c.t - c.outbuf.length) = .more) →
            let m := size out
            (d.fe = false →
            let base := x.pa / 32 * 32
            let slot := x.pa / 2048
            let new := partsOf c.t out data
            let parts := c.parts ++ new
            let here := parts.filter fun p => p.va / 32 == va / 32
            let held := s.keepParts k d (va / 32) here (c.t + m) c1
            let w := (writeParts base here c s).2
            let moved (t : State) (c' : Cmd) : Prop := exec (.copyBeatTransfer ctx) s = .next t ∧ c' ∈ t.core.eng.cmds ∧ c'.id = c.id ∧
              c'.t = c.t + m ∧ c'.st = .run ∧ c'.outbuf = c.outbuf.drop m ∧ t.core.sca = s.core.sca ∧ t.others = s.others ∧
              (c.t = 0 → c'.qcore = some (match regionOf x.pa with | .array r _ => r | _ => s.no))
            let wrote (c' : Cmd) : Prop := c'.parts = parts.filter (fun p => p.va / 32 != va / 32) ∧
              ((∀ p ∈ here, tagged (base + p.va % 32) = true) → here ≠ [] →
                (∀ p, here.getLast? = some p → (fget 0 c'.stags slot).toNat = 2 ^ 16 + markAt c.marks p.t % 2 ^ 16) ∧
                ∀ b, b < 2048 → (fget 0 c'.slots slot).getLsbD b = ((fget 0 c.slots slot).getLsbD b ||
                  here.any fun p => decide (base % 2048 + p.va % 32 ≤ b) && decide (b < base % 2048 + p.va % 32 + p.bytes.length)))
            (∀ p ∈ here, ∀ i o, i < p.bytes.length → regionOf (base + p.va % 32 + i) ≠ .device o) →
            (∀ (j : Nat) (p : Nat × Nat), out[j]? = some p → ∃ q, new[j]? = some q ∧ q.t = c.t + size (out.take j) ∧ q.va = p.1 ∧
              q.bytes = (data.drop (size (out.take j))).take p.2) ∧
            (k ≠ 2 → (held.1 = true ↔
              let free (i : Nat) : Prop := ∀ p ∈ here, ¬(p.va % 32 ≤ i ∧ i < p.va % 32 + p.bytes.length)
              let meets (q i : Nat) : Prop := i < 32 ∧ (32 * (va / 32) + i + 2 ^ 56 - d.vaOf (q * d.run)) % 2 ^ 56 < d.run
              (∃ i, i < 32 ∧ free i) ∧ ∃ q, c.t + m ≤ q * d.run ∧ q < d.runs ∧ (∃ i, meets q i) ∧ (∀ i, meets q i → free i) ∧
                ∀ r, r < q → c.t + m ≤ r * d.run → ∀ i, ¬meets r i)) ∧
            (held.1 = true → ∃ t c', moved t c' ∧ c'.parts = parts ∧ t.pkg = s.pkg) ∧
            (held.1 = false →
              w = { s with pkg := w.pkg } ∧
              (∀ i, (∀ p ∈ here, ¬(base + p.va % 32 ≤ i ∧ i < base + p.va % 32 + p.bytes.length)) → readByte w.pkg i = readByte s.pkg i) ∧
              (∀ (j : Nat) (p : Part) (b : Nat), here[j]? = some p → b < p.bytes.length →
                (∀ q ∈ here.drop (j + 1), ¬(q.va % 32 ≤ p.va % 32 + b ∧ p.va % 32 + b < q.va % 32 + q.bytes.length)) →
                readByte w.pkg (base + p.va % 32 + b) = p.bytes.getD b 0) ∧
              (d.syncen = false → ∃ t c', moved t c' ∧ wrote c' ∧ t.pkg = w.pkg) ∧
              (∀ sp, d.syncen = true → w.syncPa d.sync = .ok sp → badData w.pkg sp 16 = false →
                let count := readNat w.pkg (sp + 8) 8 % 2 ^ 48 + (here.map fun p => p.bytes.length).sum
                let target := readNat w.pkg sp 8 % 2 ^ 48
                count < 2 ^ 48 → ∃ t c', moved t c' ∧ wrote c' ∧
                  readNat t.pkg sp 8 = (readNat w.pkg sp 8 / 2 ^ 48 + (if target = 0 then 0 else count / target)) % 2 ^ 16 * 2 ^ 48 + target ∧
                  readNat t.pkg (sp + 8) 8 = (if target = 0 then count else count % target) ∧
                  ∀ i, i < sp ∨ sp + 16 ≤ i → readByte t.pkg i = readByte w.pkg i))) ∧
            (d.fe = true → d.syncen = false → c.parts = [] → isArray x.pa = true → x.pa % 128 = 0 → va % 32 = 0 →
            ((fullAt s.pkg x.pa = true ∨ s.claimedAt x.pa = true) → ∃ t, exec (.copyBeatTransfer ctx) s = .next t ∧ t.pkg = s.pkg ∧
              { c1 with wait := some (c1.wait.getD s.clk) } ∈ t.core.eng.cmds) ∧
            (fullAt s.pkg x.pa = false → s.claimedAt x.pa = false → ∃ t c', exec (.copyBeatTransfer ctx) s = .next t ∧ c' ∈ t.core.eng.cmds ∧
              c'.id = c.id ∧ c'.t = c.t + m ∧ c'.outbuf = c.outbuf.drop m ∧ c'.wait = none ∧
              (∀ i, readByte t.pkg i = if x.pa ≤ i ∧ i < x.pa + m then data.getD (i - x.pa) 0 else readByte s.pkg i) ∧
              ∀ i, fullAt t.pkg i = if i / 128 = x.pa / 128 then true else fullAt s.pkg i))) ∧
          (∀ (sd : Desc), k ≠ 7 → c.src = some sd → c.outbuf.length < n → ¬(k = 5 ∧ c.u = sd.len ∧ c.inbuf = [] ∧ c.outbuf = []) →
            (∀ (va' : Nat) (c2 : Cmd) (beat : List Byte), digest k sf df s c1 sd (d.len - c.t - c.outbuf.length) = .more → c.u < sd.len →
              sd.fe = false → ¬(k = 1 ∧ sd.cach = true) → s.streamVa k false c1 sd c.u = .ok (va', c2) →
              (fget [] c2.beats (va' / 32) = [] ∧ s.engRead1 (k == 4) (32 * (va' / 32)) 32 = .ok beat ∨ fget [] c2.beats (va' / 32) = beat ∧ beat ≠ []) →
              (∀ g : Xl, k = 3 → c.u % 2048 = 0 → s.engXl false false va' = .ok g → badTag s.pkg g.pa = false) →
              (k = 3 → c.u % 2048 = 0 → ∃ g, s.engXl false false va' = .ok g) →
              let m := min (if k = 5 then 2048 - c.inbuf.length else 2 ^ 31) (min (sd.len - c.u) (min (sd.run - c.u % sd.run) (32 - va' % 32)))
              ∃ t c', exec (.copyBeatTransfer ctx) s = .next t ∧ c' ∈ t.core.eng.cmds ∧ c'.id = c.id ∧
                c'.inbuf = c.inbuf ++ (beat.drop (va' % 32)).take m ∧ fget [] c'.beats (va' / 32) = beat ∧ c'.u = c.u + m ∧ c'.t = c.t ∧
                c'.outbuf = c.outbuf ∧ t.pkg = s.pkg ∧ t.core.sca = s.core.sca ∧
                (k ≠ 1 → va' = sd.vaOf c.u) ∧ (k ≠ 3 ∨ c.u % 2048 ≠ 0 → c'.marks = c.marks) ∧
                (∀ g : Xl, k = 3 → c.u % 2048 = 0 → s.engXl false false va' = .ok g →
                  c'.marks = c.marks ++ [(c.u, if tagged g.pa then (tagAt s.pkg g.pa).toNat else 0)])) ∧
            (∀ (va' : Nat) (c2 : Cmd) (g : Xl) (bs : List Byte), digest k sf df s c1 sd (d.len - c.t - c.outbuf.length) = .more → c.u < sd.len →
              sd.fe = true → s.streamVa k false c1 sd c.u = .ok (va', c2) → s.engXl false (k == 4) va' = .ok g → isArray g.pa = true →
              (k = 3 → c.u % 2048 = 0 → badTag s.pkg g.pa = false) →
              let m := min (if k = 5 then 2048 - c.inbuf.length else 2 ^ 31) (min (sd.len - c.u) (min (sd.run - c.u % sd.run) 128))
              ((fullAt s.pkg g.pa = false ∨ s.claimedAt g.pa = true) → ∃ t, exec (.copyBeatTransfer ctx) s = .next t ∧ t.pkg = s.pkg ∧
                { c2 with wait := some (c2.wait.getD s.clk) } ∈ t.core.eng.cmds) ∧
              (fullAt s.pkg g.pa = true → s.claimedAt g.pa = false → s.engRead1 (k == 4) va' m = .ok bs →
                ∃ t c', exec (.copyBeatTransfer ctx) s = .next t ∧ c' ∈ t.core.eng.cmds ∧ c'.id = c.id ∧ c'.inbuf = c.inbuf ++ bs ∧ c'.u = c.u + m ∧
                  t.pkg.mem = s.pkg.mem ∧ ∀ i, fullAt t.pkg i = if i / 128 = g.pa / 128 then false else fullAt s.pkg i)) ∧
            (k ≤ 3 → c.inbuf ≠ [] → ∃ t c', exec (.copyBeatTransfer ctx) s = .next t ∧ c' ∈ t.core.eng.cmds ∧ c'.id = c.id ∧
              c'.outbuf = c.outbuf ++ c.inbuf ∧ c'.inbuf = [] ∧ c'.marks = c.marks ∧ t.pkg = s.pkg) ∧
            (k = 6 →
              let sb := fmtBits sf
              let unit := max 1 (sb / 8)
              let whole := c.inbuf.length / unit * unit
              let e := 8 * whole / sb
              0 < whole → ∃ t c', exec (.copyBeatTransfer ctx) s = .next t ∧ c' ∈ t.core.eng.cmds ∧ c'.id = c.id ∧
                c'.inbuf = c.inbuf.drop whole ∧ t.pkg = s.pkg ∧
                c'.outbuf = c.outbuf ++ leBytes (e * fmtBits df / 8) (packElems (fmtBits df) ((List.range e).map fun i =>
                  widenOne sf df (leNat (c.inbuf.take whole) / 2 ^ (sb * i) % 2 ^ sb)))) ∧
            (k = 4 →
              let h := leNat (c.inbuf.take 32)
              let mask := h % 2 ^ 64
              let e := h / 2 ^ 80 % 2 ^ 8 + 1
              let stored := c.inbuf.drop 32
              h / 2 ^ 88 = 0 → e ≤ 64 → mask / 2 ^ e = 0 → c.outbuf.length + 32 * e ≤ d.len - c.t → 32 * (1 + popc 64 mask) ≤ c.inbuf.length →
              ∃ t c' out, exec (.copyBeatTransfer ctx) s = .next t ∧ c' ∈ t.core.eng.cmds ∧ c'.id = c.id ∧ c'.outbuf = c.outbuf ++ out ∧
                out.length = 32 * e ∧ c'.inbuf = c.inbuf.drop (32 * (1 + popc 64 mask)) ∧ t.pkg = s.pkg ∧
                c'.marks = c.marks ++ [(c.t + c.outbuf.length, h / 2 ^ 64 % 2 ^ 16)] ∧
                ∀ i, i < e → (out.drop (32 * i)).take 32 = if mask.testBit i then (stored.drop (32 * popc i mask)).take 32 else List.replicate 32 0) ∧
            (k = 5 → c.inbuf.length = 2048 ∨ c.u = sd.len ∧ c.inbuf ≠ [] →
              let e := c.inbuf.length / 32
              let beats := (List.range e).map fun i => (c.inbuf.drop (32 * i)).take 32
              let some' (b : List Byte) : Bool := b.any fun y => y != 0
              let mask := (((List.range e).filter fun i => some' ((c.inbuf.drop (32 * i)).take 32)).map fun i => 2 ^ i).sum
              ∀ tag : Nat, (∀ pa, s.blockSlot sd (c.u - c.inbuf.length) c.inbuf.length = some pa → badTag s.pkg pa = false ∧
                  tag = if tagged pa then (tagAt s.pkg pa).toNat else 0) →
                (s.blockSlot sd (c.u - c.inbuf.length) c.inbuf.length = none → tag = 0) →
                ∃ t c', exec (.copyBeatTransfer ctx) s = .next t ∧ c' ∈ t.core.eng.cmds ∧ c'.id = c.id ∧ c'.inbuf = [] ∧ t.pkg = s.pkg ∧
                  c'.outbuf = c.outbuf ++ leBytes 32 (mask + tag * 2 ^ 64 + (e - 1) * 2 ^ 80) ++ (beats.filter some').flatten))) ∧
        (∀ (d : Desc), c.st = .run → c.dst = some d → pushDue c d = none → c.closed = false → c.slotsLost s.pkg = none →
          let queue (u : State) : List QVal := (u.coreAt (c.qcore.getD s.no)).iqueue d.qsel
          let ends (t : State) : Prop := ∃ c', exec (.copyBeatTransfer ctx) s = .next t ∧ c' ∈ t.core.eng.cmds ∧ c'.id = c.id ∧ t.core.sca = s.core.sca ∧
            (d.qeos = false → c'.st = .ended) ∧ (d.qeos = true → (queue s).length < 32 → c'.st = .ended ∧ queue t = queue s ++ [.eos]) ∧
            (d.qeos = true → 32 ≤ (queue s).length → c'.st = .run ∧ c'.closed = true ∧ c'.wait = some (c.wait.getD s.clk) ∧ queue t = queue s)
          (c.t = d.len → k ≠ 5 → (k = 4 → c.inbuf = [] ∧ c.u = (c.src.map Desc.len).getD 0) → (c.slots.map Prod.fst).Nodup →
            ∃ t, ends t ∧ t.pkg.mem = s.pkg.mem ∧ (∀ a, a / 2048 ∉ c.slots.map Prod.fst → tagAt t.pkg a = tagAt s.pkg a) ∧
              ∀ a v, (a / 2048, v) ∈ c.slots → (tagAt t.pkg a).toNat = if v ≠ BitVec.allOnes 2048 then 0
                else if k = 3 then (fget 0 c.stags (a / 2048)).toNat % 2 ^ 16 else if d.th = 0 then 0
                else if d.th = 1 then (tagAt s.pkg a).toNat else if d.th = 2 then d.tag else (fget 0 c.stags (a / 2048)).toNat % 2 ^ 16) ∧
          (∀ (sd : Desc), k = 5 → c.src = some sd → c.u = sd.len → c.inbuf = [] → c.outbuf = [] →
            (∀ (p : Part) (ps : List Part) (x : Xl), c.parts = p :: ps → d.syncen = false → d.fe = false → s.engXl true true p.va = .ok x →
              ∃ t c', exec (.copyBeatTransfer ctx) s = .next t ∧ c' ∈ t.core.eng.cmds ∧ c'.id = c.id ∧ c'.t = c.t ∧ c'.st = .run ∧
                c'.parts = c.parts.filter (fun q => q.va / 32 != p.va / 32) ∧
                t.pkg = (writeParts (x.pa / 32 * 32) (c.parts.filter fun q => q.va / 32 == p.va / 32) c s).2.pkg) ∧
            (∀ x : Xl, c.parts = [] → s.engXl true false d.aux = .ok x → (∀ i o, i < 8 → regionOf (x.pa + i) ≠ .device o) →
              ∃ t, ends t ∧ readNat t.pkg x.pa 8 = c.t % 2 ^ 64 ∧ ∀ i, i < x.pa ∨ x.pa + 8 ≤ i → readByte t.pkg i = readByte s.pkg i))) ∧
        (∀ (d : Desc), c.st = .run → c.dst = some d → pushDue c d = none → c.closed = true → d.qeos = true → c.t = d.len → k ≠ 5 →
          ((s.coreAt (c.qcore.getD s.no)).iqueue d.qsel).length < 32 → ∃ t, exec (.copyBeatTransfer ctx) s = .next t ∧ t.pkg = s.pkg ∧
            { c with st := .ended, wait := none } ∈ t.core.eng.cmds ∧
            (t.coreAt (c.qcore.getD s.no)).iqueue d.qsel = (s.coreAt (c.qcore.getD s.no)).iqueue d.qsel ++ [.eos]) ∧
        (∀ (d : Desc), 0 < d.run * nth d.cnt 0 → c.done ≤ c.t ∧ (∀ p ∈ c.parts, c.done ≤ p.t) ∧ (c.done = c.t ∨ ∃ p ∈ c.parts, c.done = p.t) ∧
          (pushDue c d ≠ none ↔ d.qen = true ∧ (c.pushed + 1) * (d.run * nth d.cnt 0) ≤ c.done)) ∧
        (∀ (d : Desc) (v : QVal), c.st = .run → c.dst = some d → pushDue c d = some v →
          ((s.coreAt (c.qcore.getD s.no)).iqueue d.qsel).length < 32 →
          v = .value (BitVec.ofNat 63 (c.pushed * (d.run * nth d.cnt 0))) ∧
          ∃ t c', exec (.progressEntryPush ctx) s = .next t ∧ c' ∈ t.core.eng.cmds ∧ c'.id = c.id ∧ c'.pushed = c.pushed + 1 ∧
            (t.coreAt (c.qcore.getD s.no)).iqueue d.qsel = (s.coreAt (c.qcore.getD s.no)).iqueue d.qsel ++ [v] ∧ t.pkg = s.pkg ∧
            t.core.sca = s.core.sca)) ∧
      (∀ (a b : Double) (g : Bool) (pa : Nat), c.op = .syncw a b g → c.st = .ready → s.syncPa (a.toNat % 2 ^ 56) = .ok pa →
        (g = false → badData s.pkg pa 8 = false) →
        ∃ t, exec (.syncwWrite ctx) s = .next t ∧ { c with st := .ended } ∈ t.core.eng.cmds ∧ t.core.sca = s.core.sca ∧
          readNat t.pkg pa 8 = (if g then b.toNat / 2 ^ 48 else readNat s.pkg pa 8 / 2 ^ 48) * 2 ^ 48 + b.toNat % 2 ^ 48 ∧
          readNat t.pkg (pa + 8) 8 = 0 ∧ ∀ i, i < pa ∨ pa + 16 ≤ i → readByte t.pkg i = readByte s.pkg i) ∧
      (∀ (a b : Double) (iq : Nat) (tok : Bool), c.op = .qpush a b iq tok → c.st = .ready →
        let n := if a.getLsbD 10 then s.no else a.toNat % 2 ^ 10
        liveCore s.pkg n = true → s.storesDone c.iss = true → ((s.coreAt n).iqueue iq).length < 32 →
        ∃ t c', exec (.qpushDelivery ctx) s = .next t ∧ c' ∈ t.core.eng.cmds ∧ c'.id = c.id ∧ c'.st = .ended ∧
          (t.coreAt n).iqueue iq = (s.coreAt n).iqueue iq ++ [if tok then .eos else .value (BitVec.ofNat 63 b.toNat)] ∧
          t.pkg = s.pkg ∧ t.core.sca = s.core.sca) ∧
      (∀ w : Nat, c.wait = some w → w + 2 ^ 24 ≤ s.clk → s.core.dying = false → s.core.trp.acttab.getLsbD 0 = false →
        s.core.trp.reports.length < 16 →
        (c.st = .run → c.onQueue = false → ∃ t r c', exec (.feWait ctx) s = .next t ∧ t.core.trp.reports = s.core.trp.reports ++ [r] ∧
          r.info.cause = 14 ∧ r.info.reason = 7 ∧ r.info.tl = c.tl ∧ r.info.tlnum = c.n ∧ r.tbun = c.tbun ∧ c' ∈ t.core.eng.cmds ∧
          c'.id = c.id ∧ c'.st = .ended ∧ t.pkg.mem = s.pkg.mem ∧ t.core.sca = s.core.sca) ∧
        (c.st = .run ∨ c.st = .ready → c.onQueue = true → ∃ t r c', exec (.qFull ctx) s = .next t ∧
          t.core.trp.reports = s.core.trp.reports ++ [r] ∧ r.info.cause = 14 ∧ r.info.reason = 8 ∧ r.info.tl = c.tl ∧ r.info.tlnum = c.n ∧
          c' ∈ t.core.eng.cmds ∧ c'.id = c.id ∧ c'.st = .ended ∧ t.pkg.mem = s.pkg.mem ∧ t.core.sca = s.core.sca))) ∧
    (∀ tl : Nat, tl < 8 → (∀ c, s.core.head tl = some c → c.st ≠ .failed) → (∀ c ∈ s.core.eng.cmds, c.tl = tl → 0 < c.n) →
      ∃ t r, exec (.commandEnd tl) s = .next t ∧ fget 0 t.core.eng.tl tl = max (fget 0 s.core.eng.tl tl) r ∧
        r ≤ fget 0 s.core.eng.issued tl ∧ (∀ c ∈ s.core.eng.cmds, c.tl = tl → c.st ≠ .ended → r < c.n) ∧
        (r = fget 0 s.core.eng.issued tl ∨ ∃ c ∈ s.core.eng.cmds, c.tl = tl ∧ c.st ≠ .ended ∧ c.n = r + 1) ∧
        t.pkg = s.pkg ∧ t.core.sca = s.core.sca ∧ t.core.lsu = s.core.lsu) ∧
    (∀ (c : Cmd) (sd : Desc) (u k : Nat) (dst : Bool) (list : List Byte), (k = 1 ∧ dst = false ∨ k = 2 ∧ dst = true) → c.idx = none →
      sd.fe = false →
      let q := u / sd.run
      let word := (sd.aux + 4 * q) % 2 ^ 56
      (fget [] c.beats (word / 32) = [] ∧ s.engRead1 false (32 * (word / 32)) 32 = .ok list ∨ fget [] c.beats (word / 32) = list ∧ list ≠ []) →
      ∃ c', s.streamVa k dst c sd u = .ok ((sd.startAt (leNat ((list.drop (word % 32)).take 4)) q + u % sd.run) % 2 ^ 56, c')) ∧
    (∀ t : Nat, markAt [] t = 0 ∧ ∀ (l : List (Nat × Nat)) (o g : Nat), markAt (l ++ [(o, g)]) t = if o ≤ t then g else markAt l t)

/-- R162, R163, R257 to R261: at the dispatch of its marker STRM binds a stream at position 0, STRMX moves it or unbinds it, and HREL releases the
subscription of its SID; each is then gone. R260 says of HREL alone that it acts at its marker: that STRM and STRMX do is the model's choice (log entry 31). PREFETCH_FILL brings a line of the window of a stream bound to the core cache into it. HOIST_TILE_IN writes a tile
whose slot is empty from memory and sets its lines full; HOIST_TILE_OUT reads a full slot, sets its lines empty and writes the run.
TFILL_INDEX_WRITE writes, one index in a clk, the selected groups' entries into the shadow side, from a + 8·(g·NUM + i), where every
entry is legal and the non-NOP ones of the index have one class. CBFILL_SLOT_WRITE writes one codebook slot from a + 32·j.
Assumption log entries 31, 33 and 35 name the choices of the model it rests on. -/
def Obligations.FillEvents : Prop :=
  ∀ s : State, stopped s = false →
    (∀ (m : QEntry) (rest : List QEntry) (k : Cmd), s.core.lsu.storeQ = m :: rest → m.op = .marker k.id → s.mayDispatch true m = true →
      k.tl = 8 → s.core.eng.cmds.filter (fun x => x.id == k.id) = [k] → (∀ x ∈ s.core.eng.cmds, x.tl = 8 → x.id = k.id ∨ x.st ≠ .ready) →
      let others := s.core.eng.cmds.filter fun x => x.id ≠ k.id
      (∀ (a : Double) (sid depth : Nat) (cc : Bool) (d : Desc), k.op = .strm a sid cc depth → s.readDesc (a.toNat % 2 ^ 32) = .ok d → 0 < d.run →
        ∃ t, exec (.queueDispatch true) s = .next t ∧ t.core.lsu.storeQ = rest ∧ t.core.eng.cmds = others ∧
          (∀ j, fget none t.core.eng.streams j = if j = sid then some { desc := d, cc := cc, depth := depth, p := 0 } else fget none s.core.eng.streams j) ∧
          t.core.sca = s.core.sca ∧ t.pkg = s.pkg) ∧
      (∀ (a : Double) (sid : Nat), k.op = .strmx a sid → ∃ t, exec (.queueDispatch true) s = .next t ∧ t.core.lsu.storeQ = rest ∧
        t.core.eng.cmds = others ∧ t.core.sca = s.core.sca ∧ t.pkg = s.pkg ∧
        ∀ j, fget none t.core.eng.streams j = if j ≠ sid then fget none s.core.eng.streams j else if a.toNat % 2 ^ 32 = 0 then none
          else (fget none s.core.eng.streams sid).map fun x => { x with p := x.p + a.toNat % 2 ^ 32 }) ∧
      (∀ sid : Nat, k.op = .hrel sid → ∃ t, exec (.queueDispatch true) s = .next t ∧ t.core.lsu.storeQ = rest ∧
        (∀ x ∈ t.core.eng.cmds, x.id ≠ k.id) ∧ t.core.eng.streams = s.core.eng.streams ∧
        ((∀ x ∈ others, ¬ ((∃ a b o, x.op = .hsub a b sid o) ∧ (x.st = .run ∨ x.st = .ready))) → t.core.eng.cmds = others ∧ t.pkg = s.pkg) ∧
        (∀ x ∈ others, (∃ a b o, x.op = .hsub a b sid o) → x.st = .run ∨ x.st = .ready →
          ∃ x' ∈ t.core.eng.cmds, x'.id = x.id ∧ x'.rel = true))) ∧
    (∀ (sid i va : Nat) (x : Stream) (y : Xl), fget none s.core.eng.streams sid = some x → x.cc = true → i < 128 * x.depth →
      x.desc.run * x.p + i < x.desc.len → x.desc.vaOf (x.desc.run * x.p + i) = va →
      s.engXl false false (128 * (va / 128)) = .ok y → cacheable y.dev y.nc y.cell y.pa = true → 0 < s.core.lsu.cacheLines →
      badData s.pkg (y.pa / 128 * 128) 128 = false →
      ∃ t, exec (.prefetchFill sid (va / 128)) s = .next t ∧
        t.core.lsu.hit (128 * (va / 128)) y.pa = some (BitVec.ofNat 1024 (readNat s.pkg (y.pa / 128 * 128) 128)) ∧
        t.core.sca = s.core.sca ∧ t.pkg.mem = s.pkg.mem) ∧
    ((∀ c ∈ s.core.eng.cmds, (∃ a b k o, c.op = .hsub a b k o) → c.st ≠ .ready ∧ c.st ≠ .failed) →
      ∀ (sid sid' : Nat) (c : Cmd) (a b : Double) (d : Desc), s.core.eng.cmds.find? (fun c => c.isSub sid) = some c →
      let k := c.t / d.run
      let slots := b.toNat / 2 ^ 22 % 2 ^ 8 + 1
      let lines := b.toNat / 2 ^ 30 % 2 ^ 10 + 1
      let off := b.toNat % 2 ^ 22 + k % slots * (128 * lines)
      let va := d.vaOf c.t
      c.rel = false → s.core.carved (off + d.run - 1) = false →
      (∀ bs, s.ownOutside off d.run = false → c.op = .hsub a b sid' false → c.src = some d → c.dst = none → s.slotReady off lines false = true →
        s.inHbm false (d.run / 2048 + 2) va d.run = .ok () → s.engRead false va d.run = .ok bs →
        (wholeSlots d b = true → ∀ pa ∈ s.runSlots false va d.run, badTag s.pkg pa = false) →
        ∃ t c', exec (.hoistTileIn sid) s = .next t ∧ (∀ j, j < lines → fullAt t.pkg (arrayBase s.no + off + 128 * j) = true) ∧
          c' ∈ t.core.eng.cmds ∧ c'.id = c.id ∧ c'.t = c.t + d.run ∧ c'.st = (if c.t + d.run = d.len then .ended else .run) ∧
          t.core.sca = s.core.sca ∧ ∀ i, readByte t.pkg i = if arrayBase s.no + off ≤ i ∧ i < arrayBase s.no + off + bs.length
            then bs.getD (i - (arrayBase s.no + off)) 0 else readByte s.pkg i) ∧
      (∀ (c2 : Cmd) (u : State), c.op = .hsub a b sid' true → c.dst = some d → pushDue c d = none → c.t ≠ d.len →
        s.slotReady off lines true = true → d.syncen = false →
        s.inHbm true (d.run / 2048 + 2) va d.run = .ok () → badData s.pkg (arrayBase s.no + off) d.run = false →
        (wholeSlots d b = true → ∀ i, i < d.run / 2048 → badTag s.pkg (arrayBase s.no + off + 2048 * i) = false) →
        writeRun (fun s => s.engXl true false) (d.run / 32 + 2) va (readBytes s.pkg (arrayBase s.no + off) d.run) c
          (s.modPkg fun p => setFullN p (arrayBase s.no + off) lines false) = .ok (c2, u) → c2.t = c.t ∧
        ∃ t c', exec (.hoistTileOut sid) s = .next t ∧ t.pkg.full = u.pkg.full ∧ t.pkg.mem = u.pkg.mem ∧ c' ∈ t.core.eng.cmds ∧ c'.id = c.id ∧
          c'.t = c.t + d.run ∧ (d.qen = false → d.qeos = false → c'.st = (if c.t + d.run = d.len then .ended else .run)))) ∧
    (∀ (c : Cmd) (a b : Double) (m : BitVec 8) (f : Nat → Double) (cl : LClass), s.core.head 7 = some c → c.op = .tfill a b m → c.st = .run → c.wait ≠ some s.clk →
      let idx := b.toNat % 2 ^ 10 + c.t
      let num := b.toNat / 2 ^ 10 % 2 ^ 11
      let side := !s.core.tab.act
      (∀ g, g < 8 → if m.getLsbD g
        then ∃ bs, s.engRead false ((a.toNat + 8 * (g * num + c.t)) % 2 ^ 56) 8 = .ok bs ∧ f g = BitVec.ofNat 64 (leNat bs) ∧
          (Entry.decode (f g)).isSome = true
        else f g = fget 0 s.core.tab.ents (entKey side g idx)) →
      (∀ g, g < 8 → ((Entry.decode (f g)).getD .nop).cls = .nop ∨ ((Entry.decode (f g)).getD .nop).cls = cl) → idx < 1024 →
      ∃ t c', exec .tfillIndexWrite s = .next t ∧ (∀ g, g < 8 → fget 0 t.core.tab.ents (entKey side g idx) = f g) ∧
        (∀ g i, i < 1024 → i ≠ idx → fget 0 t.core.tab.ents (entKey side g i) = fget 0 s.core.tab.ents (entKey side g i)) ∧
        (∀ g i, i < 1024 → fget 0 t.core.tab.ents (entKey s.core.tab.act g i) = fget 0 s.core.tab.ents (entKey s.core.tab.act g i)) ∧
        ((∃ g, g < 8 ∧ ((Entry.decode (f g)).getD .nop).cls ≠ .nop) → t.core.classOf side idx = cl) ∧ c' ∈ t.core.eng.cmds ∧ c'.id = c.id ∧
        c'.t = c.t + 1 ∧ c'.st = (if c.t + 1 = num then .ended else .run) ∧ t.core.sca = s.core.sca ∧ t.pkg = s.pkg) ∧
    (∀ (c : Cmd) (a : Double) (bank : Nat) (m : BitVec 4) (bs : List Byte), s.core.head 7 = some c → c.op = .cbfill a bank m → c.st = .run →
      (c.t = 0 → s.cbBusy bank = false) → s.engRead false ((a.toNat + 32 * c.t) % 2 ^ 56) 32 = .ok bs →
      ∃ t c', exec .cbfillSlotWrite s = .next t ∧
        (∀ j, fget 0 t.core.vec.cb j = if j = 4 * bank + (((List.range 4).filter fun i => m.getLsbD i).getD c.t 0) then BitVec.ofNat 256 (leNat bs)
          else fget 0 s.core.vec.cb j) ∧
        c' ∈ t.core.eng.cmds ∧ c'.id = c.id ∧ c'.t = c.t + 1 ∧
        c'.st = (if c.t + 1 = ((List.range 4).filter fun i => m.getLsbD i).length then .ended else .run) ∧ t.core.sca = s.core.sca ∧
        t.pkg = s.pkg)

/-- R263 to R267, R272, R273, R279, R280, R281: the events of a collective context. COLL_RENDEZVOUS: the member reads its descriptor and its table,
writes its counter words, XID and DEPTH, and opens its transfer or joins it; one that fails at its start fails its transfer too, which is then gone. COLL_TRANSFER brings the next beat of a plain destination
once every member has arrived, sends the next beat of a source that a receiver in another package takes, and ends a member with STATUS 1. PCANCEL cancels,
once its marker is dispatched (at that instant: log entry 31), the collective of its core with the COMM and XID its descriptor names; of one that still
waits for its context's turn, the transfer it is a party to, or else one it opens so, which members that arrive later join. PRECISION_COUNTER_UPDATE counts one plane of a chunk, and DONE with the
last. CANCEL_ARRIVAL ends a member with STATUS 2, its counters frozen but where DONE. NOPEER, 2^32 clk after the descriptor was read,
fails it with COLLFAIL and STATUS 3.
Assumption log entries 31, 35, 36, 37 and 120 name the choices of the model it rests on. -/
def Obligations.CollectiveEvents : Prop :=
  ∀ (s : State) (ctx : Nat) (c : Cmd), stopped s = false → ctx = 4 ∨ ctx = 5 → s.core.head ctx = some c →
    (∀ (a : Double) (kind : Nat) (ws : List Nat) (q : Nat), c.op = .coll a kind → c.st = .ready → c.coff % 64 = 0 → c.coff < arraySize →
      s.core.carved c.coff = false → badData s.pkg (arrayBase s.no + c.coff) 64 = false →
      let x := s.own c.coff 64
      let c1 : Cmd := { c with aux := [x, q, ws.length], startClk := s.clk }
      s.readTable (x % 2 ^ 56) = .ok ws → ranksOf s.pkg ws s.no = [q] → collStatic c1 (s.countersCarved c1) = none →
      s.countersOutside c1 = false →
      let joins (t : Transfer) : Bool := t.xid == c1.xid && (t.comm == ws || (t.job == s.core.un.job && t.addr == c1.comm)) &&
        sameParty t.sig c1.sig && (t.comm != ws || !t.members.any fun m => m.1 == q)
      let known := (s.dropOpened c).pkg.transfers
      (∀ m ∈ s.pkg.env.inbox, m.xid ≠ c1.xid) → (∀ r ∈ c1.expected, memberLost s.pkg (nth ws r) = false) →
      (known.find? joins = none → ∃ t y, exec (.collRendezvous ctx) s = .next t ∧
        { c1 with st := .run } ∈ t.core.eng.cmds ∧ t.pkg.transfers = known ++ [y] ∧ y.members = [(q, s.no, c.tl, c.id)] ∧
        y.comm = ws ∧ y.xid = c1.xid ∧ y.sig = c1.sig ∧ y.ranks = c1.expected ∧ y.recvDone = [] ∧ y.finished = [] ∧ y.cancelled = c.rel ∧
        (c1.planes = true → writes c1.kind c1.croot q = true → ∀ k, k < c1.chunks →
          readNat t.pkg (arrayBase s.no + c1.pcb + 16 * k) 8 = c1.xid * 2 ^ 32 + c1.depth * 2 ^ 16)) ∧
      (∀ y, known.find? joins = some y → y.sig = c1.sig → y.comm = ws → (∀ r ∈ y.ranks, memberLost s.pkg (nth ws r) = false) → ∃ t, exec (.collRendezvous ctx) s = .next t ∧
        { c1 with st := .run } ∈ t.core.eng.cmds ∧
        { y with members := y.members ++ [(q, s.no, c.tl, c.id)], cancelled := y.cancelled || c.rel,
                 cancelClk := y.cancelClk.or (if c.rel then some c.startClk else none) } ∈ t.pkg.transfers)) ∧
    (∀ y, y ∈ (s.dropOpened c).pkg.transfers ↔ y ∈ s.pkg.transfers ∧
      ¬(c.aux ≠ [] ∧ y.members = [] ∧ y.xid = c.xid ∧ y.addr = c.comm ∧ y.job = s.core.un.job)) ∧
    (∀ (a : Double) (kind : Nat) (ws : List Nat) (q : Nat) (e : EFail) (y : Transfer), c.op = .coll a kind → c.st = .ready → c.aux = [] → c.coff % 64 = 0 →
      c.coff < arraySize → s.core.carved c.coff = false → badData s.pkg (arrayBase s.no + c.coff) 64 = false →
      let x := s.own c.coff 64
      let c1 : Cmd := { c with aux := [x, q, ws.length], startClk := s.clk }
      s.readTable (x % 2 ^ 56) = .ok ws → ranksOf s.pkg ws s.no = [q] → collStatic c1 (s.countersCarved c1) = some e → e.1 = 15 →
      s.partyOf { c with aux := [x, q, ws.length], startClk := s.clk } x (some ws) = some y → (∀ m ∈ y.members, m.2.1 ≠ s.no) →
      s.core.dying = false → s.core.trp.acttab.getLsbD 0 = false → s.core.trp.reports.length < 16 →
      ∃ t r c', exec (.collRendezvous ctx) s = .next t ∧ y ∉ t.pkg.transfers ∧ t.core.trp.reports = s.core.trp.reports ++ [r] ∧
        r.info.cause = 15 ∧ r.info.reason = e.2 ∧ r.info.tl = c.tl ∧ r.info.tlnum = c.n ∧ c' ∈ t.core.eng.cmds ∧ c'.id = c.id ∧ c'.st = .ended) ∧
    (∀ y : Transfer, c.st = .run → s.transferOf c = some y →
      (∀ (bs : List Byte) (x : Xl), s.transferFault y = none → y.paired = true → (∀ r ∈ y.ranks, s.arrived y r = true) → writes c.kind c.croot c.rank = true → c.rank ∉ y.recvDone →
        c.planes = false → c.t ≠ c.total → s.plainBeat y c = .ok (some bs) → bs.length = 32 → (c.cdst + c.t) % 2 ^ 56 % 32 = 0 →
        s.collXl true ((c.cdst + c.t) % 2 ^ 56) = .ok x → (∀ o, regionOf x.pa ≠ .device o) →
        ∃ t c', exec (.collTransfer ctx) s = .next t ∧ c' ∈ t.core.eng.cmds ∧ c'.id = c.id ∧ c'.t = c.t + 32 ∧ c'.st = .run ∧
          t.core.sca = s.core.sca ∧ t.others = s.others ∧
          ∀ i, readByte t.pkg i = if x.pa ≤ i ∧ i < x.pa + 32 then bs.getD (i - x.pa) 0 else readByte s.pkg i) ∧
      (∀ bs : List Byte, s.transferFault y = none → y.paired = true → (∀ r ∈ y.ranks, s.arrived y r = true) →
        (writes c.kind c.croot c.rank = true → c.rank ∈ y.recvDone) → (∃ r ∈ c.receivers, wordPkg (nth y.comm r) ≠ s.pkg.mgmt.pkgNo) → c.u < c.srcTotal →
        s.collRead ((c.csrc + c.u) % 2 ^ 56) 32 = .ok bs → ∃ t c', exec (.collTransfer ctx) s = .next t ∧
          t.pkg.env.sent = s.pkg.env.sent ++ [(c.comm, c.xid, c.rank, bs)] ∧ c' ∈ t.core.eng.cmds ∧ c'.id = c.id ∧ c'.u = c.u + 32 ∧ c'.st = .run ∧
          t.pkg.mem = s.pkg.mem ∧ t.core.sca = s.core.sca) ∧
      (s.transferFault y = none → y.paired = true → (∀ r ∈ y.ranks, s.arrived y r = true) → (writes c.kind c.croot c.rank = true → c.rank ∈ y.recvDone) →
        ((∃ r ∈ c.receivers, wordPkg (nth y.comm r) ≠ s.pkg.mgmt.pkgNo) → c.srcTotal ≤ c.u) → s.ownOutside (c.coff + 56) 8 = false →
        (reads c.kind c.croot c.rank = true → ∀ r ∈ c.receivers,
          r ∈ y.recvDone ∨ ∃ m ∈ s.remotes y, m.rank = r ∧ m.what = .done) → c.slotsLost s.pkg = none → c.coff % 64 = 0 → c.coff < arraySize - 56 → s.core.carved (c.coff + 56) = false →
        ∃ t c', exec (.collTransfer ctx) s = .next t ∧ c' ∈ t.core.eng.cmds ∧ c'.id = c.id ∧ c'.st = .ended ∧
          readNat t.pkg (arrayBase s.no + c.coff + 56) 8 = 1 ∧ t.core.sca = s.core.sca) ∧
      (∀ k : Nat, c.planes = true → writes c.kind c.croot c.rank = true → k < c.chunks →
        let w := readNat s.pkg (arrayBase s.no + c.pcb + 16 * k) 8
        w % 256 < c.depth → w % 256 * c.chunks + k < c.t → w / 256 % 2 = 0 → s.core.carved (c.pcb + 16 * k) = false → s.ownOutside (c.pcb + 16 * k) 16 = false →
        ∃ t, exec (.precisionCounterUpdate ctx k) s = .next t ∧ readNat t.pkg (arrayBase s.no + c.pcb + 16 * k) 8 =
            (w + 1 + (if w % 256 + 1 = c.depth then 2 ^ 9 else 0)) % 2 ^ 64 ∧
          (∀ i, i < arrayBase s.no + c.pcb + 16 * k ∨ arrayBase s.no + c.pcb + 16 * k + 8 ≤ i → readByte t.pkg i = readByte s.pkg i) ∧
          t.core = s.core ∧ t.others = s.others) ∧
      (c.coff % 64 = 0 → c.coff < arraySize - 56 → s.core.carved (c.coff + 56) = false → s.ownOutside (c.coff + 56) 8 = false →
        (y.cancelled = true ∨ (∃ m ∈ s.remotes y, m.what = .cancel) → ∃ t c', exec (.cancelArrival ctx) s = .next t ∧ c' ∈ t.core.eng.cmds ∧ c'.id = c.id ∧ c'.st = .ended ∧
          readNat t.pkg (arrayBase s.no + c.coff + 56) 8 = 2 ∧ t.core.sca = s.core.sca ∧
          (c.planes = true → writes c.kind c.croot c.rank = true → (c.pcb + 16 * c.chunks ≤ c.coff + 56 ∨ c.coff + 64 ≤ c.pcb) →
            ∀ k, k < c.chunks → s.core.carved (c.pcb + 16 * k) = false →
              let w := readNat s.pkg (arrayBase s.no + c.pcb + 16 * k) 8
              readNat t.pkg (arrayBase s.no + c.pcb + 16 * k) 8 = if w / 2 ^ 9 % 2 = 1 then w else w ||| 2 ^ 8 ||| 2 ^ 10)) ∧
        (c.startClk + 2 ^ 32 ≤ s.clk → y.paired = false ∨ (∃ r ∈ y.ranks, s.arrived y r = false) → y.members = [(c.rank, s.no, c.tl, c.id)] →
          s.core.eng.cmds.find? (fun k => k.id == c.id && k.st == .run) = some c → s.core.dying = false →
          s.core.trp.acttab.getLsbD 0 = false → s.core.trp.reports.length < 16 →
          ∃ t r c', exec (.noPeer ctx) s = .next t ∧ t.core.trp.reports = s.core.trp.reports ++ [r] ∧ r.info.cause = 15 ∧ r.info.reason = 4 ∧
            r.info.tl = c.tl ∧ r.info.tlnum = c.n ∧ c' ∈ t.core.eng.cmds ∧ c'.id = c.id ∧ c'.st = .ended ∧
            readNat t.pkg (arrayBase s.no + c.coff + 56) 8 = 3 ∧ t.core.sca = s.core.sca))) ∧
    (∀ (m : QEntry) (rest : List QEntry) (k : Cmd) (a : Double), s.core.lsu.storeQ = m :: rest → m.op = .marker k.id → s.mayDispatch true m = true →
      k.tl = 8 → k.op = .pcancel a → s.core.eng.cmds.filter (fun x => x.id == k.id) = [k] →
      (∀ x ∈ s.core.eng.cmds, x.tl = 8 → x.id = k.id ∨ x.st ≠ .ready) →
      s.core.eng.cmds.filter (fun x => match x.op with | .coll .. => true | _ => false) = [c] →
      let off := a.toNat % 2 ^ 32
      off % 64 = 0 → off < arraySize → s.core.carved off = false → badData s.pkg (arrayBase s.no + off) 64 = false →
      let x := readNat s.pkg (arrayBase s.no + off) 64
      let named := c.comm = x % 2 ^ 56 ∧ c.xid = x / 2 ^ 256 % 2 ^ 32
      (c.st = .run → ¬ named → ∃ t, exec (.queueDispatch true) s = .next t ∧ t.core.lsu.storeQ = rest ∧ t.pkg = s.pkg ∧
        t.core.eng.cmds = s.core.eng.cmds.filter (fun x => x.id ≠ k.id)) ∧
      (∀ y : Transfer, c.st = .run → named → s.transferOf c = some y →
        (∀ z ∈ s.pkg.transfers, z.members = y.members → z.xid = y.xid → z.comm = y.comm → z = y) → c.coff % 64 = 0 → c.coff < arraySize - 56 →
        s.core.carved (c.coff + 56) = false → s.ownOutside (c.coff + 56) 8 = false →
        ∃ t c', exec (.queueDispatch true) s = .next t ∧ t.core.lsu.storeQ = rest ∧ c' ∈ t.core.eng.cmds ∧ c'.id = c.id ∧ c'.st = .ended ∧
          readNat t.pkg (arrayBase s.no + c.coff + 56) 8 = 2 ∧ t.core.sca = s.core.sca ∧
          ∀ y' ∈ t.pkg.transfers, y'.members = y.members → y'.xid = y.xid → y'.comm = y.comm → y'.cancelled = true) ∧
      (c.st = .ready → c.coff = off → ∃ t c', exec (.queueDispatch true) s = .next t ∧ c' ∈ t.core.eng.cmds ∧ c'.id = c.id ∧ c'.rel = true ∧
        t.core.sca = s.core.sca ∧
        (let party := s.partyOf c x (match s.readTable (x % 2 ^ 56) with | .ok ws => some ws | .error _ => none)
         (∀ (ws : List Nat) (q : Nat), party = none → s.readTable (x % 2 ^ 56) = .ok ws → ranksOf s.pkg ws s.no = [q] →
           ∃ y, t.pkg.transfers = s.pkg.transfers ++ [y] ∧ y.members = [] ∧ y.comm = ws ∧ y.xid = x / 2 ^ 256 % 2 ^ 32 ∧ y.addr = x % 2 ^ 56 ∧
             y.job = s.core.un.job ∧ y.cancelled = true ∧ y.cancelClk = some s.clk ∧ t.pkg.mem = s.pkg.mem) ∧
         (∀ e, party = none → s.readTable (x % 2 ^ 56) = .error e → t.pkg = s.pkg) ∧
         ∀ y, party = some y → { y with cancelled := true, cancelClk := y.cancelClk.or (some s.clk) } ∈ t.pkg.transfers ∧ t.pkg.mem = s.pkg.mem)))
/-! ### The host, the links and the package -/

/-- R355, R358 to R361: the rings. A doorbell sets TAIL, or where it asks for more cards than the ring holds stops the ring with SUBMIT. SQCFG with EN
1 empties the ring, and its events that wait are discarded; SQHEAD bit 32 starts a stopped one; CQHEAD is the host's. A doorbell that moves TAIL back to
HEAD ends the window for the card there. A register write reaches SQBASE while the ring is disabled, CQBASE,
MBADDR and PEERTAB; with both host ports down none of them does anything. The fetcher takes card HEAD once it is whole, and accepts it
while no event of the ring waits: a good card opens a launch in its graph and an accepted event follows, a
bad one a rejected event; else its window begins, and after 2^16 clk SUBMIT stops the ring. A completion entry goes to the host's ring
where it has room, and signals the ring's vector.
That nothing passes with both host ports down (log entry 57) and which slot a
launch takes (log entry 46) is the model's choice.
Assumption log entries 46, 55 and 57 name the choices of the model it rests on. -/
def Obligations.RingEvents : Prop :=
  ∀ (s : State) (q : Nat) (v : Double), q < 16 →
    let r := ringOf s.pkg q
    (hostOpen s.pkg = false → exec (.sqtailWrite q v) s = .next s ∧ exec (.sqcfgWrite q v) s = .next s ∧ exec (.sqheadWrite q v) s = .next s ∧
      exec (.cqheadWrite q v) s = .next s ∧ (∀ off, exec (.registerWrite off v) s = .next s) ∧ exec (.completionEvent q) s = .next s) ∧
    (stopped s = false → r.fetching = true → r.got = none →
      (cardArrived s.pkg r = true →
        let card : BitVec 512 := BitVec.ofNat 512 (leNat (readBytes s.pkg (r.base + 64 * (r.head % 2 ^ r.logsz)) 64))
        (r.events ≠ [] → ∃ t, exec (.cardFetch q) s = .next t ∧ ringOf t.pkg q = { r with got := some card, first := none } ∧ t.core = s.core) ∧
        (r.events = [] → hostCardOk s.pkg card = false → ∃ t d, exec (.cardFetch q) s = .next t ∧ (ringOf t.pkg q).head = (r.head + 1) % 2 ^ 32 ∧
          (ringOf t.pkg q).events = [d] ∧ d.1 = (r.head % 2 ^ 32) * 2 ^ 32 + 3 * 2 ^ 8 ∧ t.pkg.launches = s.pkg.launches ∧
          t.core = s.core) ∧
        (r.events = [] → hostCardOk s.pkg card = true → graphCancelled (s.openGraph (cardGraph card) r.job (cardFld card 14 16) q r.head).pkg (cardGraph card) = false →
          ∃ t l, exec (.cardFetch q) s = .next t ∧ (ringOf t.pkg q).head = (r.head + 1) % 2 ^ 32 ∧
          (ringOf t.pkg q).events = [((r.head % 2 ^ 32) * 2 ^ 32 + (freeSlot s.pkg % 2 ^ 16) * 2 ^ 16 + 1 * 2 ^ 8, 0)] ∧
          launchAt t.pkg (freeSlot s.pkg) = some l ∧ l.card = card ∧ l.job = r.job ∧ l.phjob = cardFld card 12 32 ∧ l.graph = cardGraph card ∧ l.complete = false ∧
          l.host = true ∧ (l.isSelf = false → l.counter = (l.narg : Int)) ∧ t.core = s.core ∧ t.pkg.mem = s.pkg.mem)) ∧
      (cardArrived s.pkg r = false →
        ((∀ k, r.first = some k → s.clk < k + 2 ^ 16) →
          ∃ t, exec (.cardFetch q) s = .next t ∧ ringOf t.pkg q = { r with first := some (r.first.getD s.clk) } ∧ t.core = s.core) ∧
        (∀ k, r.first = some k → k + 2 ^ 16 ≤ s.clk → ∃ t d, exec (.submit q) s = .next t ∧ (ringOf t.pkg q).stop = true ∧
          (ringOf t.pkg q).events = r.events ++ [d] ∧ d.1 = (r.head % 2 ^ 32) * 2 ^ 32 + 4 * 2 ^ 8 ∧
          t.pkg.mgmt.msix = s.pkg.mgmt.msix ++ [20] ∧ t.core = s.core ∧ t.pkg.mem = s.pkg.mem))) ∧
    (hostOpen s.pkg = true →
    (r.en = true → sub32 (v.toNat % 2 ^ 32) r.head ≤ 2 ^ r.logsz → ∃ t, exec (.sqtailWrite q v) s = .next t ∧
      ringOf t.pkg q = (if v.toNat % 2 ^ 32 = r.head then { r with tail := r.head, first := none, got := none }
        else { r with tail := v.toNat % 2 ^ 32 }) ∧ (∀ k, k ≠ q → ringOf t.pkg k = ringOf s.pkg k) ∧ t.core = s.core ∧
      t.pkg.mem = s.pkg.mem) ∧
    (r.en = true → 2 ^ r.logsz < sub32 (v.toNat % 2 ^ 32) r.head → ∃ t, exec (.sqtailWrite q v) s = .next t ∧
      (ringOf t.pkg q).stop = true ∧ (ringOf t.pkg q).tail = r.tail ∧ (∃ d, (ringOf t.pkg q).events = r.events ++ [d] ∧
        d.1 = (r.head % 2 ^ 32) * 2 ^ 32 + 4 * 2 ^ 8) ∧ t.core = s.core) ∧
    (∃ t, exec (.sqcfgWrite q v) s = .next t ∧ (ringOf t.pkg q).job = v.toNat / 2 ^ 16 % 2 ^ 16 ∧ (ringOf t.pkg q).en = v.getLsbD 4 ∧
      (v.getLsbD 4 = true → (ringOf t.pkg q).head = 0 ∧ (ringOf t.pkg q).tail = 0 ∧ (ringOf t.pkg q).cqhead = 0 ∧
        (ringOf t.pkg q).cqtail = 0 ∧ (ringOf t.pkg q).stop = false ∧ (ringOf t.pkg q).events = []) ∧
      (v.getLsbD 4 = false → (ringOf t.pkg q).events = r.events ∧ (ringOf t.pkg q).head = r.head ∧ (ringOf t.pkg q).tail = r.tail ∧
        (ringOf t.pkg q).cqhead = r.cqhead ∧ (ringOf t.pkg q).cqtail = r.cqtail ∧ (ringOf t.pkg q).stop = r.stop) ∧
      (ringOf t.pkg q).logsz = (if r.en then r.logsz else if 4 ≤ v.toNat % 16 ∧ v.toNat % 16 ≤ 12 then v.toNat % 16 else 4) ∧
      t.core = s.core ∧ t.pkg.mem = s.pkg.mem) ∧
    (v.getLsbD 32 = true → ∃ t, exec (.sqheadWrite q v) s = .next t ∧
      ringOf t.pkg q = (if r.stop then { r with stop := false, first := none } else r) ∧ t.core = s.core) ∧
    (∃ t, exec (.cqheadWrite q v) s = .next t ∧ ringOf t.pkg q = { r with cqhead := v.toNat % 2 ^ 32 } ∧ t.core = s.core) ∧
    (r.en = false → ∃ t, exec (.registerWrite (0x10000 + 64 * q) v) s = .next t ∧
      ringOf t.pkg q = { r with base := v.toNat / 2 ^ 6 % 2 ^ 46 * 64 } ∧ t.core = s.core) ∧
    (∃ t, exec (.registerWrite (0x10000 + 64 * q + 32) v) s = .next t ∧ ringOf t.pkg q = { r with cqbase := v.toNat } ∧
      (∀ k, k ≠ q → ringOf t.pkg k = ringOf s.pkg k) ∧ t.core = s.core ∧ t.pkg.mem = s.pkg.mem) ∧
    (∃ t, exec (.registerWrite 0x100_0000 v) s = .next t ∧ t.pkg.mgmt.mbaddr = v.toNat / 2 ^ 8 % 2 ^ 44 * 256 ∧ t.core = s.core) ∧
    (∀ k, k < 512 → ∃ t, exec (.registerWrite (0x20_1000 + 8 * k) v) s = .next t ∧ (∀ j, fget 0 t.pkg.mgmt.peertab j =
      if j = k then v.setWidth 16 &&& 0x81FF else fget 0 s.pkg.mgmt.peertab j) ∧ t.core = s.core) ∧
    (∀ (d0 d1 : Nat) (rest : List (Nat × Nat)), r.events = (d0, d1) :: rest → sub32 r.cqtail r.cqhead < 2 ^ r.logsz →
      let a := hostKey ((r.cqbase + 16 * (r.cqtail % 2 ^ r.logsz)) % 2 ^ 64)
      ∃ t, exec (.completionEvent q) s = .next t ∧ ringOf t.pkg q = { r with cqtail := (r.cqtail + 1) % 2 ^ 32, events := rest } ∧
        t.pkg.mgmt.msix = s.pkg.mgmt.msix ++ [q] ∧ readNat t.pkg a 8 = d0 % 2 ^ 64 ∧ readNat t.pkg (a + 8) 8 = d1 % 2 ^ 64 ∧
        (∀ i, i < a ∨ a + 16 ≤ i → readByte t.pkg i = readByte s.pkg i) ∧ t.core = s.core))

/-- R148, R355, R356, R368 to R370: the host's reads and writes through the BARs, and what comes over the device links. With a host port
up, BAR2 writes HBM, BAR4 an idle core's array at once and a busy core's through its buffer, BAR0 a device register; a read returns what
is there. A peer reads, writes, updates atomically and tags HBM while a link port is up. GTS follows a master by counting once in a clk when it
is behind, and never counts back, while the master can be reached. A link port is up or down in LINKST. A host port that goes down loses the writes
that are still on it: those past the 64 entries of a buffer.
Assumption log entries 16, 54 and 57 name the choices of the model it rests on. -/
def Obligations.HostAndPeerEvents : Prop :=
  ∀ s : State,
    (hostOpen s.pkg = true → ∀ (off : Nat) (bs : List Byte),
      (off + bs.length ≤ hbmEnd → ∃ t, exec (.hostWrite 2 off bs) s = .next t ∧ t.core = s.core ∧ t.others = s.others ∧
        ∀ i, readByte t.pkg i = if off ≤ i ∧ i < off + bs.length then bs.getD (i - off) 0 else readByte s.pkg i) ∧
      (liveCore s.pkg (off / arraySlot) = true → off % arraySlot + bs.length ≤ arraySize →
        ((s.coreAt (off / arraySlot)).un.st = .idle → ∃ t, exec (.hostWrite 4 off bs) s = .next t ∧ t.core = s.core ∧
          ∀ i, readByte t.pkg i = if arraysBase + off ≤ i ∧ i < arraysBase + off + bs.length then bs.getD (i - (arraysBase + off)) 0
            else readByte s.pkg i) ∧
        ((s.coreAt (off / arraySlot)).un.st ≠ .idle → ∃ t port, exec (.hostWrite 4 off bs) s = .next t ∧ t.pkg = s.pkg ∧
          port < 2 ∧ port ∉ s.pkg.mgmt.portsDown ∧ (t.coreAt (off / arraySlot)).lsu.ingress =
            (s.coreAt (off / arraySlot)).lsu.ingress ++ [{ pa := arraysBase + off, bytes := bs, port := port }])) ∧
      (off % 8 = 0 → bs.length = 8 → off + 8 ≤ 2 ^ 28 →
        exec (.hostWrite 0 off bs) s = exec (.registerWrite off (BitVec.ofNat 64 (leNat bs))) s ∧
        ∃ t, exec (.hostRead 0 off 8) s = .next t ∧ ∃ l, t.pkg.mgmt.hostData = s.pkg.mgmt.hostData ++ [l] ∧ leNat l = readReg s off % 2 ^ 64) ∧
      (∀ len, off + len ≤ hbmEnd → badData s.pkg off len = false → ∃ t, exec (.hostRead 2 off len) s = .next t ∧
        t.pkg.mgmt.hostData = s.pkg.mgmt.hostData ++ [readBytes s.pkg off len] ∧ t.core = s.core ∧ t.pkg.mem = s.pkg.mem) ∧
      (∀ len, liveCore s.pkg (off / arraySlot) = true → off % arraySlot + len ≤ arraySize → badData s.pkg (arraysBase + off) len = false →
        ∃ t, exec (.hostRead 4 off len) s = .next t ∧
          t.pkg.mgmt.hostData = s.pkg.mgmt.hostData ++ [readBytes s.pkg (arraysBase + off) len] ∧ t.core = s.core ∧ t.pkg.mem = s.pkg.mem)) ∧
    (∀ port, port < 2 → port ∉ s.pkg.mgmt.portsDown → ∃ t, exec (.hostPortDown port) s = .next t ∧
      t.pkg = { s.pkg with mgmt := { s.pkg.mgmt with portsDown := s.pkg.mgmt.portsDown ++ [port] } } ∧
      ∀ n, t.coreAt n = { s.coreAt n with lsu := { (s.coreAt n).lsu with
        ingress := (s.coreAt n).lsu.ingress.take 64 ++ ((s.coreAt n).lsu.ingress.drop 64).filter fun x => x.port ≠ port } }) ∧
    (s.pkg.mgmt.linksUp = 0 → ∀ pa k, exec (.peerAccess pa k) s = .next s) ∧
    (∀ pa, pa < hbmEnd → s.pkg.mgmt.linksUp ≠ 0 →
      (∀ len, badData s.pkg pa len = false → exec (.peerAccess pa (.read len)) s =
        .next (s.modMgmt fun m => { m with peerData := m.peerData ++ [readBytes s.pkg pa len] })) ∧
      (∀ bs : List Byte, pa + bs.length ≤ hbmEnd → ∃ t, exec (.peerAccess pa (.write bs)) s = .next t ∧ t.core = s.core ∧
        ∀ i, readByte t.pkg i = if pa ≤ i ∧ i < pa + bs.length then bs.getD (i - pa) 0 else readByte s.pkg i) ∧
      (∀ (b e : Double), badData s.pkg pa 8 = false → ∃ t, exec (.peerAccess pa (.atomic 0 true b e)) s = .next t ∧
        readNat t.pkg pa 8 = (readNat s.pkg pa 8 + b.toNat) % 2 ^ 64 ∧
        (∃ l, t.pkg.mgmt.peerData = s.pkg.mgmt.peerData ++ [l] ∧ leNat l = readNat s.pkg pa 8) ∧
        ∀ i, i < pa ∨ pa + 8 ≤ i → readByte t.pkg i = readByte s.pkg i) ∧
      (∀ v : Half, ∃ t, exec (.peerAccess pa (.tag v)) s = .next t ∧ tagAt t.pkg pa = v ∧ t.pkg.mem = s.pkg.mem) ∧
      (∀ st : BitVec 2, ∃ t, exec (.peerAccess pa (.cells st)) s = .next t ∧ t.pkg.mem = s.pkg.mem ∧
        cellAt t.pkg pa = if st = 1 then .suspended else if st = 2 then .pending else .value)) ∧
    (∀ g : Nat, s.pkg.mgmt.gtsSync = true → s.pkg.mgmt.gtsMaster = false → pkgLost s.pkg s.pkg.env.gtsMaster = false → ∃ t, exec (.gtsSync g) s = .next t ∧
      t.pkg.gts = (if s.pkg.gts < g ∧ s.pkg.gtsSteered = false then s.pkg.gts + 1 else s.pkg.gts) ∧
      (t.pkg.mgmt.gtsLocked = true ↔ t.pkg.gts ≤ g + 1 ∧ g ≤ t.pkg.gts + 1) ∧ t.core = s.core ∧ t.pkg.mem = s.pkg.mem) ∧
    (∀ (port : Nat) (up : Bool), port < 16 → (up = true → s.pkg.live.contains (portDie port) = true) → ∃ t,
      exec (.linkPortChange port up) s = .next t ∧
      (∀ k, k < 16 → t.pkg.mgmt.linksUp.getLsbD k = if k = port then up else s.pkg.mgmt.linksUp.getLsbD k) ∧ t.core = s.core ∧
      t.pkg.mem = s.pkg.mem)

/-- R16, R371 to R373, R377, R379: what happens to the package. Power-on reset leaves every core idle in its reset state, HBM and the
arrays zero, nothing submitted, and the state the number of failed dies gives. The clock moves by 25 MHz between 800 MHz and 1.7 GHz. A
thermal trip halts the package. Three missed heartbeats declare a die lost; its loss takes it from the live dies, leaves its cores idle,
degrades the package or, where it is not the first, fails it (a halted one too), and signals vector 17 with its number. Spares are used where there are some, and no program sees it.
That the arrays are zero after power-on (log entry 4), and the registers of a core for which no rule gives a value (log entry 5), is the
model's choice.
Assumption log entries 4, 5, 6, 52, 66, 67 and 84 name the choices of the model it rests on. -/
def Obligations.PackageEvents : Prop :=
  ∀ s : State,
    (∃ t, exec .powerOnReset s = .next t ∧ t.core = .reset ∧ t.others = [] ∧ t.pkg.clk = 0 ∧ t.pkg.gts = 0 ∧ t.pkg.queues = [] ∧
      t.pkg.launches = [] ∧ t.pkg.jobs = [] ∧ t.pkg.objs = [] ∧ t.pkg.rings = [] ∧
      (∀ a, a < 0xA_0000_0000_0000 → readByte t.pkg a = 0) ∧ (∀ a, 0xA_0000_0000_0000 ≤ a → readByte t.pkg a = readByte s.pkg a) ∧
      (∀ d, d ∈ t.pkg.live ↔ d < 9 ∧ d ∉ s.pkg.env.badDies) ∧
      t.pkg.mgmt.pstate = (if t.pkg.live.length = 9 then 0 else if t.pkg.live.length = 8 then 1 else 2) ∧ t.pkg.mgmt.mhz = 1700 ∧
      t.pkg.mgmt.busy = false) ∧
    (∀ up : Bool, (if up then s.pkg.mgmt.mhz + 25 ≤ 1700 ∧ 800 ≤ s.pkg.mgmt.mhz + 25 else 825 ≤ s.pkg.mgmt.mhz ∧ s.pkg.mgmt.mhz ≤ 1725) →
      exec (.clockChange up) s = .next (s.modMgmt fun m =>
        { m with mhz := if up then m.mhz + 25 else m.mhz - 25, msix := m.msix ++ [18] })) ∧
    (∃ t, exec .thermalTrip s = .next t ∧ t.pkg.mgmt.pstate = 3 ∧ t.pkg.mgmt.msix = s.pkg.mgmt.msix ++ [18] ∧ t.core = s.core ∧
      exec .bundleIssue t = .next t) ∧
    (∀ die : Nat, s.pkg.live.contains die = true →
      (die ∉ s.pkg.mgmt.declared → exec (.heartbeatMiss die) s =
        .next (s.modMgmt fun m => { m with declared := m.declared ++ [die] })) ∧
      ((∃ d ∈ s.pkg.live, d ≠ die) → ∃ t, exec (.dieLoss die) s = .next t ∧ t.pkg.live = s.pkg.live.filter (fun d => d ≠ die) ∧
        (∀ n, n / 64 = die → (t.coreAt n).un.st = .idle) ∧ t.pkg.mgmt.pstate = (if t.pkg.live.length ≤ 7 then 2 else if s.pkg.mgmt.pstate = 0 then 1 else s.pkg.mgmt.pstate) ∧
        17 + 64 * die ∈ t.pkg.mgmt.msix ∧ (∀ n, n / 64 ≠ die → (t.coreAt n).sca.g = (s.coreAt n).sca.g))) ∧
    (∀ a b : Nat,
      exec (.stackRowSpare a b) s = .next (s.modMgmt fun m => { m with spared := m.spared ++ [(0, a * 2 ^ 32 + b)] }) ∧
      ((s.pkg.mgmt.spared.filter fun x => x.1 == 1 && x.2 / 2 ^ 32 == a).length < 4 → exec (.pseudoChannelSpare a b) s =
        .next (s.modMgmt fun m => { m with spared := m.spared ++ [(1, a * 2 ^ 32 + b)], msix := m.msix ++ [19] })) ∧
      ((s.pkg.mgmt.spared.filter fun x => x == (2, a)).length < 2 → exec (.laneRetrain a) s = .next (s.modMgmt fun m => { m with spared := m.spared ++ [(2, a)], msix := m.msix ++ [19] })))

/-! ### The management mailbox -/

/-- R358, R368, R372 to R376, R379, R381, R382, R404: the commands about the device itself. INFO gives seven doubles; DEBUG sets a core's
DBGMODE; CAP sets the power cap between 1500 and 4200; LOGRD moves the oldest entries to HBM; LINKCFG loads PEERTAB and GTSCTL and, where
asked, the package number that bring-up takes; DIEOFF takes a die out; RESET brings the package up again, and its log is kept; ATTEST
writes a signed report; PATCH stores an image that verifies; an OP that names no command gives status 32.
Assumption log entries 6, 62 and 66 name the choices of the model it rests on. -/
def Obligations.DeviceCommands : Prop :=
  ∀ s : State,
    (Asked 0x01 s → ∃ t l, exec .info s = .next t ∧ Answered s t 0 l ∧ l.length = 7 ∧ l.getD 0 0 = 0x0100 ∧ l.getD 3 0 = 0xB1 ∧
      l.getD 5 0 = (s.pkg.live.map fun d => 2 ^ d).sum ∧ t.core = s.core) ∧
    (Asked 0x0A s → s.mbArg 2 ≤ 2 → liveCore s.pkg (s.mbArg 1) = true → ∃ t, exec .debug s = .next t ∧ Answered s t 0 [] ∧
      (t.coreAt (s.mbArg 1)).trp.dbgmode = s.mbArg 2 ∧ (∀ n, n ≠ s.mbArg 1 → t.coreAt n = s.coreAt n) ∧ (∀ i, readByte t.pkg i = readByte s.pkg i)) ∧
    (Asked 0x0B s → 1500 ≤ s.mbArg 1 → s.mbArg 1 ≤ 4200 → ∃ t, exec .cap s = .next t ∧ Answered s t 0 [] ∧
      t.pkg.mgmt.cap = s.mbArg 1 ∧ t.core = s.core ∧ (∀ i, readByte t.pkg i = readByte s.pkg i)) ∧
    (Asked 0x10 s →
      let n := min (s.mbArg 2) (logSize s.pkg.mgmt.log)
      s.mbArg 1 + 32 * n ≤ hbmEnd → s.mbArg 1 + 32 * n ≤ s.pkg.mgmt.mbaddr + 128 ∨ s.pkg.mgmt.mbaddr + 136 ≤ s.mbArg 1 →
      ∃ t, exec .logrd s = .next t ∧ Answered s t 0 [n] ∧ logSize t.pkg.mgmt.log = logSize s.pkg.mgmt.log - n ∧
        (∀ i, i < n → readNat t.pkg (s.mbArg 1 + 32 * i) 32 = (s.pkg.mgmt.log.flatten.getD i 0).toNat) ∧
        t.pkg.mgmt.log.flatten = s.pkg.mgmt.log.flatten.drop n ∧ t.core = s.core) ∧
    (Asked 0x12 s → s.mbArg 1 + 4096 ≤ hbmEnd → s.mbArg 3 / 2 ^ 9 % 2 ^ 54 = 0 → ∃ t, exec .linkcfg s = .next t ∧ Answered s t 0 [] ∧
      (∀ i, i < 512 → fget 0 t.pkg.mgmt.peertab i = BitVec.ofNat 16 (readNat s.pkg (s.mbArg 1 + 8 * i) 8) &&& 0x81FF) ∧
      t.pkg.mgmt.gtsSync = (BitVec.ofNat 64 (s.mbArg 2)).getLsbD 0 ∧ t.pkg.mgmt.gtsMaster = (BitVec.ofNat 64 (s.mbArg 2)).getLsbD 1 ∧
      t.pkg.mgmt.flashPkg = (if s.mbArg 3 / 2 ^ 63 % 2 = 1 then s.mbArg 3 % 2 ^ 9 else s.pkg.mgmt.flashPkg) ∧
      t.pkg.mgmt.pkgNo = s.pkg.mgmt.pkgNo ∧ t.core = s.core) ∧
    (Asked 0x11 s → s.mbArg 1 ≤ 8 → s.pkg.live.contains (s.mbArg 1) = true → ∃ t, exec .dieoff s = .next t ∧ Answered s t 0 [] ∧
      t.pkg.live = s.pkg.live.filter (fun d => d ≠ s.mbArg 1) ∧ 17 + 64 * s.mbArg 1 ∈ t.pkg.mgmt.msix ∧
      t.pkg.mgmt.pstate = (if t.pkg.live.length ≤ 7 then 2 else if s.pkg.mgmt.pstate = 0 then 1 else s.pkg.mgmt.pstate)) ∧
    (Asked 0x13 s → ∃ t, exec .reset s = .next t ∧ Answered s t 0 [] ∧ t.core = .reset ∧ t.others = [] ∧ t.pkg.jobs = [] ∧
      t.pkg.launches = [] ∧ t.pkg.clk = 0 ∧ ((∃ p, s.pkg.mgmt.patch = some p ∧ s.pkg.mgmt.fusedSvn ≤ p.svn) → t.pkg.mgmt.log = s.pkg.mgmt.log)) ∧
    (Asked 0x0E s → s.mbArg 2 + 48 ≤ hbmEnd → s.mbArg 3 + 312 ≤ hbmEnd → (jobAt s.pkg (s.mbArg 1)).isSome = true →
      ∃ t body, exec .attest s = .next t ∧ Answered s t 0 [] ∧ body = attestBody s (s.mbArg 1) (readBytes s.pkg (s.mbArg 2) 48) ∧
        body.length = 216 ∧ readBytes t.pkg (s.mbArg 3) 216 = body ∧ readNat t.pkg (s.mbArg 3) 4 = 0x54414446 ∧
        readBytes t.pkg (s.mbArg 3 + 16) 48 = readBytes s.pkg (s.mbArg 2) 48 ∧ t.core = s.core) ∧
    (Asked 0x0F s → s.mbArg 1 + s.mbArg 2 ≤ hbmEnd → badData s.pkg (s.mbArg 1) (s.mbArg 2) = false →
      patchOk s.pkg.mgmt (readBytes s.pkg (s.mbArg 1) (s.mbArg 2)) = true → ∃ t p, exec .patch s = .next t ∧ Answered s t 0 [] ∧
      t.pkg.mgmt.patch = some p ∧ p.ver = readNat s.pkg (s.mbArg 1 + 4) 4 ∧ p.svn = readNat s.pkg (s.mbArg 1 + 8) 4 ∧
      t.pkg.mgmt.inForce = s.pkg.mgmt.inForce ∧ t.core = s.core) ∧
    (s.pkg.mgmt.busy = true → (∀ op, 1 ≤ op → op ≤ 0x13 → s.mbArg 0 % 2 ^ 8 ≠ op) → ∃ t, exec .badcmd s = .next t ∧ Answered s t 32 [] ∧
      t.core = s.core ∧ (∀ i, readByte t.pkg i = readByte s.pkg i))

/-- R119, R331, R350, R364, R376, R380, R403: the commands about jobs. JOBNEW makes a job with its registers and zeroes its root table; JOBEND
cancels it, and frees it once nothing of it is left; MAP and UNMAP change its tables; LOAD gives the loader's status and addresses; UNLOAD
forgets an object nothing uses, its pages leave the micro-TLBs, and it ends once no access translated there is left; RESUME puts a parked context on its core's run list, and KILL ends it; CKPT first holds the job still,
then, once no unit of it runs, keeps what memory holds, and streams its ranges to the peer one after the other, 2,048 bytes at a time with their tag and
cell states; RESTORE streams them back where the job is idle, and ends where the peer's data fails ECC.
Assumption log entries 58, 60, 61, 63, 64 and 65 name the choices of the model it rests on. -/
def Obligations.JobCommands : Prop :=
  ∀ s : State,
    (Asked 0x02 s → s.mbArg 1 < 65536 → s.mbArg 2 % 4096 = 0 → s.mbArg 2 + 2048 ≤ hbmEnd → jobAt s.pkg (s.mbArg 1) = none →
      ∃ t j, exec .jobnew s = .next t ∧ Answered s t 0 [] ∧ jobAt t.pkg (s.mbArg 1) = some j ∧ j.xroot = s.mbArg 2 ∧
        j.acttab.toNat = s.mbArg 3 / 2 ^ 9 % 2 ^ 47 * 2 ^ 9 + s.mbArg 3 % 2 ∧
        j.methctl.toNat = s.mbArg 4 / 2 ^ 12 % 2 ^ 44 * 2 ^ 12 + s.mbArg 4 % 2 ^ 5 ∧ j.ctxpool.toNat = s.mbArg 5 ∧ j.level.counter = 0 ∧ j.level.cancelled = false ∧
        (∀ i, readByte t.pkg i = if s.mbArg 2 ≤ i ∧ i < s.mbArg 2 + 2048 then 0 else readByte s.pkg i) ∧ t.core = s.core) ∧
    (∀ j, Asked 0x03 s → jobAt s.pkg (s.mbArg 1) = some j → j.level.cancelled = true →
      (s.pkg.saved.filter fun x => x.1.job == s.mbArg 1 && x.1.parked) = [] → s.jobCores (s.mbArg 1) = [] → j.level.counter = 0 →
      ∃ t, exec .jobend s = .next t ∧ Answered s t 0 [] ∧ jobAt t.pkg (s.mbArg 1) = none ∧ (∀ o ∈ t.pkg.objs, o.job ≠ s.mbArg 1) ∧
        t.core = s.core) ∧
    (∀ root p, Asked 0x04 s → vaRangeOk (s.mbArg 2) (s.mbArg 4) = true → paRangeOk (s.mbArg 3) (s.mbArg 4) = true →
      pteBitsOk (s.mbArg 5) = true → jobRoot s.pkg (s.mbArg 1) = some root → rangeMapped s.pkg root (s.mbArg 2) (s.mbArg 4) = false →
      mapRange root (s.mbArg 2) (s.mbArg 3) (s.mbArg 4) (s.mbArg 5) s.pkg = some p →
      ∃ t, exec .map s = .next t ∧ Answered s t 0 [] ∧ (∀ i, readByte t.pkg i = readByte p i) ∧ t.core = s.core) ∧
    (∀ root p, Asked 0x05 s → vaRangeOk (s.mbArg 2) (s.mbArg 3) = true → jobRoot s.pkg (s.mbArg 1) = some root →
      rangePinned s.pkg root (s.mbArg 2) (s.mbArg 3) = false → unmapRange root (s.mbArg 2) (s.mbArg 3) s.pkg = some p →
      s.jobCores (s.mbArg 1) = [] → ∃ t, exec .unmap s = .next t ∧ Answered s t 0 [] ∧ (∀ i, readByte t.pkg i = readByte p i) ∧ t.core = s.core) ∧
    (∀ j u r, Asked 0x06 s → s.mbArg 2 + s.mbArg 3 ≤ hbmEnd → jobAt s.pkg (s.mbArg 1) = some j → badData s.pkg (s.mbArg 2) (s.mbArg 3) = false →
      loadObject (s.mbArg 1) j (readBytes s.pkg (s.mbArg 2) (s.mbArg 3)) s = (u, r) → r.status = 0 →
      ∃ t, exec .load s = .next t ∧ Answered u t 0 [0, r.handle, r.code, r.data, r.cell] ∧ t.pkg.objs = u.pkg.objs ∧
        ∃ o, o ∈ t.pkg.objs ∧ o.handle = r.handle ∧ o.job = s.mbArg 1 ∧ o.code = r.code ∧ o.data = r.data ∧ o.cell = r.cell) ∧
    (∀ o, Asked 0x07 s → s.pkg.mgmt.unmapping = [] → o ∈ s.pkg.objs → o.handle = s.mbArg 1 → objUnused s (s.mbArg 1) = true →
      ∃ t, exec .unload s = .next t ∧ (∀ x ∈ t.pkg.objs, x.handle ≠ s.mbArg 1) ∧ (∀ x ∈ s.pkg.objs, x.handle ≠ s.mbArg 1 → x ∈ t.pkg.objs) ∧
        ((∀ x ∈ s.pkg.objs, x.handle = s.mbArg 1 → s.jobCores x.job = []) → Answered s t 0 [] ∧ t.core = s.core) ∧
        (∀ (x : Obj) (r : Nat × Nat) (k pg : Nat), x ∈ s.pkg.objs → x.handle = s.mbArg 1 → r ∈ x.ranges → k ∈ s.jobCores x.job →
          pg ∈ (t.coreAt k).lsu.utlb → pg < r.1 / 65536 ∨ (r.1 + r.2) / 65536 ≤ pg) ∧
        (∀ (x : Obj) (r : Nat × Nat) (k : Nat), x ∈ s.pkg.objs → x.handle = s.mbArg 1 → r ∈ x.ranges → k ∈ s.jobCores x.job →
          (s.coreAt k).touches r.1 r.2 = true → t.pkg.mgmt.busy = true ∧ (x.job, r) ∈ t.pkg.mgmt.unmapping)) ∧
    (Asked 0x07 s → s.pkg.mgmt.unmapping ≠ [] →
      (s.pkg.mgmt.unmapping.any s.rangeTouched = true → exec .unload s = .next s) ∧
      (s.pkg.mgmt.unmapping.any s.rangeTouched = false → ∃ t, exec .unload s = .next t ∧ Answered s t 0 [] ∧ t.core = s.core)) ∧
    (∀ x c, liveCore s.pkg (s.mbArg 1) = true → s.parkedOn (s.mbArg 1) = some (x, c) →
      (Asked 0x08 s → ∃ t q, exec .resume s = .next t ∧ Answered s t 0 [] ∧
        (t.coreAt (s.mbArg 1)).un.runList = insertRun q (s.coreAt (s.mbArg 1)).un.runList ∧ q.saved = some x.area ∧ q.recd = c.un.recd ∧
        ∃ y, (y, c) ∈ t.pkg.saved ∧ y.area = x.area ∧ y.parked = false) ∧
      (Asked 0x09 s → ∃ t, exec .kill s = .next t ∧ Answered s t 0 [] ∧ (∀ y ∈ t.pkg.saved, y.1.area ≠ x.area) ∧
        20 ∈ t.pkg.mgmt.msix ∧ (∀ l, launchAt s.pkg (recLslot c.un.recd) = some l → l.status = none →
          ∃ l', launchAt t.pkg (recLslot c.un.recd) = some l' ∧ l'.status = some (BitVec.ofNat 32 (0x80000000 + x.info.cause))))) ∧
    (∀ job slot rs, peerArgs s = .ok (job, slot, rs) →
      (Asked 0x0C s → s.pkg.mgmt.quiesced ≠ some job → ∃ t, exec .ckpt s = .next t ∧ t.pkg.mgmt.quiesced = some job ∧ t.pkg.mgmt.busy = true ∧
        (∀ k ∈ s.jobCores job, (t.coreAt k).trp.preemptDue = true) ∧ t.pkg.mem = s.pkg.mem) ∧
      (∀ k, ((∃ h i, (s.coreAt k).un.st = .frozen h i) → s.atRest k = true) ∧ ((s.coreAt k).un.st = .running → s.atRest k = false)) ∧
      (Asked 0x0C s → s.pkg.mgmt.quiesced = some job → s.pkg.mgmt.streaming = none →
        ((∃ k ∈ s.jobCores job, s.atRest k = false) → exec .ckpt s = .next s) ∧
        ((∀ k ∈ s.jobCores job, s.atRest k = true) →
          ((∀ r ∈ rs, badRange s.pkg r.1 r.2.2 = false) → ∃ t, exec .ckpt s = .next t ∧ t.pkg.mgmt.busy = true ∧ t.core = s.core ∧
            t.pkg.mgmt.streaming = some { done := 0, mem := s.pkg.mem, tags := s.pkg.tags, cells := s.pkg.cells } ∧ t.pkg.mem = s.pkg.mem) ∧
          ((∃ r ∈ rs, badRange s.pkg r.1 r.2.2 = true) → ∃ t, exec .ckpt s = .next t ∧ Answered s t 37 [] ∧ t.pkg.mgmt.quiesced = none))) ∧
      (∀ x, Asked 0x0C s → s.pkg.mgmt.quiesced = some job → s.pkg.mgmt.streaming = some x →
        ((rs.map fun r => r.2.2).sum ≤ x.done → ∃ t, exec .ckpt s = .next t ∧ Answered s t 0 [] ∧ t.pkg.mgmt.quiesced = none ∧
          t.pkg.mgmt.streaming = none ∧ t.core = s.core ∧ ∀ i, readByte t.pkg i = readByte s.pkg i) ∧
        (∀ (before after : List (Nat × Nat × Nat)) (a b n : Nat), rs = before ++ (a, b, n) :: after →
          let k := (before.map fun r => r.2.2).sum
          k ≤ x.done → x.done < k + n →
          let src := a + (x.done - k)
          let dst := routed s.pkg (peerBase slot) + (b + (x.done - k))
          ∃ t, exec .ckpt s = .next t ∧ t.pkg.mgmt.streaming = some { x with done := x.done + 2048 } ∧ t.pkg.mgmt.busy = true ∧ t.core = s.core ∧
            (∀ i, readByte t.pkg i = if dst ≤ i ∧ i < dst + 2048 then fget 0 x.mem (src + (i - dst)) else readByte s.pkg i) ∧
            (∀ i, tagAt t.pkg i = if i / 2048 = dst / 2048 then fget 0 x.tags (src / 2048) else tagAt s.pkg i) ∧
            (∀ i, cellAt t.pkg i = if dst / 64 ≤ i / 64 ∧ i / 64 < dst / 64 + 32 then fget .value x.cells (src / 64 + (i / 64 - dst / 64))
              else cellAt s.pkg i))) ∧
      (Asked 0x0D s → jobIdle s job = true →
        let done := match s.pkg.mgmt.streaming with | some x => x.done | none => 0
        ((rs.map fun r => r.2.2).sum ≤ done → ∃ t, exec .restore s = .next t ∧ Answered s t 0 [] ∧ t.pkg.mgmt.streaming = none ∧
          t.core = s.core ∧ ∀ i, readByte t.pkg i = readByte s.pkg i) ∧
        (∀ (before after : List (Nat × Nat × Nat)) (a b n : Nat), rs = before ++ (a, b, n) :: after →
          let k := (before.map fun r => r.2.2).sum
          k ≤ done → done < k + n →
          let src := routed s.pkg (peerBase slot) + (b + (done - k))
          let dst := a + (done - k)
          (badRange s.pkg src 2048 = true → ∃ t, exec .restore s = .next t ∧ Answered s t 37 [] ∧ t.pkg.mgmt.streaming = none ∧ t.core = s.core) ∧
          (badRange s.pkg src 2048 = false → ∃ t y, exec .restore s = .next t ∧ t.pkg.mgmt.streaming = some y ∧ y.done = done + 2048 ∧
            t.pkg.mgmt.busy = true ∧ t.core = s.core ∧
            (∀ i, readByte t.pkg i = if dst ≤ i ∧ i < dst + 2048 then readByte s.pkg (src + (i - dst)) else readByte s.pkg i) ∧
            (∀ i, tagAt t.pkg i = if i / 2048 = dst / 2048 then tagAt s.pkg src else tagAt s.pkg i) ∧
            (∀ i, cellAt t.pkg i = if dst / 64 ≤ i / 64 ∧ i / 64 < dst / 64 + 32 then cellAt s.pkg (64 * (src / 64 + (i / 64 - dst / 64)))
              else cellAt s.pkg i)))) ∧
      (Asked 0x0D s → jobIdle s job = false → ∃ t, exec .restore s = .next t ∧ Answered s t 37 [] ∧ t.core = s.core))

/-! ### Encodings, storage, frames and invariants -/

/-- R50 to R58, R67, R68: decode and encode agree. Every slot operation the scanner accepts, in each slot it is legal in and with every
operand at every value its encoding admits, encodes in 48 bits that decode to it; and every bundle of such operations, each valid or not,
encodes in 256 bits that decode to it. -/
def Obligations.RoundTrip : Prop :=
  (∀ i : Instr, Sys2Proof.Laws.RoundTrip.Statement i) ∧
    ∀ b : Bundle, b.wf = true → encodeBundle b < 2 ^ 256 ∧ decodeBundle (encodeBundle b) = .ok b

/-- R54, R57, R67, R68 and the body tables of the owning chapters: words written out from the encoding tables, one of each slot and of each
family, decode to the operations they stand for; a word with a reserved bit set, an unassigned major opcode or an operation outside its slot
does not decode. -/
def Obligations.DecodesWords : Prop :=
  let h : Head := { sq := false, greg := 0, gpos := 0, gneg := false }
  decodeSlot .s1 (0x02 * 2 ^ 40 + 3 * 2 ^ 22 + 1 * 2 ^ 15 + 2 * 2 ^ 9 + 1) none =
    .ok (.subD .s1 h { dst := 3, wbs := false, srcA := 1, srcB := 2, hldA := false, hldB := false }) ∧
  decodeSlot .s0 (0x04 * 2 ^ 40 + 2 ^ 39 + 5 * 2 ^ 34 + 63 * 2 ^ 28 + 2 ^ 27 + 31 * 2 ^ 22 + 32 * 2 ^ 15 + 0x7FFF) none =
    .ok (.addiD .s0 { sq := true, greg := 5, gpos := 63, gneg := true } { dst := 31, wbs := false, srcA := 32, imm := -1 }) ∧
  decodeSlot .s0 (0x10 * 2 ^ 40 + 0xFFFFFE) none = .ok (.br h (-2)) ∧
  decodeSlot .s1 (0x26 * 2 ^ 40 + 7 * 2 ^ 22 + 4 * 2 ^ 15 + 2 ^ 14 + 8) none =
    .ok (.ldd h { dst := 7, wbs := false, srcA := 4, pi := true, ofs := 8 }) ∧
  decodeSlot .s1 (0x39 * 2 ^ 40 + 7 * 2 ^ 22 + 4 * 2 ^ 15 + 5 * 2 ^ 9 + 2 ^ 8 + 3 * 2 ^ 6 + 2 * 2 ^ 4) none =
    .ok (.acas h { dst := 7, wbs := false, srcA := 4, srcB := 5, sz := true, ord := 3, scp := 2 }) ∧
  decodeSlot .s0 (0x62 * 2 ^ 40 + 9 * 2 ^ 22 + 0x021 * 2 ^ 3) none = .ok (.mfs .s0 h 9 false 0x021) ∧
  decodeSlot .x (0x70 * 2 ^ 40 + 1023 * 2 ^ 17 + 15 * 2 ^ 13) none = .ok (.xex h 1023 15) ∧
  decodeSlot .c (0x80 * 2 ^ 40 + 4 * 2 ^ 21 + 5 * 2 ^ 15 + 2 * 2 ^ 13) none = .ok (.cpy h 4 5 2) ∧
  decodeSlot .e (0xFA * 2 ^ 40 + 6 * 2 ^ 24 + 1 * 2 ^ 21) none = .ok (.kmov h 6 1) ∧
  decodeSlot .s1 (0x55 * 2 ^ 40) none = .error { cond := .major, pos := 40 } ∧
  decodeSlot .s0 (0x02 * 2 ^ 40 + 9) none = .error { cond := .subOp, pos := 0 } ∧
  decodeSlot .x (0x70 * 2 ^ 40 + 1) none = .error { cond := .reservedField, pos := 0 } ∧
  decodeSlot .c (0xFF * 2 ^ 40) none = .error { cond := .major, pos := 40 }

/-- R84, R55, R105: what an operation leaves alone. An operation whose guard is false issues and does nothing but age the latches. It, one that
a taken branch kills, and an operation of slots S0 and S1 without an access, a wait or a change of mode (NOP; the arithmetic, logic,
shift, constant and bit-field operations; BR, BRL, BRI, RET; TIME and PERFRD), unless it traps, leaves every byte, tag, full/empty bit and
cell of memory, every other core, every g register (its result lands later), loop counters and predicates, lanes, tiles, accumulators and
pointers, tables, engines (but that the kill marks armed resolutions), trap banks and level as they were; the held operands too, but for an operation with hold bits whose guard is true.
Assumption log entry 8 names the choices of the model it rests on. -/
def Obligations.IssueFrame : Prop :=
  ∀ (i : Instr) (h : Head) (s : State), i.head? = some h → Boundary s → s.core.sca.late = [] →
    s.core.sca.spNext = none → s.core.sca.tretNow = false → s.core.tab.wait = none → s.core.trp.reentry = none →
    (Due i s → guardOf h (atIssue i s).core = false → exec i s = .next (issued i (atIssue i s))) ∧
    ∀ t m, exec i s = .next t → i.major? = some m →
      (Due i s ∧ ¬Acts h i s) ∨ m ∈ [0x00, 0x01, 0x02, 0x03, 0x04, 0x05, 0x06, 0x07, 0x08, 0x09, 0x0A, 0x0B, 0x0C, 0x0D, 0x0E, 0x10, 0x11, 0x12,
        0x13, 0x64, 0x66] →
      (∃ c, t = trapped s c) ∨
        ((∀ a, readByte t.pkg a = readByte s.pkg a) ∧ (∀ a, tagAt t.pkg a = tagAt s.pkg a ∧ fullAt t.pkg a = fullAt s.pkg a ∧
          cellAt t.pkg a = cellAt s.pkg a) ∧ (∀ n, n ≠ s.no → t.coreAt n = s.coreAt n) ∧
        (let c := t.coreAt s.no
         (∀ n, c.greg n = s.core.greg n) ∧ c.sca.lc = s.core.sca.lc ∧ c.sca.spst = s.core.sca.spst ∧ c.vec = s.core.vec ∧
          c.tab.ents = s.core.tab.ents ∧ c.tab.cls = s.core.tab.cls ∧ c.tab.act = s.core.tab.act ∧
          { c.eng with armed := [] } = { s.core.eng with armed := [] } ∧ (s.core.sca.br2 = none → c.eng.armed = s.core.eng.armed) ∧
          (∀ (k : Nat) (a : Armed), s.core.eng.armed[k]? = some a → ∃ d, c.eng.armed[k]? = some { a with dead := d }) ∧
          c.lsu.size = s.core.lsu.size ∧ c.lsu.cache = s.core.lsu.cache ∧ c.lsu.ackcnt = s.core.lsu.ackcnt ∧
          c.trp.level = s.core.trp.level ∧ c.trp.bank1 = s.core.trp.bank1 ∧ c.trp.bank2 = s.core.trp.bank2 ∧
          c.trp.reports = s.core.trp.reports ∧ c.un.recd = s.core.un.recd ∧ c.un.st = s.core.un.st ∧
          (m ∉ [0x01, 0x02, 0x05] ∨ guardOf h (atIssue i s).core = false → c.sca.held = s.core.sca.held)))

/-- R5: memory by physical address. A write gives each byte of its range and leaves every other byte, tag, full/empty bit and cell; a number
written in n bytes reads back as its low 8n bits, its least significant byte at the lowest address; and a write keeps the canonical form.
Assumption log entry 4 names the choices of the model it rests on. -/
def Obligations.MemoryReadWrite : Prop :=
  ∀ (p : Pkg) (pa : Nat),
    (∀ (bs : List Byte) (a : Nat), readByte (writeBytes p pa bs) a =
      if pa ≤ a ∧ a < pa + bs.length then bs.getD (a - pa) 0 else readByte p a) ∧
    (∀ (bs : List Byte) (a : Nat), tagAt (writeBytes p pa bs) a = tagAt p a ∧ fullAt (writeBytes p pa bs) a = fullAt p a ∧
      cellAt (writeBytes p pa bs) a = cellAt p a) ∧
    (∀ n v : Nat, readNat (writeNat p pa n v) pa n = v % 256 ^ n ∧
      ∀ k, k < n → (readByte (writeNat p pa n v) (pa + k)).toNat = v / 256 ^ k % 256) ∧
    (∀ bs : List Byte, p.Canonical → (writeBytes p pa bs).Canonical)

/-- R309: the storage of queues. An entry's mask has bit i set where word i differs from the entry before it; the entry is the two bytes of
the mask and the four bytes of each such word, 2 + 4·popcount(mask) bytes in all; and the entries of a queue, packed from an entry before the
first of zero words, read back as the records they were made from.
Assumption log entry 73 names the choices of the model it rests on. -/
def Obligations.QueueStorage : Prop :=
  (∀ prev cur : List Word32, prev.length = 16 → cur.length = 16 →
    (∀ i, i < 16 → (bit (deltaMask prev cur) i = true ↔ prev.getD i 0 ≠ cur.getD i 0)) ∧
    (deltaEntry prev cur).take 2 = leBytes 2 (deltaMask prev cur) ∧
    (deltaEntry prev cur).drop 2 = (((List.range 16).filter fun i => prev.getD i 0 ≠ cur.getD i 0).map fun i =>
      leBytes 4 (cur.getD i 0).toNat).flatten ∧
    (deltaEntry prev cur).length = 2 + 4 * ((List.range 16).filter fun i => bit (deltaMask prev cur) i).length ∧
    ∀ rest, deltaRead prev (deltaEntry prev cur ++ rest) = some (cur, rest)) ∧
  ∀ rs : List Rec, deltaReadAll rs.length (List.replicate 16 0) (deltaQueue (List.replicate 16 0) (rs.map recWords)) = some (rs.map recWords)

/-- R41, R84, R133, R359, R372: the machine after reset. Every core is idle with no trap level, its g registers, latches, loop counters and
predicates zero, RNGS 1 and PHASECTL holding only its two thresholds; HBM is zero, tags zero and cells VALUE; nine dies live, GTS 0, every
ring disabled with 16 slots, nothing queued and no job.
Assumption log entries 4, 5 and 6 name the choices of the model it rests on. -/
def Obligations.ResetState : Prop :=
  let s := State.reset
  (∀ n, s.coreAt n = Core.reset) ∧ s.core.un.st = .idle ∧ s.core.trp.level = 0 ∧
    (∀ n, s.core.greg n = 0 ∧ s.core.latch n = 0 ∧ s.core.lcReg n = 0 ∧ s.core.heldReg n = 0) ∧ s.readSpr 0x002 = 0 ∧
    (∀ n, 0x008 ≤ n → n ≤ 0x00F → s.readSpr n = 1) ∧ s.readSpr 0x010 = 0x2004_0000_0000 ∧
    (∀ a, readByte s.pkg a = 0 ∧ tagAt s.pkg a = 0 ∧ fullAt s.pkg a = false ∧ cellAt s.pkg a = .value) ∧
    s.pkg.live.length = 9 ∧ s.pkg.gts = 0 ∧ s.pkg.mgmt.pstate = 0 ∧
    (∀ q, (fget .reset s.pkg.rings q).en = false ∧ (fget .reset s.pkg.rings q).logsz = 4 ∧ (fget .reset s.pkg.rings q).tail = 0 ∧
      (fget .reset s.pkg.rings q).head = 0) ∧
    (∀ k, fget [] s.pkg.queues k = []) ∧ (∀ j, fget none s.pkg.jobs j = none)

/-- The canonical form of memory, tags, full/empty bits and cell states holds at reset.
Assumption log entry 4 names the choices of the model it rests on. -/
def Obligations.ResetCanonical : Prop := State.reset.pkg.Canonical

/-- The canonical form of memory, tags, full/empty bits and cell states is kept by every step: of a core, an engine, a controller, the host
or a peer.
Assumption log entry 4 names the choices of the model it rests on. -/
def Obligations.StepKeepsCanonical : Prop :=
  ∀ s t : State, s.pkg.Canonical → step s = .next t → t.pkg.Canonical
end

