-- ==== Sys2Proof/Laws/FMap.lean ====
section
/-! SUPPORT. The laws of the finite maps: read after write, and that every write keeps the canonical form. -/

namespace Sys2Proof

theorem fget_ferase_same {α : Type} (d : α) (m : FMap α) (k : Nat) : fget d (ferase m k) k = d := by
  induction m with
  | nil => rfl
  | cons e m ih =>
    obtain ⟨j, v⟩ := e
    by_cases h : j = k <;> simp [ferase, fget, h, ih]

theorem fget_ferase_other {α : Type} (d : α) (m : FMap α) {k a : Nat} (h : a ≠ k) :
    fget d (ferase m k) a = fget d m a := by
  induction m with
  | nil => rfl
  | cons e m ih =>
    obtain ⟨j, v⟩ := e
    by_cases hj : j = k
    · subst hj; simp [ferase, fget, ih, Ne.symm h]
    · by_cases ha : j = a
      · subst ha; simp [ferase, fget, hj]
      · simp [ferase, fget, hj, ha, ih]

theorem fget_finsert_other {α : Type} (d : α) (m : FMap α) {k a : Nat} (v : α) (h : a ≠ k) :
    fget d (finsert m k v) a = fget d m a := by
  induction m with
  | nil => simp [finsert, fget, Ne.symm h]
  | cons e m ih =>
    obtain ⟨j, w⟩ := e
    by_cases hk : k < j
    · simp [finsert, hk, fget, Ne.symm h]
    · by_cases ha : j = a
      · subst ha; simp [finsert, hk, fget]
      · simp [finsert, hk, fget, ha, ih]

theorem fget_finsert_same {α : Type} (d : α) (m : FMap α) (k : Nat) (v : α) :
    fget d (finsert (ferase m k) k v) k = v := by
  induction m with
  | nil => simp [ferase, finsert, fget]
  | cons e m ih =>
    obtain ⟨j, w⟩ := e
    by_cases hj : j = k
    · simp [ferase, hj, ih]
    · by_cases hk : k < j <;> simp [ferase, hj, finsert, hk, fget, ih]

/-- Read after write at the same key. -/
@[simp] theorem fget_fset_same {α : Type} [DecidableEq α] (d : α) (m : FMap α) (k : Nat) (v : α) :
    fget d (fset d m k v) k = v := by
  by_cases h : v = d
  · simp [fset, h, fget_ferase_same]
  · simp [fset, h, fget_finsert_same]

/-- A write leaves every other key alone. -/
theorem fget_fset_other {α : Type} [DecidableEq α] (d : α) (m : FMap α) {k a : Nat} (v : α) (h : a ≠ k) :
    fget d (fset d m k v) a = fget d m a := by
  by_cases hv : v = d
  · simp [fset, hv, fget_ferase_other d m h]
  · simp [fset, hv, fget_finsert_other d _ v h, fget_ferase_other d m h]

/-- Both laws as one equation. -/
theorem fget_fset {α : Type} [DecidableEq α] (d : α) (m : FMap α) (k a : Nat) (v : α) :
    fget d (fset d m k v) a = if a = k then v else fget d m a := by
  by_cases h : a = k
  · subst h; simp
  · simp [h, fget_fset_other d m v h]

theorem fwfFrom_mono {α : Type} [DecidableEq α] (d : α) (m : FMap α) {lo hi : Nat} (h : lo ≤ hi)
    (hm : fwfFrom d hi m = true) : fwfFrom d lo m = true := by
  cases m with
  | nil => rfl
  | cons e m =>
    obtain ⟨j, v⟩ := e
    simp only [fwfFrom, Bool.and_eq_true, decide_eq_true_eq] at hm ⊢
    exact ⟨⟨by omega, hm.1.2⟩, hm.2⟩

theorem fwfFrom_ferase {α : Type} [DecidableEq α] (d : α) (m : FMap α) (k lo : Nat)
    (hm : fwfFrom d lo m = true) : fwfFrom d lo (ferase m k) = true := by
  induction m generalizing lo with
  | nil => rfl
  | cons e m ih =>
    obtain ⟨j, v⟩ := e
    simp only [fwfFrom, Bool.and_eq_true, decide_eq_true_eq] at hm
    by_cases h : j = k
    · simp only [ferase, h, if_true]
      exact fwfFrom_mono d _ (by omega : lo ≤ j + 1) (ih _ hm.2)
    · simp only [ferase, h, if_false, fwfFrom, Bool.and_eq_true, decide_eq_true_eq]
      exact ⟨hm.1, ih _ hm.2⟩

theorem fwfFrom_finsert_ferase {α : Type} [DecidableEq α] (d : α) (m : FMap α) (k lo : Nat) (v : α)
    (hv : v ≠ d) (hlo : lo ≤ k) (hm : fwfFrom d lo m = true) :
    fwfFrom d lo (finsert (ferase m k) k v) = true := by
  induction m generalizing lo with
  | nil => simp [ferase, finsert, fwfFrom, hv, hlo]
  | cons e m ih =>
    obtain ⟨j, w⟩ := e
    simp only [fwfFrom, Bool.and_eq_true, decide_eq_true_eq] at hm
    by_cases h : j = k
    · subst h
      simp only [ferase, if_true]
      exact ih lo hlo (fwfFrom_mono d _ (by omega) hm.2)
    · simp only [ferase, h, if_false]
      by_cases hk : k < j
      · simp only [finsert, hk, if_true, fwfFrom, Bool.and_eq_true, decide_eq_true_eq]
        exact ⟨⟨hlo, hv⟩, ⟨by omega, hm.1.2⟩, fwfFrom_ferase d m k _ hm.2⟩
      · simp only [finsert, hk, if_false, fwfFrom, Bool.and_eq_true, decide_eq_true_eq]
        exact ⟨hm.1, ih (j + 1) (by omega) hm.2⟩

/-- A write keeps the canonical form. -/
theorem fwf_fset {α : Type} [DecidableEq α] (d : α) (m : FMap α) (k : Nat) (v : α)
    (hm : fwf d m = true) : fwf d (fset d m k v) = true := by
  by_cases h : v = d
  · simpa [fset, h, fwf] using fwfFrom_ferase d m k 0 hm
  · simpa [fset, h, fwf] using fwfFrom_finsert_ferase d m k 0 v h (Nat.zero_le k) hm

/-- Filtering by key keeps what the filter lets through. -/
theorem fget_filter_pos {α : Type} (d : α) (m : FMap α) (P : Nat → Bool) {a : Nat} (h : P a = true) :
    fget d (m.filter fun e => P e.1) a = fget d m a := by
  induction m with
  | nil => rfl
  | cons e m ih =>
    obtain ⟨j, v⟩ := e
    by_cases hp : P j = true
    · simp [hp, fget, ih]
    · have : j ≠ a := by rintro rfl; exact hp h
      simp [hp, fget, ih, this]

theorem fget_of_not_mem {α : Type} (d : α) (m : FMap α) {a : Nat} (h : ∀ e ∈ m, e.1 ≠ a) : fget d m a = d := by
  induction m with
  | nil => rfl
  | cons e m ih =>
    obtain ⟨j, v⟩ := e
    have hj : j ≠ a := h (j, v) (by simp)
    simp [fget, hj, ih fun e he => h e (by simp [he])]

theorem fget_append_left {α : Type} (d : α) (m r : FMap α) {a : Nat} (h : ∀ e ∈ r, e.1 ≠ a) :
    fget d (m ++ r) a = fget d m a := by
  induction m with
  | nil => exact fget_of_not_mem d r h
  | cons e m ih => obtain ⟨j, v⟩ := e; simp [fget, ih]

theorem fget_append_right {α : Type} (d : α) (m r : FMap α) {a : Nat} (h : ∀ e ∈ m, e.1 ≠ a) :
    fget d (m ++ r) a = fget d r a := by
  induction m with
  | nil => rfl
  | cons e m ih =>
    obtain ⟨j, v⟩ := e
    have hj : j ≠ a := h (j, v) (by simp)
    simp [fget, hj, ih fun e he => h e (by simp [he])]

theorem fblock_key {α : Type} [DecidableEq α] (d : α) (vs : List α) (k : Nat) :
    ∀ e ∈ fblock d k vs, k ≤ e.1 ∧ e.1 < k + vs.length := by
  induction vs generalizing k with
  | nil => simp [fblock]
  | cons v vs ih =>
    intro e he
    simp only [fblock] at he
    split at he
    · have := ih (k + 1) e he; simp; omega
    · rcases List.mem_cons.1 he with rfl | he
      · simp
      · have := ih (k + 1) e he; simp; omega

theorem fget_fblock {α : Type} [DecidableEq α] (d : α) (vs : List α) (k a : Nat) :
    fget d (fblock d k vs) a = if h : k ≤ a ∧ a - k < vs.length then vs[a - k]'h.2 else d := by
  induction vs generalizing k with
  | nil => simp [fblock, fget]
  | cons v vs ih =>
    have key : fget d (fblock d k (v :: vs)) a = if a = k then v else fget d (fblock d (k + 1) vs) a := by
      simp only [fblock]
      by_cases hv : v = d
      · by_cases ha : a = k
        · subst ha
          simp only [hv, if_true]
          exact fget_of_not_mem d _ fun e he => by have := fblock_key d vs (a + 1) e he; omega
        · simp [hv, ha]
      · by_cases ha : a = k
        · simp [hv, ha, fget]
        · simp [hv, ha, fget, Ne.symm ha]
    rw [key]
    by_cases ha : a = k
    · subst ha; simp
    · rw [if_neg ha, ih]
      by_cases h2 : k + 1 ≤ a ∧ a - (k + 1) < vs.length
      · have e : a - k = (a - (k + 1)) + 1 := by omega
        have h3 : k ≤ a ∧ a - k < (v :: vs).length := by simp; omega
        rw [dif_pos h2, dif_pos h3]
        simp [e]
      · have h3 : ¬ (k ≤ a ∧ a - k < (v :: vs).length) := by simp; omega
        rw [dif_neg h2, dif_neg h3]

/-- A run of writes reads back: the value at `a` is the run's own inside it and the old one outside. -/
theorem fget_fput {α : Type} [DecidableEq α] (d : α) (vs : List α) (m : FMap α) (k a : Nat) :
    fget d (fput d m k vs) a =
      if h : k ≤ a ∧ a - k < vs.length then vs[a - k]'h.2 else fget d m a := by
  unfold fput
  by_cases h1 : a < k
  · rw [dif_neg (by omega), List.append_assoc, fget_append_left, fget_filter_pos d m (fun j => decide (j < k)) (by simpa)]
    intro e he
    rcases List.mem_append.1 he with he | he
    · have := fblock_key d vs k e he; omega
    · have := (List.mem_filter.1 he).2; simp at this; omega
  · rw [List.append_assoc, fget_append_right]
    · by_cases h2 : a - k < vs.length
      · rw [dif_pos ⟨by omega, h2⟩, fget_append_left, fget_fblock, dif_pos ⟨by omega, h2⟩]
        intro e he
        have := (List.mem_filter.1 he).2; simp at this; omega
      · rw [dif_neg (by omega), fget_append_right,
          fget_filter_pos d m (fun j => decide (k + vs.length ≤ j)) (by simp; omega)]
        intro e he
        have := fblock_key d vs k e he; omega
    · intro e he
      have := (List.mem_filter.1 he).2; simp at this; omega

/-- A run of writes leaves every key outside the run alone. -/
theorem fget_fput_other {α : Type} [DecidableEq α] (d : α) (vs : List α) (m : FMap α) (k a : Nat)
    (h : ¬ (k ≤ a ∧ a < k + vs.length)) : fget d (fput d m k vs) a = fget d m a := by
  rw [fget_fput, dif_neg (by omega)]

theorem fwfFrom_filter {α : Type} [DecidableEq α] (d : α) (m : FMap α) (P : Nat × α → Bool) (lo : Nat)
    (hm : fwfFrom d lo m = true) : fwfFrom d lo (m.filter P) = true := by
  induction m generalizing lo with
  | nil => rfl
  | cons e m ih =>
    obtain ⟨j, v⟩ := e
    simp only [fwfFrom, Bool.and_eq_true, decide_eq_true_eq] at hm
    simp only [List.filter_cons]
    split
    · simp only [fwfFrom, Bool.and_eq_true, decide_eq_true_eq]
      exact ⟨hm.1, ih _ hm.2⟩
    · exact fwfFrom_mono d _ (by omega) (ih _ hm.2)

theorem fwfFrom_append {α : Type} [DecidableEq α] (d : α) (m r : FMap α) (lo k : Nat) (hlo : lo ≤ k)
    (hm : fwfFrom d lo m = true) (hk : ∀ e ∈ m, e.1 < k) (hr : fwfFrom d k r = true) : fwfFrom d lo (m ++ r) = true := by
  induction m generalizing lo with
  | nil => exact fwfFrom_mono d r hlo hr
  | cons e m ih =>
    obtain ⟨j, v⟩ := e
    simp only [fwfFrom, Bool.and_eq_true, decide_eq_true_eq] at hm
    have hj := hk (j, v) (by simp)
    simp only [List.cons_append, fwfFrom, Bool.and_eq_true, decide_eq_true_eq]
    exact ⟨hm.1, ih _ hj hm.2 fun e he => hk e (by simp [he])⟩

theorem fwfFrom_fblock {α : Type} [DecidableEq α] (d : α) (vs : List α) (k : Nat) :
    fwfFrom d k (fblock d k vs) = true := by
  induction vs generalizing k with
  | nil => rfl
  | cons v vs ih =>
    simp only [fblock]
    split
    · exact fwfFrom_mono d _ (by omega) (ih (k + 1))
    · simp [fwfFrom, *]

theorem fwfFrom_ge {α : Type} [DecidableEq α] (d : α) (m : FMap α) (lo k : Nat)
    (hm : fwfFrom d lo m = true) (hk : ∀ e ∈ m, k ≤ e.1) : fwfFrom d k m = true := by
  cases m with
  | nil => rfl
  | cons e m =>
    obtain ⟨j, v⟩ := e
    have := hk (j, v) (by simp)
    simp only [fwfFrom, Bool.and_eq_true, decide_eq_true_eq] at hm ⊢
    exact ⟨⟨this, hm.1.2⟩, hm.2⟩

/-- Writing a run of values keeps the canonical form. -/
theorem fwf_fput {α : Type} [DecidableEq α] (d : α) (vs : List α) (m : FMap α) (k : Nat)
    (hm : fwf d m = true) : fwf d (fput d m k vs) = true := by
  unfold fwf fput
  rw [List.append_assoc]
  refine fwfFrom_append d _ _ 0 k (Nat.zero_le _) (fwfFrom_filter d m _ 0 hm)
    (fun e he => by simpa using (List.mem_filter.1 he).2) ?_
  refine fwfFrom_append d _ _ k (k + vs.length) (by omega) (fwfFrom_fblock d vs k)
    (fun e he => (fblock_key d vs k e he).2) ?_
  exact fwfFrom_ge d _ 0 _ (fwfFrom_filter d m _ 0 hm) fun e he => by simpa using (List.mem_filter.1 he).2

/-- Forgetting a range keeps the canonical form. -/
theorem fwf_fclear {α : Type} [DecidableEq α] (d : α) (m : FMap α) (lo hi : Nat)
    (hm : fwf d m = true) : fwf d (fclear m lo hi) = true := fwfFrom_filter d m _ 0 hm

/-- A forgotten range reads as the default, and every other key as before. -/
theorem fget_fclear {α : Type} (d : α) (m : FMap α) (lo hi a : Nat) :
    fget d (fclear m lo hi) a = if lo ≤ a ∧ a < hi then d else fget d m a := by
  by_cases h : lo ≤ a ∧ a < hi
  · rw [if_pos h]
    refine fget_of_not_mem d _ fun e he => ?_
    have := (List.mem_filter.1 he).2
    simp at this; omega
  · rw [if_neg h]
    exact fget_filter_pos d m (fun j => decide (j < lo) || decide (hi ≤ j)) (by simp; omega)

end Sys2Proof
end

