-- ==== Sys2Proof/Laws/State.lean ====
section
/-! SUPPORT. What each update of the state leaves in each field: one lemma for every update and field, so that no later proof
unfolds a record update. -/

namespace Sys2Proof.Machine

@[simp] theorem modSca_sca (s : State) (f : Sca → Sca) : (s.modSca f).core.sca = f s.core.sca := rfl
@[simp] theorem modSca_vec (s : State) (f : Sca → Sca) : (s.modSca f).core.vec = s.core.vec := rfl
@[simp] theorem modSca_tab (s : State) (f : Sca → Sca) : (s.modSca f).core.tab = s.core.tab := rfl
@[simp] theorem modSca_lsu (s : State) (f : Sca → Sca) : (s.modSca f).core.lsu = s.core.lsu := rfl
@[simp] theorem modSca_eng (s : State) (f : Sca → Sca) : (s.modSca f).core.eng = s.core.eng := rfl
@[simp] theorem modSca_trp (s : State) (f : Sca → Sca) : (s.modSca f).core.trp = s.core.trp := rfl
@[simp] theorem modSca_un (s : State) (f : Sca → Sca) : (s.modSca f).core.un = s.core.un := rfl
@[simp] theorem modSca_no (s : State) (f : Sca → Sca) : (s.modSca f).no = s.no := rfl
@[simp] theorem modSca_others (s : State) (f : Sca → Sca) : (s.modSca f).others = s.others := rfl
@[simp] theorem modSca_pkg (s : State) (f : Sca → Sca) : (s.modSca f).pkg = s.pkg := rfl
@[simp] theorem modSca_agenda (s : State) (f : Sca → Sca) : (s.modSca f).agenda = s.agenda := rfl

@[simp] theorem modVec_sca (s : State) (f : Vec → Vec) : (s.modVec f).core.sca = s.core.sca := rfl
@[simp] theorem modVec_vec (s : State) (f : Vec → Vec) : (s.modVec f).core.vec = f s.core.vec := rfl
@[simp] theorem modVec_tab (s : State) (f : Vec → Vec) : (s.modVec f).core.tab = s.core.tab := rfl
@[simp] theorem modVec_lsu (s : State) (f : Vec → Vec) : (s.modVec f).core.lsu = s.core.lsu := rfl
@[simp] theorem modVec_eng (s : State) (f : Vec → Vec) : (s.modVec f).core.eng = s.core.eng := rfl
@[simp] theorem modVec_trp (s : State) (f : Vec → Vec) : (s.modVec f).core.trp = s.core.trp := rfl
@[simp] theorem modVec_un (s : State) (f : Vec → Vec) : (s.modVec f).core.un = s.core.un := rfl
@[simp] theorem modVec_no (s : State) (f : Vec → Vec) : (s.modVec f).no = s.no := rfl
@[simp] theorem modVec_others (s : State) (f : Vec → Vec) : (s.modVec f).others = s.others := rfl
@[simp] theorem modVec_pkg (s : State) (f : Vec → Vec) : (s.modVec f).pkg = s.pkg := rfl
@[simp] theorem modVec_agenda (s : State) (f : Vec → Vec) : (s.modVec f).agenda = s.agenda := rfl

@[simp] theorem modTab_sca (s : State) (f : Tab → Tab) : (s.modTab f).core.sca = s.core.sca := rfl
@[simp] theorem modTab_vec (s : State) (f : Tab → Tab) : (s.modTab f).core.vec = s.core.vec := rfl
@[simp] theorem modTab_tab (s : State) (f : Tab → Tab) : (s.modTab f).core.tab = f s.core.tab := rfl
@[simp] theorem modTab_lsu (s : State) (f : Tab → Tab) : (s.modTab f).core.lsu = s.core.lsu := rfl
@[simp] theorem modTab_eng (s : State) (f : Tab → Tab) : (s.modTab f).core.eng = s.core.eng := rfl
@[simp] theorem modTab_trp (s : State) (f : Tab → Tab) : (s.modTab f).core.trp = s.core.trp := rfl
@[simp] theorem modTab_un (s : State) (f : Tab → Tab) : (s.modTab f).core.un = s.core.un := rfl
@[simp] theorem modTab_no (s : State) (f : Tab → Tab) : (s.modTab f).no = s.no := rfl
@[simp] theorem modTab_others (s : State) (f : Tab → Tab) : (s.modTab f).others = s.others := rfl
@[simp] theorem modTab_pkg (s : State) (f : Tab → Tab) : (s.modTab f).pkg = s.pkg := rfl
@[simp] theorem modTab_agenda (s : State) (f : Tab → Tab) : (s.modTab f).agenda = s.agenda := rfl

@[simp] theorem modLsu_sca (s : State) (f : Lsu → Lsu) : (s.modLsu f).core.sca = s.core.sca := rfl
@[simp] theorem modLsu_vec (s : State) (f : Lsu → Lsu) : (s.modLsu f).core.vec = s.core.vec := rfl
@[simp] theorem modLsu_tab (s : State) (f : Lsu → Lsu) : (s.modLsu f).core.tab = s.core.tab := rfl
@[simp] theorem modLsu_lsu (s : State) (f : Lsu → Lsu) : (s.modLsu f).core.lsu = f s.core.lsu := rfl
@[simp] theorem modLsu_eng (s : State) (f : Lsu → Lsu) : (s.modLsu f).core.eng = s.core.eng := rfl
@[simp] theorem modLsu_trp (s : State) (f : Lsu → Lsu) : (s.modLsu f).core.trp = s.core.trp := rfl
@[simp] theorem modLsu_un (s : State) (f : Lsu → Lsu) : (s.modLsu f).core.un = s.core.un := rfl
@[simp] theorem modLsu_no (s : State) (f : Lsu → Lsu) : (s.modLsu f).no = s.no := rfl
@[simp] theorem modLsu_others (s : State) (f : Lsu → Lsu) : (s.modLsu f).others = s.others := rfl
@[simp] theorem modLsu_pkg (s : State) (f : Lsu → Lsu) : (s.modLsu f).pkg = s.pkg := rfl
@[simp] theorem modLsu_agenda (s : State) (f : Lsu → Lsu) : (s.modLsu f).agenda = s.agenda := rfl

@[simp] theorem modEng_sca (s : State) (f : Eng → Eng) : (s.modEng f).core.sca = s.core.sca := rfl
@[simp] theorem modEng_vec (s : State) (f : Eng → Eng) : (s.modEng f).core.vec = s.core.vec := rfl
@[simp] theorem modEng_tab (s : State) (f : Eng → Eng) : (s.modEng f).core.tab = s.core.tab := rfl
@[simp] theorem modEng_lsu (s : State) (f : Eng → Eng) : (s.modEng f).core.lsu = s.core.lsu := rfl
@[simp] theorem modEng_eng (s : State) (f : Eng → Eng) : (s.modEng f).core.eng = f s.core.eng := rfl
@[simp] theorem modEng_trp (s : State) (f : Eng → Eng) : (s.modEng f).core.trp = s.core.trp := rfl
@[simp] theorem modEng_un (s : State) (f : Eng → Eng) : (s.modEng f).core.un = s.core.un := rfl
@[simp] theorem modEng_no (s : State) (f : Eng → Eng) : (s.modEng f).no = s.no := rfl
@[simp] theorem modEng_others (s : State) (f : Eng → Eng) : (s.modEng f).others = s.others := rfl
@[simp] theorem modEng_pkg (s : State) (f : Eng → Eng) : (s.modEng f).pkg = s.pkg := rfl
@[simp] theorem modEng_agenda (s : State) (f : Eng → Eng) : (s.modEng f).agenda = s.agenda := rfl

@[simp] theorem modTrp_sca (s : State) (f : Trp → Trp) : (s.modTrp f).core.sca = s.core.sca := rfl
@[simp] theorem modTrp_vec (s : State) (f : Trp → Trp) : (s.modTrp f).core.vec = s.core.vec := rfl
@[simp] theorem modTrp_tab (s : State) (f : Trp → Trp) : (s.modTrp f).core.tab = s.core.tab := rfl
@[simp] theorem modTrp_lsu (s : State) (f : Trp → Trp) : (s.modTrp f).core.lsu = s.core.lsu := rfl
@[simp] theorem modTrp_eng (s : State) (f : Trp → Trp) : (s.modTrp f).core.eng = s.core.eng := rfl
@[simp] theorem modTrp_trp (s : State) (f : Trp → Trp) : (s.modTrp f).core.trp = f s.core.trp := rfl
@[simp] theorem modTrp_un (s : State) (f : Trp → Trp) : (s.modTrp f).core.un = s.core.un := rfl
@[simp] theorem modTrp_no (s : State) (f : Trp → Trp) : (s.modTrp f).no = s.no := rfl
@[simp] theorem modTrp_others (s : State) (f : Trp → Trp) : (s.modTrp f).others = s.others := rfl
@[simp] theorem modTrp_pkg (s : State) (f : Trp → Trp) : (s.modTrp f).pkg = s.pkg := rfl
@[simp] theorem modTrp_agenda (s : State) (f : Trp → Trp) : (s.modTrp f).agenda = s.agenda := rfl

@[simp] theorem modUn_sca (s : State) (f : UnitSt → UnitSt) : (s.modUn f).core.sca = s.core.sca := rfl
@[simp] theorem modUn_vec (s : State) (f : UnitSt → UnitSt) : (s.modUn f).core.vec = s.core.vec := rfl
@[simp] theorem modUn_tab (s : State) (f : UnitSt → UnitSt) : (s.modUn f).core.tab = s.core.tab := rfl
@[simp] theorem modUn_lsu (s : State) (f : UnitSt → UnitSt) : (s.modUn f).core.lsu = s.core.lsu := rfl
@[simp] theorem modUn_eng (s : State) (f : UnitSt → UnitSt) : (s.modUn f).core.eng = s.core.eng := rfl
@[simp] theorem modUn_trp (s : State) (f : UnitSt → UnitSt) : (s.modUn f).core.trp = s.core.trp := rfl
@[simp] theorem modUn_un (s : State) (f : UnitSt → UnitSt) : (s.modUn f).core.un = f s.core.un := rfl
@[simp] theorem modUn_no (s : State) (f : UnitSt → UnitSt) : (s.modUn f).no = s.no := rfl
@[simp] theorem modUn_others (s : State) (f : UnitSt → UnitSt) : (s.modUn f).others = s.others := rfl
@[simp] theorem modUn_pkg (s : State) (f : UnitSt → UnitSt) : (s.modUn f).pkg = s.pkg := rfl
@[simp] theorem modUn_agenda (s : State) (f : UnitSt → UnitSt) : (s.modUn f).agenda = s.agenda := rfl

@[simp] theorem modPkg_core (s : State) (f : Pkg → Pkg) : (s.modPkg f).core = s.core := rfl
@[simp] theorem modPkg_no (s : State) (f : Pkg → Pkg) : (s.modPkg f).no = s.no := rfl
@[simp] theorem modPkg_others (s : State) (f : Pkg → Pkg) : (s.modPkg f).others = s.others := rfl
@[simp] theorem modPkg_agenda (s : State) (f : Pkg → Pkg) : (s.modPkg f).agenda = s.agenda := rfl
@[simp] theorem modPkg_pkg (s : State) (f : Pkg → Pkg) : (s.modPkg f).pkg = f s.pkg := rfl

@[simp] theorem modMgmt_core (s : State) (f : Mgmt → Mgmt) : (s.modMgmt f).core = s.core := rfl
@[simp] theorem modMgmt_no (s : State) (f : Mgmt → Mgmt) : (s.modMgmt f).no = s.no := rfl
@[simp] theorem modMgmt_others (s : State) (f : Mgmt → Mgmt) : (s.modMgmt f).others = s.others := rfl
@[simp] theorem modMgmt_agenda (s : State) (f : Mgmt → Mgmt) : (s.modMgmt f).agenda = s.agenda := rfl
@[simp] theorem modMgmt_pkg (s : State) (f : Mgmt → Mgmt) : (s.modMgmt f).pkg = { s.pkg with mgmt := f s.pkg.mgmt } := rfl

@[simp] theorem writeBytes_clk (p : Pkg) (pa : Nat) (bs : List Byte) : (writeBytes p pa bs).clk = p.clk := rfl
@[simp] theorem writeBytes_gts (p : Pkg) (pa : Nat) (bs : List Byte) : (writeBytes p pa bs).gts = p.gts := rfl
@[simp] theorem writeBytes_gtsFrac (p : Pkg) (pa : Nat) (bs : List Byte) : (writeBytes p pa bs).gtsFrac = p.gtsFrac := rfl
@[simp] theorem writeBytes_gtsSteered (p : Pkg) (pa : Nat) (bs : List Byte) : (writeBytes p pa bs).gtsSteered = p.gtsSteered := rfl
@[simp] theorem writeBytes_tags (p : Pkg) (pa : Nat) (bs : List Byte) : (writeBytes p pa bs).tags = p.tags := rfl
@[simp] theorem writeBytes_full (p : Pkg) (pa : Nat) (bs : List Byte) : (writeBytes p pa bs).full = p.full := rfl
@[simp] theorem writeBytes_cells (p : Pkg) (pa : Nat) (bs : List Byte) : (writeBytes p pa bs).cells = p.cells := rfl
@[simp] theorem writeBytes_live (p : Pkg) (pa : Nat) (bs : List Byte) : (writeBytes p pa bs).live = p.live := rfl
@[simp] theorem writeBytes_queues (p : Pkg) (pa : Nat) (bs : List Byte) : (writeBytes p pa bs).queues = p.queues := rfl
@[simp] theorem writeBytes_unbound (p : Pkg) (pa : Nat) (bs : List Byte) : (writeBytes p pa bs).unbound = p.unbound := rfl
@[simp] theorem writeBytes_pool (p : Pkg) (pa : Nat) (bs : List Byte) : (writeBytes p pa bs).pool = p.pool := rfl
@[simp] theorem writeBytes_farCells (p : Pkg) (pa : Nat) (bs : List Byte) : (writeBytes p pa bs).farCells = p.farCells := rfl
@[simp] theorem writeBytes_nextRef (p : Pkg) (pa : Nat) (bs : List Byte) : (writeBytes p pa bs).nextRef = p.nextRef := rfl
@[simp] theorem writeBytes_launches (p : Pkg) (pa : Nat) (bs : List Byte) : (writeBytes p pa bs).launches = p.launches := rfl
@[simp] theorem writeBytes_nextSlot (p : Pkg) (pa : Nat) (bs : List Byte) : (writeBytes p pa bs).nextSlot = p.nextSlot := rfl
@[simp] theorem writeBytes_graphs (p : Pkg) (pa : Nat) (bs : List Byte) : (writeBytes p pa bs).graphs = p.graphs := rfl
@[simp] theorem writeBytes_phases (p : Pkg) (pa : Nat) (bs : List Byte) : (writeBytes p pa bs).phases = p.phases := rfl
@[simp] theorem writeBytes_jobs (p : Pkg) (pa : Nat) (bs : List Byte) : (writeBytes p pa bs).jobs = p.jobs := rfl
@[simp] theorem writeBytes_objs (p : Pkg) (pa : Nat) (bs : List Byte) : (writeBytes p pa bs).objs = p.objs := rfl
@[simp] theorem writeBytes_sets (p : Pkg) (pa : Nat) (bs : List Byte) : (writeBytes p pa bs).sets = p.sets := rfl
@[simp] theorem writeBytes_transfers (p : Pkg) (pa : Nat) (bs : List Byte) : (writeBytes p pa bs).transfers = p.transfers := rfl
@[simp] theorem writeBytes_rings (p : Pkg) (pa : Nat) (bs : List Byte) : (writeBytes p pa bs).rings = p.rings := rfl
@[simp] theorem writeBytes_saved (p : Pkg) (pa : Nat) (bs : List Byte) : (writeBytes p pa bs).saved = p.saved := rfl
@[simp] theorem writeBytes_mgmt (p : Pkg) (pa : Nat) (bs : List Byte) : (writeBytes p pa bs).mgmt = p.mgmt := rfl
@[simp] theorem writeBytes_env (p : Pkg) (pa : Nat) (bs : List Byte) : (writeBytes p pa bs).env = p.env := rfl
@[simp] theorem writeBytes_free (p : Pkg) (pa : Nat) (bs : List Byte) : (writeBytes p pa bs).free = p.free := rfl

@[simp] theorem writeNat_clk (p : Pkg) (pa n v : Nat) : (writeNat p pa n v).clk = p.clk := rfl
@[simp] theorem writeNat_gts (p : Pkg) (pa n v : Nat) : (writeNat p pa n v).gts = p.gts := rfl
@[simp] theorem writeNat_gtsFrac (p : Pkg) (pa n v : Nat) : (writeNat p pa n v).gtsFrac = p.gtsFrac := rfl
@[simp] theorem writeNat_gtsSteered (p : Pkg) (pa n v : Nat) : (writeNat p pa n v).gtsSteered = p.gtsSteered := rfl
@[simp] theorem writeNat_tags (p : Pkg) (pa n v : Nat) : (writeNat p pa n v).tags = p.tags := rfl
@[simp] theorem writeNat_full (p : Pkg) (pa n v : Nat) : (writeNat p pa n v).full = p.full := rfl
@[simp] theorem writeNat_cells (p : Pkg) (pa n v : Nat) : (writeNat p pa n v).cells = p.cells := rfl
@[simp] theorem writeNat_live (p : Pkg) (pa n v : Nat) : (writeNat p pa n v).live = p.live := rfl
@[simp] theorem writeNat_queues (p : Pkg) (pa n v : Nat) : (writeNat p pa n v).queues = p.queues := rfl
@[simp] theorem writeNat_unbound (p : Pkg) (pa n v : Nat) : (writeNat p pa n v).unbound = p.unbound := rfl
@[simp] theorem writeNat_pool (p : Pkg) (pa n v : Nat) : (writeNat p pa n v).pool = p.pool := rfl
@[simp] theorem writeNat_farCells (p : Pkg) (pa n v : Nat) : (writeNat p pa n v).farCells = p.farCells := rfl
@[simp] theorem writeNat_nextRef (p : Pkg) (pa n v : Nat) : (writeNat p pa n v).nextRef = p.nextRef := rfl
@[simp] theorem writeNat_launches (p : Pkg) (pa n v : Nat) : (writeNat p pa n v).launches = p.launches := rfl
@[simp] theorem writeNat_nextSlot (p : Pkg) (pa n v : Nat) : (writeNat p pa n v).nextSlot = p.nextSlot := rfl
@[simp] theorem writeNat_graphs (p : Pkg) (pa n v : Nat) : (writeNat p pa n v).graphs = p.graphs := rfl
@[simp] theorem writeNat_phases (p : Pkg) (pa n v : Nat) : (writeNat p pa n v).phases = p.phases := rfl
@[simp] theorem writeNat_jobs (p : Pkg) (pa n v : Nat) : (writeNat p pa n v).jobs = p.jobs := rfl
@[simp] theorem writeNat_objs (p : Pkg) (pa n v : Nat) : (writeNat p pa n v).objs = p.objs := rfl
@[simp] theorem writeNat_sets (p : Pkg) (pa n v : Nat) : (writeNat p pa n v).sets = p.sets := rfl
@[simp] theorem writeNat_transfers (p : Pkg) (pa n v : Nat) : (writeNat p pa n v).transfers = p.transfers := rfl
@[simp] theorem writeNat_rings (p : Pkg) (pa n v : Nat) : (writeNat p pa n v).rings = p.rings := rfl
@[simp] theorem writeNat_saved (p : Pkg) (pa n v : Nat) : (writeNat p pa n v).saved = p.saved := rfl
@[simp] theorem writeNat_mgmt (p : Pkg) (pa n v : Nat) : (writeNat p pa n v).mgmt = p.mgmt := rfl
@[simp] theorem writeNat_env (p : Pkg) (pa n v : Nat) : (writeNat p pa n v).env = p.env := rfl
@[simp] theorem writeNat_free (p : Pkg) (pa n v : Nat) : (writeNat p pa n v).free = p.free := rfl

@[simp] theorem setTag_clk (p : Pkg) (pa : Nat) (v : Half) : (setTag p pa v).clk = p.clk := rfl
@[simp] theorem setTag_gts (p : Pkg) (pa : Nat) (v : Half) : (setTag p pa v).gts = p.gts := rfl
@[simp] theorem setTag_gtsFrac (p : Pkg) (pa : Nat) (v : Half) : (setTag p pa v).gtsFrac = p.gtsFrac := rfl
@[simp] theorem setTag_gtsSteered (p : Pkg) (pa : Nat) (v : Half) : (setTag p pa v).gtsSteered = p.gtsSteered := rfl
@[simp] theorem setTag_mem (p : Pkg) (pa : Nat) (v : Half) : (setTag p pa v).mem = p.mem := rfl
@[simp] theorem setTag_full (p : Pkg) (pa : Nat) (v : Half) : (setTag p pa v).full = p.full := rfl
@[simp] theorem setTag_cells (p : Pkg) (pa : Nat) (v : Half) : (setTag p pa v).cells = p.cells := rfl
@[simp] theorem setTag_live (p : Pkg) (pa : Nat) (v : Half) : (setTag p pa v).live = p.live := rfl
@[simp] theorem setTag_queues (p : Pkg) (pa : Nat) (v : Half) : (setTag p pa v).queues = p.queues := rfl
@[simp] theorem setTag_unbound (p : Pkg) (pa : Nat) (v : Half) : (setTag p pa v).unbound = p.unbound := rfl
@[simp] theorem setTag_pool (p : Pkg) (pa : Nat) (v : Half) : (setTag p pa v).pool = p.pool := rfl
@[simp] theorem setTag_farCells (p : Pkg) (pa : Nat) (v : Half) : (setTag p pa v).farCells = p.farCells := rfl
@[simp] theorem setTag_nextRef (p : Pkg) (pa : Nat) (v : Half) : (setTag p pa v).nextRef = p.nextRef := rfl
@[simp] theorem setTag_launches (p : Pkg) (pa : Nat) (v : Half) : (setTag p pa v).launches = p.launches := rfl
@[simp] theorem setTag_nextSlot (p : Pkg) (pa : Nat) (v : Half) : (setTag p pa v).nextSlot = p.nextSlot := rfl
@[simp] theorem setTag_graphs (p : Pkg) (pa : Nat) (v : Half) : (setTag p pa v).graphs = p.graphs := rfl
@[simp] theorem setTag_phases (p : Pkg) (pa : Nat) (v : Half) : (setTag p pa v).phases = p.phases := rfl
@[simp] theorem setTag_jobs (p : Pkg) (pa : Nat) (v : Half) : (setTag p pa v).jobs = p.jobs := rfl
@[simp] theorem setTag_objs (p : Pkg) (pa : Nat) (v : Half) : (setTag p pa v).objs = p.objs := rfl
@[simp] theorem setTag_sets (p : Pkg) (pa : Nat) (v : Half) : (setTag p pa v).sets = p.sets := rfl
@[simp] theorem setTag_transfers (p : Pkg) (pa : Nat) (v : Half) : (setTag p pa v).transfers = p.transfers := rfl
@[simp] theorem setTag_rings (p : Pkg) (pa : Nat) (v : Half) : (setTag p pa v).rings = p.rings := rfl
@[simp] theorem setTag_saved (p : Pkg) (pa : Nat) (v : Half) : (setTag p pa v).saved = p.saved := rfl
@[simp] theorem setTag_mgmt (p : Pkg) (pa : Nat) (v : Half) : (setTag p pa v).mgmt = p.mgmt := rfl
@[simp] theorem setTag_env (p : Pkg) (pa : Nat) (v : Half) : (setTag p pa v).env = p.env := rfl
@[simp] theorem setTag_free (p : Pkg) (pa : Nat) (v : Half) : (setTag p pa v).free = p.free := rfl

@[simp] theorem setFull_clk (p : Pkg) (pa : Nat) (v : Bool) : (setFull p pa v).clk = p.clk := rfl
@[simp] theorem setFull_gts (p : Pkg) (pa : Nat) (v : Bool) : (setFull p pa v).gts = p.gts := rfl
@[simp] theorem setFull_gtsFrac (p : Pkg) (pa : Nat) (v : Bool) : (setFull p pa v).gtsFrac = p.gtsFrac := rfl
@[simp] theorem setFull_gtsSteered (p : Pkg) (pa : Nat) (v : Bool) : (setFull p pa v).gtsSteered = p.gtsSteered := rfl
@[simp] theorem setFull_mem (p : Pkg) (pa : Nat) (v : Bool) : (setFull p pa v).mem = p.mem := rfl
@[simp] theorem setFull_tags (p : Pkg) (pa : Nat) (v : Bool) : (setFull p pa v).tags = p.tags := rfl
@[simp] theorem setFull_cells (p : Pkg) (pa : Nat) (v : Bool) : (setFull p pa v).cells = p.cells := rfl
@[simp] theorem setFull_live (p : Pkg) (pa : Nat) (v : Bool) : (setFull p pa v).live = p.live := rfl
@[simp] theorem setFull_queues (p : Pkg) (pa : Nat) (v : Bool) : (setFull p pa v).queues = p.queues := rfl
@[simp] theorem setFull_unbound (p : Pkg) (pa : Nat) (v : Bool) : (setFull p pa v).unbound = p.unbound := rfl
@[simp] theorem setFull_pool (p : Pkg) (pa : Nat) (v : Bool) : (setFull p pa v).pool = p.pool := rfl
@[simp] theorem setFull_farCells (p : Pkg) (pa : Nat) (v : Bool) : (setFull p pa v).farCells = p.farCells := rfl
@[simp] theorem setFull_nextRef (p : Pkg) (pa : Nat) (v : Bool) : (setFull p pa v).nextRef = p.nextRef := rfl
@[simp] theorem setFull_launches (p : Pkg) (pa : Nat) (v : Bool) : (setFull p pa v).launches = p.launches := rfl
@[simp] theorem setFull_nextSlot (p : Pkg) (pa : Nat) (v : Bool) : (setFull p pa v).nextSlot = p.nextSlot := rfl
@[simp] theorem setFull_graphs (p : Pkg) (pa : Nat) (v : Bool) : (setFull p pa v).graphs = p.graphs := rfl
@[simp] theorem setFull_phases (p : Pkg) (pa : Nat) (v : Bool) : (setFull p pa v).phases = p.phases := rfl
@[simp] theorem setFull_jobs (p : Pkg) (pa : Nat) (v : Bool) : (setFull p pa v).jobs = p.jobs := rfl
@[simp] theorem setFull_objs (p : Pkg) (pa : Nat) (v : Bool) : (setFull p pa v).objs = p.objs := rfl
@[simp] theorem setFull_sets (p : Pkg) (pa : Nat) (v : Bool) : (setFull p pa v).sets = p.sets := rfl
@[simp] theorem setFull_transfers (p : Pkg) (pa : Nat) (v : Bool) : (setFull p pa v).transfers = p.transfers := rfl
@[simp] theorem setFull_rings (p : Pkg) (pa : Nat) (v : Bool) : (setFull p pa v).rings = p.rings := rfl
@[simp] theorem setFull_saved (p : Pkg) (pa : Nat) (v : Bool) : (setFull p pa v).saved = p.saved := rfl
@[simp] theorem setFull_mgmt (p : Pkg) (pa : Nat) (v : Bool) : (setFull p pa v).mgmt = p.mgmt := rfl
@[simp] theorem setFull_env (p : Pkg) (pa : Nat) (v : Bool) : (setFull p pa v).env = p.env := rfl
@[simp] theorem setFull_free (p : Pkg) (pa : Nat) (v : Bool) : (setFull p pa v).free = p.free := rfl

@[simp] theorem setFullN_clk (p : Pkg) (pa n : Nat) (v : Bool) : (setFullN p pa n v).clk = p.clk := rfl
@[simp] theorem setFullN_gts (p : Pkg) (pa n : Nat) (v : Bool) : (setFullN p pa n v).gts = p.gts := rfl
@[simp] theorem setFullN_gtsFrac (p : Pkg) (pa n : Nat) (v : Bool) : (setFullN p pa n v).gtsFrac = p.gtsFrac := rfl
@[simp] theorem setFullN_gtsSteered (p : Pkg) (pa n : Nat) (v : Bool) : (setFullN p pa n v).gtsSteered = p.gtsSteered := rfl
@[simp] theorem setFullN_mem (p : Pkg) (pa n : Nat) (v : Bool) : (setFullN p pa n v).mem = p.mem := rfl
@[simp] theorem setFullN_tags (p : Pkg) (pa n : Nat) (v : Bool) : (setFullN p pa n v).tags = p.tags := rfl
@[simp] theorem setFullN_cells (p : Pkg) (pa n : Nat) (v : Bool) : (setFullN p pa n v).cells = p.cells := rfl
@[simp] theorem setFullN_live (p : Pkg) (pa n : Nat) (v : Bool) : (setFullN p pa n v).live = p.live := rfl
@[simp] theorem setFullN_queues (p : Pkg) (pa n : Nat) (v : Bool) : (setFullN p pa n v).queues = p.queues := rfl
@[simp] theorem setFullN_unbound (p : Pkg) (pa n : Nat) (v : Bool) : (setFullN p pa n v).unbound = p.unbound := rfl
@[simp] theorem setFullN_pool (p : Pkg) (pa n : Nat) (v : Bool) : (setFullN p pa n v).pool = p.pool := rfl
@[simp] theorem setFullN_farCells (p : Pkg) (pa n : Nat) (v : Bool) : (setFullN p pa n v).farCells = p.farCells := rfl
@[simp] theorem setFullN_nextRef (p : Pkg) (pa n : Nat) (v : Bool) : (setFullN p pa n v).nextRef = p.nextRef := rfl
@[simp] theorem setFullN_launches (p : Pkg) (pa n : Nat) (v : Bool) : (setFullN p pa n v).launches = p.launches := rfl
@[simp] theorem setFullN_nextSlot (p : Pkg) (pa n : Nat) (v : Bool) : (setFullN p pa n v).nextSlot = p.nextSlot := rfl
@[simp] theorem setFullN_graphs (p : Pkg) (pa n : Nat) (v : Bool) : (setFullN p pa n v).graphs = p.graphs := rfl
@[simp] theorem setFullN_phases (p : Pkg) (pa n : Nat) (v : Bool) : (setFullN p pa n v).phases = p.phases := rfl
@[simp] theorem setFullN_jobs (p : Pkg) (pa n : Nat) (v : Bool) : (setFullN p pa n v).jobs = p.jobs := rfl
@[simp] theorem setFullN_objs (p : Pkg) (pa n : Nat) (v : Bool) : (setFullN p pa n v).objs = p.objs := rfl
@[simp] theorem setFullN_sets (p : Pkg) (pa n : Nat) (v : Bool) : (setFullN p pa n v).sets = p.sets := rfl
@[simp] theorem setFullN_transfers (p : Pkg) (pa n : Nat) (v : Bool) : (setFullN p pa n v).transfers = p.transfers := rfl
@[simp] theorem setFullN_rings (p : Pkg) (pa n : Nat) (v : Bool) : (setFullN p pa n v).rings = p.rings := rfl
@[simp] theorem setFullN_saved (p : Pkg) (pa n : Nat) (v : Bool) : (setFullN p pa n v).saved = p.saved := rfl
@[simp] theorem setFullN_mgmt (p : Pkg) (pa n : Nat) (v : Bool) : (setFullN p pa n v).mgmt = p.mgmt := rfl
@[simp] theorem setFullN_env (p : Pkg) (pa n : Nat) (v : Bool) : (setFullN p pa n v).env = p.env := rfl
@[simp] theorem setFullN_free (p : Pkg) (pa n : Nat) (v : Bool) : (setFullN p pa n v).free = p.free := rfl

@[simp] theorem setCell_clk (p : Pkg) (pa : Nat) (v : CellState) : (setCell p pa v).clk = p.clk := rfl
@[simp] theorem setCell_gts (p : Pkg) (pa : Nat) (v : CellState) : (setCell p pa v).gts = p.gts := rfl
@[simp] theorem setCell_gtsFrac (p : Pkg) (pa : Nat) (v : CellState) : (setCell p pa v).gtsFrac = p.gtsFrac := rfl
@[simp] theorem setCell_gtsSteered (p : Pkg) (pa : Nat) (v : CellState) : (setCell p pa v).gtsSteered = p.gtsSteered := rfl
@[simp] theorem setCell_mem (p : Pkg) (pa : Nat) (v : CellState) : (setCell p pa v).mem = p.mem := rfl
@[simp] theorem setCell_tags (p : Pkg) (pa : Nat) (v : CellState) : (setCell p pa v).tags = p.tags := rfl
@[simp] theorem setCell_full (p : Pkg) (pa : Nat) (v : CellState) : (setCell p pa v).full = p.full := rfl
@[simp] theorem setCell_live (p : Pkg) (pa : Nat) (v : CellState) : (setCell p pa v).live = p.live := rfl
@[simp] theorem setCell_queues (p : Pkg) (pa : Nat) (v : CellState) : (setCell p pa v).queues = p.queues := rfl
@[simp] theorem setCell_unbound (p : Pkg) (pa : Nat) (v : CellState) : (setCell p pa v).unbound = p.unbound := rfl
@[simp] theorem setCell_pool (p : Pkg) (pa : Nat) (v : CellState) : (setCell p pa v).pool = p.pool := rfl
@[simp] theorem setCell_farCells (p : Pkg) (pa : Nat) (v : CellState) : (setCell p pa v).farCells = p.farCells := rfl
@[simp] theorem setCell_nextRef (p : Pkg) (pa : Nat) (v : CellState) : (setCell p pa v).nextRef = p.nextRef := rfl
@[simp] theorem setCell_launches (p : Pkg) (pa : Nat) (v : CellState) : (setCell p pa v).launches = p.launches := rfl
@[simp] theorem setCell_nextSlot (p : Pkg) (pa : Nat) (v : CellState) : (setCell p pa v).nextSlot = p.nextSlot := rfl
@[simp] theorem setCell_graphs (p : Pkg) (pa : Nat) (v : CellState) : (setCell p pa v).graphs = p.graphs := rfl
@[simp] theorem setCell_phases (p : Pkg) (pa : Nat) (v : CellState) : (setCell p pa v).phases = p.phases := rfl
@[simp] theorem setCell_jobs (p : Pkg) (pa : Nat) (v : CellState) : (setCell p pa v).jobs = p.jobs := rfl
@[simp] theorem setCell_objs (p : Pkg) (pa : Nat) (v : CellState) : (setCell p pa v).objs = p.objs := rfl
@[simp] theorem setCell_sets (p : Pkg) (pa : Nat) (v : CellState) : (setCell p pa v).sets = p.sets := rfl
@[simp] theorem setCell_transfers (p : Pkg) (pa : Nat) (v : CellState) : (setCell p pa v).transfers = p.transfers := rfl
@[simp] theorem setCell_rings (p : Pkg) (pa : Nat) (v : CellState) : (setCell p pa v).rings = p.rings := rfl
@[simp] theorem setCell_saved (p : Pkg) (pa : Nat) (v : CellState) : (setCell p pa v).saved = p.saved := rfl
@[simp] theorem setCell_mgmt (p : Pkg) (pa : Nat) (v : CellState) : (setCell p pa v).mgmt = p.mgmt := rfl
@[simp] theorem setCell_env (p : Pkg) (pa : Nat) (v : CellState) : (setCell p pa v).env = p.env := rfl
@[simp] theorem setCell_free (p : Pkg) (pa : Nat) (v : CellState) : (setCell p pa v).free = p.free := rfl

end Sys2Proof.Machine
end

