-- ==== Sys2Proof/Laws/Mem.lean ====
section
/-! SUPPORT. The laws of memory by physical address: read after write, the little-endian numbers, and that every operation over memory, tags,
full/empty bits and cell states keeps the canonical form. -/

namespace Sys2Proof.Machine

/-! ### Read after write -/

theorem readByte_writeBytes (p : Pkg) (pa : Nat) (bs : List Byte) (a : Nat) :
    readByte (writeBytes p pa bs) a = if pa ≤ a ∧ a < pa + bs.length then bs.getD (a - pa) 0 else readByte p a := by
  simp only [readByte, writeBytes, fget_fput]
  by_cases h : pa ≤ a ∧ a < pa + bs.length
  · have h2 : a - pa < bs.length := by omega
    rw [if_pos h, dif_pos ⟨h.1, h2⟩]; simp [h2]
  · rw [if_neg h, dif_neg (by omega)]

theorem readByte_writeBytes_other (p : Pkg) (pa : Nat) (bs : List Byte) {a : Nat} (h : a < pa ∨ pa + bs.length ≤ a) :
    readByte (writeBytes p pa bs) a = readByte p a := by
  rw [readByte_writeBytes, if_neg (by omega)]

@[simp] theorem tagAt_writeBytes (p : Pkg) (pa : Nat) (bs : List Byte) (a : Nat) : tagAt (writeBytes p pa bs) a = tagAt p a := rfl
@[simp] theorem fullAt_writeBytes (p : Pkg) (pa : Nat) (bs : List Byte) (a : Nat) : fullAt (writeBytes p pa bs) a = fullAt p a := rfl
@[simp] theorem cellAt_writeBytes (p : Pkg) (pa : Nat) (bs : List Byte) (a : Nat) : cellAt (writeBytes p pa bs) a = cellAt p a := rfl

theorem tagAt_setTag (p : Pkg) (pa a : Nat) (v : Half) : tagAt (setTag p pa v) a = if a / 2048 = pa / 2048 then v else tagAt p a :=
  fget_fset ..
theorem fullAt_setFull (p : Pkg) (pa a : Nat) (v : Bool) : fullAt (setFull p pa v) a = if a / 128 = pa / 128 then v else fullAt p a :=
  fget_fset ..
theorem cellAt_setCell (p : Pkg) (pa a : Nat) (v : CellState) : cellAt (setCell p pa v) a = if a / 64 = pa / 64 then v else cellAt p a :=
  fget_fset ..
@[simp] theorem readByte_setTag (p : Pkg) (pa a : Nat) (v : Half) : readByte (setTag p pa v) a = readByte p a := rfl
@[simp] theorem readByte_setFull (p : Pkg) (pa a : Nat) (v : Bool) : readByte (setFull p pa v) a = readByte p a := rfl
@[simp] theorem readByte_setCell (p : Pkg) (pa a : Nat) (v : CellState) : readByte (setCell p pa v) a = readByte p a := rfl

/-! ### Little-endian numbers -/

@[simp] theorem leBytes_length (n x : Nat) : (leBytes n x).length = n := by
  induction n generalizing x with
  | zero => rfl
  | succ n ih => simp [leBytes, ih]

theorem leNat_leBytes (n x : Nat) : leNat (leBytes n x) = x % 256 ^ n := by
  induction n generalizing x with
  | zero => simp [leBytes, leNat, Nat.mod_one]
  | succ n ih =>
    simp only [leBytes, leNat, ih, BitVec.toNat_ofNat]
    rw [Nat.pow_succ 256, Nat.mul_comm (256 ^ n) 256, Nat.mod_mul]

theorem leBytes_getD (n x k : Nat) (h : k < n) : ((leBytes n x).getD k 0).toNat = x / 256 ^ k % 256 := by
  induction n generalizing x k with
  | zero => omega
  | succ n ih =>
    cases k with
    | zero => simp [leBytes]
    | succ k =>
      simp only [leBytes, List.getD_cons_succ]
      rw [ih _ _ (by omega), Nat.div_div_eq_div_mul, Nat.pow_succ, Nat.mul_comm]

theorem fgetN_eq {α : Type} (d : α) (m : FMap α) (k n : Nat) : fgetN d m k n = (List.range n).map fun i => fget d m (k + i) := by
  induction n generalizing k with
  | zero => rfl
  | succ n ih =>
    rw [fgetN, ih, List.range_succ_eq_map]
    simp [Function.comp_def, Nat.add_assoc, Nat.add_comm 1]

/-- A range just written reads back. -/
theorem readBytes_writeBytes (p : Pkg) (pa : Nat) (bs : List Byte) : readBytes (writeBytes p pa bs) pa bs.length = bs := by
  rw [readBytes, fgetN_eq]
  apply List.ext_getElem (by simp)
  intro i h1 h2
  have hr := readByte_writeBytes p pa bs (pa + i)
  rw [if_pos (by omega)] at hr
  simp only [List.getElem_map, List.getElem_range]
  simp only [readByte] at hr
  rw [hr]
  simp [h2]

/-- A number written in n bytes reads back as its low 8n bits. -/
theorem readNat_writeNat (p : Pkg) (pa n v : Nat) : readNat (writeNat p pa n v) pa n = v % 256 ^ n := by
  have h := readBytes_writeBytes p pa (leBytes n v)
  rw [leBytes_length] at h
  rw [readNat, writeNat, h, leNat_leBytes]

theorem readByte_writeNat (p : Pkg) (pa n v k : Nat) (h : k < n) : (readByte (writeNat p pa n v) (pa + k)).toNat = v / 256 ^ k % 256 := by
  rw [writeNat, readByte_writeBytes, if_pos (by simp; omega), Nat.add_sub_cancel_left, leBytes_getD _ _ _ h]

/-! ### The canonical form -/

theorem Pkg.Canonical.writeBytes {p : Pkg} (h : p.Canonical) (pa : Nat) (bs : List Byte) : (writeBytes p pa bs).Canonical :=
  ⟨fwf_fput _ _ _ _ h.1, h.2⟩
theorem Pkg.Canonical.writeNat {p : Pkg} (h : p.Canonical) (pa n v : Nat) : (writeNat p pa n v).Canonical := h.writeBytes ..
theorem Pkg.Canonical.setTag {p : Pkg} (h : p.Canonical) (pa : Nat) (v : Half) : (setTag p pa v).Canonical :=
  ⟨h.1, fwf_fset _ _ _ _ h.2.1, h.2.2⟩
theorem Pkg.Canonical.setFull {p : Pkg} (h : p.Canonical) (pa : Nat) (v : Bool) : (setFull p pa v).Canonical :=
  ⟨h.1, h.2.1, fwf_fset _ _ _ _ h.2.2.1, h.2.2.2⟩
theorem Pkg.Canonical.setFullN {p : Pkg} (h : p.Canonical) (pa n : Nat) (v : Bool) : (setFullN p pa n v).Canonical :=
  ⟨h.1, h.2.1, fwf_fput _ _ _ _ h.2.2.1, h.2.2.2⟩
theorem Pkg.Canonical.setCell {p : Pkg} (h : p.Canonical) (pa : Nat) (v : CellState) : (setCell p pa v).Canonical :=
  ⟨h.1, h.2.1, h.2.2.1, fwf_fset _ _ _ _ h.2.2.2⟩

/-- Reset memory is canonical. -/
theorem reset_memory_wf : Memory.wf State.reset.pkg.mem := rfl

end Sys2Proof.Machine
end

