-- ==== Sys2Proof/Laws/Area.lean ====
section
/-! SUPPORT. Reading and writing a context area where every address of a range translates: a save of sections that fit succeeds, and so does
every read. -/

namespace Sys2Proof.Machine

theorem bind_ok {ε α β : Type} (a : α) (f : α → Except ε β) : (Except.ok a).bind f = f a := rfl
theorem map_ok {ε α β : Type} (f : α → β) (a : α) : (Except.ok a : Except ε α).map f = .ok (f a) := rfl

/-- In every state of `P`, each address of [lo, hi) translates, for a store to a place where a write keeps `P`, and for a load to plain
memory with good ECC; and the current core's array holds no uncorrectable error. -/
structure Mapped (P : State → Prop) (lo hi : Nat) : Prop where
  top : hi ≤ 2 ^ 56
  store : ∀ {s va}, P s → lo ≤ va → va < hi → ∃ x, s.reachXl true false va = .ok x ∧
    ∀ bs : List Byte, va + bs.length ≤ hi → bs.length ≤ 32 → P (s.writePhysBytes x.pa bs)
  load : ∀ {s va}, P s → lo ≤ va → va < hi → ∃ x, s.engXl false false va = .ok x ∧ ∀ n, badData s.pkg x.pa n = false
  clean : ∀ {s}, P s → ∀ off, s.saveError off = none

variable {P : State → Prop} {lo hi : Nat}

theorem Mapped.saveBytes_ok (h : Mapped P lo hi) : ∀ (n va : Nat) (bs : List Byte) (s : State), P s → lo ≤ va → va + bs.length ≤ hi →
    ∃ t, saveBytes n va bs s = (t, none) ∧ P t
  | 0, _, _, s, hp, _, _ => ⟨s, rfl, hp⟩
  | n + 1, va, bs, s, hp, hl, hh => by
    unfold saveBytes
    by_cases hb : bs = []
    · subst hb; exact ⟨s, by simp, hp⟩
    · have hpos : 0 < bs.length := List.length_pos_iff.2 hb
      obtain ⟨x, hx, hw⟩ := h.store hp hl (by omega)
      have ht := h.top
      simp only [List.isEmpty_iff, hb, if_false, hx]
      by_cases hd : min bs.length (32 - va % 32) = bs.length
      · rw [hd, List.take_length, List.drop_length]
        have : saveBytes n (va56 (va + bs.length)) [] (s.writePhysBytes x.pa bs) = (s.writePhysBytes x.pa bs, none) := by
          cases n <;> simp [saveBytes]
        exact ⟨_, this, hw bs hh (by omega)⟩
      · have hk : va56 (va + min bs.length (32 - va % 32)) = va + min bs.length (32 - va % 32) := Nat.mod_eq_of_lt (by omega)
        rw [hk]
        exact h.saveBytes_ok n _ _ _ (hw _ (by simp <;> omega) (by simp <;> omega)) (by omega) (by simp <;> omega)

/-- A list of sections that lie in an area of `size` bytes at `base` is written whole. -/
theorem Mapped.saveSections_ok (h : Mapped P lo hi) (base size need : Nat) (hl : lo ≤ base) (hh : base + size ≤ hi) :
    ∀ (l : List (Nat × List Byte)) (s : State), P s → (∀ x ∈ l, x.1 + x.2.length ≤ size) → ∃ t, saveSections base size need l s = (t, none) ∧ P t
  | [], s, hp, _ => ⟨s, rfl, hp⟩
  | (off, bs) :: rest, s, hp, hs => by
    have hc := h.clean hp off
    have hx : off + bs.length ≤ size := hs _ (List.mem_cons_self ..)
    obtain ⟨t, ht, hpt⟩ := h.saveBytes_ok (bs.length / 32 + 2) (base + off) (bs.take (size - off)) s hp (by omega) (by simp <;> omega)
    simp only [saveSections, hc, ht, if_neg (show ¬ size - off < bs.length by omega)]
    exact h.saveSections_ok base size need hl hh rest t hpt fun x hx => hs x (List.mem_cons_of_mem _ hx)

theorem Mapped.readBeats_ok (h : Mapped P lo hi) {s : State} (hp : P s) :
    ∀ (f va n : Nat), lo ≤ va → va + n ≤ hi → ∃ bs, s.readBeats (s.engXl false false) f va n = .ok bs
  | 0, _, _, _, _ => ⟨_, rfl⟩
  | f + 1, va, n, hl, hh => by
    unfold State.readBeats
    by_cases hn : n = 0
    · simp [hn]
    · obtain ⟨x, hx, hb⟩ := h.load hp hl (by omega)
      have ht := h.top
      simp only [hn, if_false, State.readAt, hx, hb, Bool.false_eq_true]
      by_cases hd : min n (32 - va % 32) = n
      · rw [hd, Nat.sub_self]
        cases f <;> simp [State.readBeats]
      · have hk : va56 (va + min n (32 - va % 32)) = va + min n (32 - va % 32) := Nat.mod_eq_of_lt (by omega)
        obtain ⟨r, hr⟩ := h.readBeats_ok hp f (va + min n (32 - va % 32)) (n - min n (32 - va % 32)) (by omega) (by omega)
        rw [hk, hr]; exact ⟨_, rfl⟩

theorem Mapped.engRead_ok (h : Mapped P lo hi) {s : State} (hp : P s) (va n : Nat) (hl : lo ≤ va) (hh : va + n ≤ hi) :
    ∃ bs, s.engRead false va n = .ok bs := h.readBeats_ok hp _ va n hl hh

theorem Mapped.readArea_ok (h : Mapped P lo hi) {s : State} (hp : P s) (va n : Nat) (hl : lo ≤ va) (hh : va + n ≤ hi) :
    ∃ x, s.readArea va n = .ok x := by
  obtain ⟨bs, e⟩ := h.engRead_ok hp va n hl hh
  exact ⟨leNat bs, by simp [State.readArea, e, Except.map]⟩

/-- The groups of a context area are read. -/
theorem Mapped.readGroups_ok (h : Mapped P lo hi) {s : State} (hp : P s) (base : Nat) (hl : lo ≤ base) (hh : base + 0x41_0000 ≤ hi) :
    ∀ (gs : List Nat) (v : Vec), (∀ g ∈ gs, g < 7 ∨ g = 7) → ∃ w, readGroups s base gs v = .ok w
  | [], v, _ => ⟨v, rfl⟩
  | g :: gs, v, hg => by
    have g8 := hg g (List.mem_cons_self ..)
    obtain ⟨t, ht⟩ := h.readArea_ok hp (base + 0x31_0000 + 0x2_0000 * g) 0x1_0000 (by omega) (by omega)
    obtain ⟨d, hd⟩ := h.readArea_ok hp (base + 0x31_0000 + 0x2_0000 * g + 0x1_0000) 0x4000 (by omega) (by omega)
    obtain ⟨a, ha⟩ := h.readArea_ok hp (base + 0x31_0000 + 0x2_0000 * g + 0x1_4000) 0x4000 (by omega) (by omega)
    obtain ⟨r, hr⟩ := h.readArea_ok hp (base + 0x31_0000 + 0x2_0000 * g + 0x1_8000) 0xC0 (by omega) (by omega)
    simp only [readGroups, ht, hd, ha, hr, bind_ok]
    exact h.readGroups_ok hp base hl hh gs _ fun x hx => hg x (List.mem_cons_of_mem _ hx)

/-- Both sides of the tables are read. -/
theorem Mapped.readTables_ok (h : Mapped P lo hi) {s : State} (hp : P s) (base : Nat) (t : Tab) (hl : lo ≤ base) (hh : base + 0x43_0400 ≤ hi) :
    ∃ u, readTables s base t = .ok u := by
  obtain ⟨e, he⟩ := h.readArea_ok hp (base + 0x41_0000) 0x2_0000 (by omega) (by omega)
  obtain ⟨k, hk⟩ := h.readArea_ok hp (base + 0x43_0000) 1024 (by omega) (by omega)
  exact ⟨restoreSides t e k, by simp only [readTables, he, hk, bind_ok, map_ok]⟩

/-- The scratchpad's section is read; what it writes lies in the core's array. -/
theorem Mapped.readScratch_ok (h : Mapped P lo hi) {s : State} (hp : P s) (base : Nat) (hl : lo ≤ base) (hh : base + 0x30_1800 ≤ hi) :
    ∃ bs x, readScratch s base = .ok (s.modPkg fun p =>
      let p := writeBytes p (arrayBase s.no) bs
      let p := { p with full := fput false p.full (arrayBase s.no / 128) ((List.range 24576).map fun i => bit x i) }
      { p with tags := fput 0 p.tags (arrayBase s.no / 2048) ((List.range 1536).map fun i => BitVec.ofNat 16 (fld x (24576 + 16 * i) 16)) }) := by
  have hn : min (s.core.lsu.carveBank * 65536) arraySize ≤ 0x30_0000 := Nat.min_le_right ..
  obtain ⟨bs, hb⟩ := h.engRead_ok hp base (min (s.core.lsu.carveBank * 65536) arraySize) hl (by omega)
  obtain ⟨x, hx⟩ := h.readArea_ok hp (base + 0x30_0000) 0x1800 (by omega) (by omega)
  exact ⟨bs, x, by simp only [readScratch, hb, hx, bind_ok, map_ok]⟩

/-! ### The sections of an area -/

theorem flatten_map_length {α : Type} (f : α → List Byte) (n : Nat) (h : ∀ a, (f a).length = n) : ∀ l : List α, (l.map f).flatten.length = l.length * n
  | [] => by simp
  | a :: l => by simp [flatten_map_length f n h l, h, Nat.succ_mul, Nat.add_comm]

/-- The sections of a group end where the next group begins. -/
theorem groupArea_fits (c : Core) (g : Nat) : ∀ x ∈ c.groupArea g, x.1 + x.2.length ≤ 0x31_0000 + 0x2_0000 * (g + 1) := by
  intro x hx
  have h2048 := flatten_map_length (fun t => leBytes 2048 (c.tileOf g t).toNat) 2048 (fun _ => leBytes_length ..) (List.range 32)
  have h512 := flatten_map_length (fun t => leBytes 512 (c.sideOf g t).toNat) 512 (fun _ => leBytes_length ..) (List.range 32)
  have h4096 := flatten_map_length (fun a => leBytes 4096 (c.accOf g a).toNat) 4096 (fun _ => leBytes_length ..) (List.range 4)
  have h4 := flatten_map_length (fun t => leBytes 4 (c.descOf g t)) 4 (fun _ => leBytes_length ..) (List.range 32)
  have h8 := flatten_map_length (fun q => leBytes 4 (c.ptrOf g q) ++ leBytes 4 (fget 0 c.vec.strides (8 * g + q)).toNat) 8
    (fun _ => by rw [List.length_append, leBytes_length, leBytes_length]) (List.range 8)
  rw [List.length_range] at h2048 h512 h4096 h4 h8
  simp only [Core.groupArea, List.mem_cons, List.not_mem_nil, or_false] at hx
  rcases hx with rfl | rfl | rfl | rfl | rfl <;> dsimp only <;> omega

theorem ctxArea_length (c : Core) : c.ctxArea.length = ctxWords.length * 8 := flatten_map_length _ 8 (fun _ => leBytes_length ..) _

/-- Every section of a context lies in an area of 0x45 units of 64 KiB, where its landing records take no more than 65,472 bytes. -/
theorem sections_fit (s : State) (h : s.core.recordArea.length ≤ 0xFFC0) : ∀ x ∈ s.sections, x.1 + x.2.length ≤ 0x45_0000 := by
  intro x hx
  have side (b : Bool) : (s.core.sideArea b).length = 8 * (1024 * 8) := by
    unfold Core.sideArea
    rw [flatten_map_length (fun g => ((List.range 1024).map fun i => leBytes 8 (fget 0 s.core.tab.ents (entKey b g i)).toNat).flatten) (1024 * 8)
      (fun g => (flatten_map_length _ 8 (fun _ => leBytes_length ..) _).trans (by rw [List.length_range])), List.length_range]
  have cls (b : Bool) : (s.core.classArea b).length = 512 := by unfold Core.classArea; rw [List.length_map, List.length_range]
  have tags := flatten_map_length (fun i => leBytes 2 (tagAt s.pkg (arrayBase s.no + 2048 * i)).toNat) 2 (fun _ => leBytes_length ..) (List.range 1536)
  rw [List.length_range] at tags
  have rb (p : Pkg) (a n : Nat) : (readBytes p a n).length = n := by unfold readBytes; rw [fgetN_eq, List.length_map, List.length_range]
  have hn : min (s.core.lsu.carveBank * 65536) arraySize ≤ 0x30_0000 := Nat.min_le_right ..
  simp only [State.sections, List.mem_append, List.mem_cons, List.not_mem_nil, or_false, List.mem_flatten, List.mem_map, List.mem_range] at hx
  have ctx : s.core.ctxArea.length ≤ 0xF000 := by rw [ctxArea_length]; decide +kernel
  rcases hx with (((rfl | rfl) | ⟨l, ⟨g, hg, rfl⟩, hx⟩) | rfl | rfl | rfl | rfl | rfl)
  · dsimp only; rw [rb]; omega
  · dsimp only; rw [List.length_append, List.length_map, List.length_range, tags]; omega
  · exact Nat.le_trans (groupArea_fits s.core g x hx) (by clear hx tags; omega)
  · dsimp only; rw [List.length_append, side, side]; omega
  · dsimp only; rw [List.length_append, cls, cls]; omega
  · dsimp only; omega
  · dsimp only; rw [List.length_append, leBytes_length, leBytes_length]; omega
  · dsimp only; omega

/-! ### The core-state section -/

theorem listWords_keep {α : Type} (n k : Nat) (d : α) (enc : α → Nat → Nat) (dec : Nat → Nat → α → α) (get : Core → List α) (set : List α → Core → Core)
    (h : ∀ l c, (set l c).trp.resumeLeave = c.trp.resumeLeave) :
    ∀ w ∈ listWords n k d enc dec get set, ∀ (v : Nat) (c : Core), (w.put v c).trp.resumeLeave = c.trp.resumeLeave := by
  intro w hw v c
  simp only [listWords, List.mem_cons, List.mem_map] at hw
  rcases hw with rfl | ⟨i, -, rfl⟩
  · exact h ..
  · dsimp only; split
    · exact h ..
    · rfl

theorem bankWords_keep (l : Nat) : ∀ w ∈ bankWords l, ∀ (v : Nat) (c : Core), (w.put v c).trp.resumeLeave = c.trp.resumeLeave := by
  have k (b : TrapBank) (t : Trp) : (t.setBank l b).resumeLeave = t.resumeLeave := by unfold Trp.setBank; split <;> rfl
  simp only [bankWords, trpWord, List.forall_mem_append, List.forall_mem_map, List.forall_mem_cons, List.not_mem_nil, false_imp_iff, implies_true, and_true, k]

/-- No word of the core-state section puts anything into the leave that a handler interrupts. -/
theorem ctxWords_keep : ∀ w ∈ ctxWords, ∀ (v : Nat) (c : Core), (w.put v c).trp.resumeLeave = c.trp.resumeLeave := by
  have b1 := bankWords_keep 1
  have b2 := bankWords_keep 2
  unfold ctxWords
  simp only [List.forall_mem_append, List.forall_mem_map, List.forall_mem_cons, List.not_mem_nil, false_imp_iff, implies_true, and_true, scaWord, vecWord, trpWord, engWord]
  refine ⟨⟨⟨⟨trivial, b1⟩, b2⟩, ?_⟩, listWords_keep _ _ _ _ _ _ _ fun _ _ => rfl⟩
  intro w hw
  obtain ⟨l, hl, hx⟩ := List.mem_flatten.1 hw
  obtain ⟨q, -, rfl⟩ := List.mem_map.1 hl
  refine listWords_keep _ _ _ _ _ _ _ ?_ w hx
  exact fun _ _ => rfl

theorem withCtx_resumeLeave (x : Nat) (c : Core) : (c.withCtx x).trp.resumeLeave = c.trp.resumeLeave := by
  unfold Core.withCtx
  generalize hl : ctxWords.zip (List.range ctxWords.length) = l
  have k : ∀ w ∈ l, ∀ (v : Nat) (c : Core), (w.1.put v c).trp.resumeLeave = c.trp.resumeLeave := by
    subst hl; exact fun w hw => ctxWords_keep w.1 (List.of_mem_zip hw).1
  clear hl
  induction l generalizing c with
  | nil => rfl
  | cons w l ih =>
    rw [List.foldl_cons, ih _ fun y hy => k y (List.mem_cons_of_mem _ hy)]
    exact k w (List.mem_cons_self ..) _ _

end Sys2Proof.Machine
end

