-- ==== Sys2Proof/Laws/Issue.lean ====
section
/-! SUPPORT. What the issue of a bundle of one operation does: it issues, stalls or traps, by what its operation answers. -/

namespace Sys2Proof.Machine

theorem bundleOps_single {i : Instr} {p : SlotPos} (h : i.slot? = some p) : bundleOps (Bundle.single i) = [i] := by
  cases p <;> simp [bundleOps, Bundle.single, h]

@[simp] theorem single_hwin (i : Instr) : (Bundle.single i).hwin = false := rfl
@[simp] theorem single_srot (i : Instr) : (Bundle.single i).srot = false := rfl

/-- The operation of a bundle that holds one sees no LOOP beside it. -/
theorem waitState_single (sem : Instr → SlotSem) (i : Instr) (p : State) : waitState sem (Bundle.single i) p i = p := by
  cases i <;> rfl

/-- No operation alone in its bundle overfills a queue. -/
theorem queuesOver_single {i : Instr} {pos : SlotPos} (hs : i.slot? = some pos) (p t : State) : queuesOver (Bundle.single i) p t = false := by
  simp [queuesOver, bundleOps_single hs]

theorem opWaits_single {i : Instr} {pos : SlotPos} (hs : i.slot? = some pos) (m : SlotSem) (p : State) :
    opWaits (fun _ => m) (Bundle.single i) p = [m.wait p] := by
  simp [opWaits, bundleOps_single hs, waitState_single]

/-- What a due bundle of one operation waits for is what its operation waits for. -/
theorem single_wait {i : Instr} {pos : SlotPos} (hs : i.slot? = some pos) (m : SlotSem) (s : State) (h : Due i s) :
    bundleWait (fun _ => m) (Bundle.single i) (atWait i s) = joinWaits [.go, .go, m.wait (atWait i s)] := by
  obtain ⟨_, _, hc, hp⟩ := h
  simp [bundleWait, baseWaits, opWaits_single hs, hc, hp]

theorem base_go {i : Instr} {s : State} (h : Due i s) : joinWaits (baseWaits (Bundle.single i) (atWait i s)) = .go := by
  obtain ⟨_, _, hc, hp⟩ := h
  simp [baseWaits, hc, hp, joinWaits, waitStalls]

/-- A due bundle of one operation waits for nothing, or for what its operation waits for. -/
theorem dueWaits_single {i : Instr} {pos : SlotPos} (hs : i.slot? = some pos) (m : SlotSem) {s : State} (h : Due i s) :
    dueWaits (fun _ => m) (Bundle.single i) s = [.go, .go] ∨ dueWaits (fun _ => m) (Bundle.single i) s = [.go, .go, m.wait (atWait i s)] := by
  obtain ⟨_, _, hc, hp⟩ := h
  have hb : baseWaits (Bundle.single i) (openBundle false (Bundle.single i) s) = [.go, .go] := by
    unfold atWait at hc hp; simp [baseWaits, hc, hp]
  unfold dueWaits
  simp only [hb, opWaits_single hs]
  split
  · cases hb : (m.wait (openBundle false (Bundle.single i) s)).atBank
    · exact .inl (by simp [hb])
    · exact .inr (by simp [hb, atWait])
  · exact .inr rfl

/-- A stall that is closed to causes is a stall of the operation. -/
theorem closed_single {i : Instr} {pos : SlotPos} (hs : i.slot? = some pos) (m : SlotSem) {s : State} (h : Due i s) :
    closedStall (fun _ => m) (Bundle.single i) s = none ∨
      ∃ k, m.wait (atWait i s) = .stall k ∧ closedStall (fun _ => m) (Bundle.single i) s = some k := by
  unfold closedStall
  dsimp only
  rw [if_neg (fun n => n (show joinWaits (baseWaits (Bundle.single i) (openBundle false (Bundle.single i) s)) = .go from base_go h))]
  rcases dueWaits_single hs m h with e | e <;> rw [e]
  · exact .inl rfl
  · cases hw : m.wait (atWait i s) with
    | go => exact .inl rfl
    | trap c => exact .inl rfl
    | stall k =>
      have hj : joinWaits [.go, .go, .stall k] = .stall k := by simp [joinWaits, waitStalls, waitTrap]
      rw [hj]
      by_cases ho : k.all openStall = true
      · exact .inl (if_pos ho)
      · exact .inr ⟨k, rfl, if_neg ho⟩

/-- At a clear boundary a due bundle has its turn. -/
theorem boundary_clear (sem : Instr → SlotSem) (wr arrive get) (b : Bundle) (s : State) (h : Boundary s) (hg : get s = .ok b) :
    boundary sem wr arrive get s = match closedStall sem b s with | some ks => s.stallClk ks | none => issueBundle sem wr arrive b s := by
  obtain ⟨_, _, hn, ha, hh, hs, hr⟩ := h
  unfold boundary
  simp only [hn]
  rw [if_neg (fun h => h.elim (fun h => by rw [ha] at h; cases h) (fun h => absurd hh (Nat.not_le.mpr h)))]
  cases hc : closedStall sem b s <;> simp only [hg, hs, hr, hc, Bool.false_eq_true, if_false]

/-- The turn of a due bundle of one operation, without a shift change. -/
theorem issueSingle_turn {i : Instr} {pos : SlotPos} (hs : i.slot? = some pos) (m : SlotSem) {s : State} (h : Due i s) :
    issueSingle i m s = .next (match m.wait (atWait i s) with
      | .stall k => stalled k s
      | _ => (issueNow (fun _ => m) mtsWrite (Bundle.single i) s (atIssue i s)).endTurn) := by
  have hb := h.1
  simp only [issueSingle, issueSingleWith, hb.1, hb.2.1, if_true, Bool.false_eq_true, if_false, finishTurn]
  rw [boundary_clear _ _ _ _ _ _ hb rfl]
  rcases closed_single hs m h with hc | ⟨k, hk, hc⟩
  · rw [hc]
    simp only [issueBundle, if_neg (show ¬ ingressStall (Bundle.single i) s = true by simp [h.2.1])]
    change Host.Outcome.next (State.endTurn (match joinWaits (baseWaits (Bundle.single i) (atWait i s)) with
      | .stall k => _ | _ => match bundleWait (fun _ => m) (Bundle.single i) (atWait i s) with
        | .stall k => _ | .trap c => _ | .go => issueNow (fun _ => m) mtsWrite (Bundle.single i) s (atIssue i s))) = _
    rw [base_go h, single_wait hs m s h]
    cases m.wait (atWait i s) <;> simp [joinWaits, waitStalls, waitTrap, stalled]
  · rw [hc, hk]; rfl

theorem issueNow_single {i : Instr} {pos : SlotPos} (hs : i.slot? = some pos) (m : SlotSem) (s p : State) :
    issueNow (fun _ => m) mtsWrite (Bundle.single i) s p = match m.op p p with
      | .ok t => endBundle mtsWrite (Bundle.single i) t
      | .trap c => s.precise c := by
  simp only [issueNow, bundleOps_single hs, runOps]
  cases m.op p p <;> simp [Res.bind, queuesOver_single hs]

/-- The bundle issues: its operation waits for nothing and goes on. -/
theorem issueSingle_ok {i : Instr} {pos : SlotPos} (hs : i.slot? = some pos) {m : SlotSem} {s u : State} (h : Due i s)
    (hw : m.wait (atWait i s) = .go) (ho : m.op (atIssue i s) (atIssue i s) = .ok u) :
    issueSingle i m s = .next (issued i u) := by
  rw [issueSingle_turn hs m h, hw, issueNow_single hs, ho]; rfl

/-- The bundle traps: its operation waits for nothing and faults. -/
theorem issueSingle_trap {i : Instr} {pos : SlotPos} (hs : i.slot? = some pos) {m : SlotSem} {s : State} {c : CauseInfo}
    (h : Due i s) (hw : m.wait (atWait i s) = .go) (ho : m.op (atIssue i s) (atIssue i s) = .trap c) :
    issueSingle i m s = .next (trapped s c) := by
  rw [issueSingle_turn hs m h, hw, issueNow_single hs, ho]; rfl

/-- The bundle stalls. -/
theorem issueSingle_stall {i : Instr} {pos : SlotPos} (hs : i.slot? = some pos) {m : SlotSem} {s : State} {k : List Nat}
    (h : Due i s) (hw : m.wait (atWait i s) = .stall k) : issueSingle i m s = .next (stalled k s) := by
  rw [issueSingle_turn hs m h, hw]

/-! ### What an operation reads, and what its waits are judged on -/

theorem applyIngress_modTab (f : Tab → Tab) (n : Nat) (s : State) : applyIngress n (s.modTab f) = (applyIngress n s).modTab f := by
  induction n generalizing s with
  | zero => rfl
  | succ n ih =>
    unfold applyIngress
    rw [show (s.modTab f).core.lsu.ingress = s.core.lsu.ingress from rfl]
    cases s.core.lsu.ingress with
    | nil => rfl
    | cons x xs =>
      exact ih ((s.modPkg fun p => writeBytes p x.pa x.bytes).modLsu fun l =>
        { l with ingress := xs, ingressFull := if 64 ≤ xs.length then some s.clk else none })

theorem applyHwin_modTab (f : Tab → Tab) (n : Nat) (s : State) : (s.modTab f).applyHwin n = (s.applyHwin n).modTab f := by
  simp only [State.applyHwin, applyIngress_modTab]; rfl

/-- A bundle that issues is opened as one whose waits are judged, but for XNEXT where a re-entry fixes it (R339). -/
theorem openBundle_issue (b : Bundle) (s : State) : ∃ x, openBundle true b s = (openBundle false b s).modTab fun t => { t with xnext := x } := by
  have r : ∃ x, s.reenter true = (s.reenter false).modTab fun t => { t with xnext := x } := by
    unfold State.reenter
    split
    · exact ⟨s.core.tab.xnext, rfl⟩
    · exact ⟨_, rfl⟩
  obtain ⟨x, hx⟩ := r
  refine ⟨x, ?_⟩
  unfold openBundle
  rw [hx]
  dsimp only
  have ha : applies b ((s.reenter false).modTab fun t => { t with xnext := x }) = applies b (s.reenter false) := rfl
  rw [ha, show ((s.reenter false).modTab fun t => { t with xnext := x }).core.lsu = (s.reenter false).core.lsu from rfl, applyHwin_modTab]
  split <;> rfl

theorem dropAll_core (xs : List Pending) (s : State) :
    dropAll xs s = s.modLsu fun l => { l with claims := (dropAll xs s).core.lsu.claims } := by
  induction xs generalizing s with
  | nil => rfl
  | cons x xs ih =>
    rw [dropAll, ih]
    unfold dropEff
    split <;> rfl

/-- R105: the kill of late results discards results in flight and accesses, marks armed resolutions, and changes nothing else. -/
theorem killLate_eq (s : State) (lim : Nat) : ∃ fl lq sq ou cl ar, s.killLate lim =
    ((s.modSca fun c => { c with inflight := fl }).modLsu fun l => { l with loadQ := lq, storeQ := sq, outst := ou, claims := cl }).modEng
      fun g => { g with armed := ar } := by
  unfold State.killLate
  dsimp only
  rw [dropAll_core]
  exact ⟨_, _, _, _, _, _, rfl⟩

/-- The state an operation reads at its issue is the one its waits are judged on, but for XNEXT and what the kill of late results discards. -/
theorem atIssue_eq (i : Instr) (s : State) : ∃ x fl lq sq ou cl ar, atIssue i s =
    ((((atWait i s).modTab fun t => { t with xnext := x }).modSca fun c => { c with inflight := fl }).modLsu fun l =>
      { l with loadQ := lq, storeQ := sq, outst := ou, claims := cl }).modEng fun g => { g with armed := ar } := by
  obtain ⟨x, hx⟩ := openBundle_issue (Bundle.single i) s
  unfold atIssue atWait beginBundle
  rw [hx]
  dsimp only
  split
  · next lim _ =>
    obtain ⟨fl, lq, sq, ou, cl, ar, h⟩ := killLate_eq ((openBundle false (Bundle.single i) s).modTab fun t => { t with xnext := x }) lim
    exact ⟨x, fl, lq, sq, ou, cl, ar, h⟩
  · exact ⟨x, _, _, _, _, _, _, rfl⟩

theorem guardOf_atWait (h : Head) (i : Instr) (s : State) : guardOf h (atWait i s).core = guardOf h (atIssue i s).core := by
  obtain ⟨x, fl, lq, sq, ou, cl, ar, e⟩ := atIssue_eq i s; rw [e]; rfl

theorem killed_atWait (h : Head) (i : Instr) (s : State) : killed h (atWait i s).core = killed h (atIssue i s).core := by
  obtain ⟨x, fl, lq, sq, ou, cl, ar, e⟩ := atIssue_eq i s; rw [e]; rfl

theorem src_atWait (sl : SSlot) (inB : Bool) (f : BitVec 6) (i : Instr) (s : State) :
    (atWait i s).core.src sl inB f = (atIssue i s).core.src sl inB f := by
  obtain ⟨x, fl, lq, sq, ou, cl, ar, e⟩ := atIssue_eq i s; rw [e]; rfl

theorem tlbWait_atWait (a : Nat) (i : Instr) (s : State) : tlbWait a (atWait i s) = tlbWait a (atIssue i s) := by
  obtain ⟨x, fl, lq, sq, ou, cl, ar, e⟩ := atIssue_eq i s; rw [e]; rfl

theorem eng_atWait (i : Instr) (s : State) :
    (atWait i s).core.eng = { (atIssue i s).core.eng with armed := (atWait i s).core.eng.armed } := by
  obtain ⟨x, fl, lq, sq, ou, cl, ar, e⟩ := atIssue_eq i s; rw [e]; rfl

theorem vec_atWait (i : Instr) (s : State) : (atWait i s).core.vec = (atIssue i s).core.vec := by
  obtain ⟨x, fl, lq, sq, ou, cl, ar, e⟩ := atIssue_eq i s; rw [e]; rfl

theorem pkg_atWait (i : Instr) (s : State) : (atWait i s).pkg = (atIssue i s).pkg := by
  obtain ⟨x, fl, lq, sq, ou, cl, ar, e⟩ := atIssue_eq i s; rw [e]; rfl

end Sys2Proof.Machine
end

