-- ==== Sys2Proof/Laws/Turn.lean ====
section
/-! SUPPORT. What the operations around a bundle leave alone: the latch shift and the kill at its beginning, its end, the turn that follows it,
and a result put in flight. `Undisturbed` lists the state that none of them touches. -/

namespace Sys2Proof.Machine

/-- What a bundle without an access, a mode change or a special register leaves as it was. -/
structure Undisturbed (s t : State) : Prop where
  mem : t.pkg.mem = s.pkg.mem
  tags : t.pkg.tags = s.pkg.tags
  full : t.pkg.full = s.pkg.full
  cells : t.pkg.cells = s.pkg.cells
  no : t.no = s.no
  others : t.others = s.others
  g : t.core.sca.g = s.core.sca.g
  lc : t.core.sca.lc = s.core.sca.lc
  vec : t.core.vec = s.core.vec
  ents : t.core.tab.ents = s.core.tab.ents
  cls : t.core.tab.cls = s.core.tab.cls
  act : t.core.tab.act = s.core.tab.act
  eng : { t.core.eng with armed := [] } = { s.core.eng with armed := [] }
  armed : t.core.eng.armed.map (fun a => { a with dead := false }) = s.core.eng.armed.map (fun a => { a with dead := false })
  size : t.core.lsu.size = s.core.lsu.size
  cache : t.core.lsu.cache = s.core.lsu.cache
  ackcnt : t.core.lsu.ackcnt = s.core.lsu.ackcnt
  level : t.core.trp.level = s.core.trp.level
  bank1 : t.core.trp.bank1 = s.core.trp.bank1
  bank2 : t.core.trp.bank2 = s.core.trp.bank2
  reports : t.core.trp.reports = s.core.trp.reports
  recd : t.core.un.recd = s.core.un.recd
  st : t.core.un.st = s.core.un.st

theorem Undisturbed.refl (s : State) : Undisturbed s s :=
  ⟨rfl, rfl, rfl, rfl, rfl, rfl, rfl, rfl, rfl, rfl, rfl, rfl, rfl, rfl, rfl, rfl, rfl, rfl, rfl, rfl, rfl, rfl, rfl⟩

theorem Undisturbed.trans {a b c : State} (h : Undisturbed a b) (k : Undisturbed b c) : Undisturbed a c :=
  ⟨k.mem.trans h.mem, k.tags.trans h.tags, k.full.trans h.full, k.cells.trans h.cells, k.no.trans h.no, k.others.trans h.others,
    k.g.trans h.g, k.lc.trans h.lc, k.vec.trans h.vec, k.ents.trans h.ents, k.cls.trans h.cls, k.act.trans h.act,
    k.eng.trans h.eng, k.armed.trans h.armed,
    k.size.trans h.size, k.cache.trans h.cache, k.ackcnt.trans h.ackcnt, k.level.trans h.level, k.bank1.trans h.bank1,
    k.bank2.trans h.bank2, k.reports.trans h.reports, k.recd.trans h.recd, k.st.trans h.st⟩

/-- A change of the scalar registers other than g registers and loop counters. -/
theorem undisturbed_modSca (s : State) (f : Sca → Sca) (hg : (f s.core.sca).g = s.core.sca.g) (hl : (f s.core.sca).lc = s.core.sca.lc) :
    Undisturbed s (s.modSca f) :=
  ⟨rfl, rfl, rfl, rfl, rfl, rfl, hg, hl, rfl, rfl, rfl, rfl, rfl, rfl, rfl, rfl, rfl, rfl, rfl, rfl, rfl, rfl, rfl⟩

theorem undisturbed_putEff (s : State) (sq : Bool) (n : Nat) (e : Effect) : Undisturbed s (s.putEff sq n e) :=
  undisturbed_modSca s _ rfl rfl

theorem undisturbed_land (s : State) (sl : SSlot) (h : Head) (dst : BitVec 5) (wbs : Bool) (v : Double) (n : Nat) :
    Undisturbed s (s.land sl h dst wbs v n) := undisturbed_putEff ..

theorem undisturbed_perf (s : State) (k n : Nat) : Undisturbed s (s.perf k n) :=
  ⟨rfl, rfl, rfl, rfl, rfl, rfl, rfl, rfl, rfl, rfl, rfl, rfl, rfl, rfl, rfl, rfl, rfl, rfl, rfl, rfl, rfl, rfl, rfl⟩

theorem undisturbed_setHeld (s : State) (k : Nat) (v : Double) : Undisturbed s (s.setHeld k v) := undisturbed_modSca s _ rfl rfl

theorem undisturbed_holdRead (sl : SSlot) (h : Head) (inB hold : Bool) (f : BitVec 6) (p s : State) :
    Undisturbed s (holdRead sl h inB hold f p s) := by
  unfold holdRead
  split
  · exact undisturbed_setHeld ..
  · exact .refl s

theorem undisturbed_regHolds (o : RegOps) (sl : SSlot) (h : Head) (p s : State) : Undisturbed s (regHolds o sl h p s) :=
  (undisturbed_holdRead ..).trans (undisturbed_holdRead ..)

theorem undisturbed_dropAll (xs : List Pending) (s : State) : Undisturbed s (dropAll xs s) := by
  induction xs generalizing s with
  | nil => exact .refl s
  | cons x xs ih =>
    refine Undisturbed.trans ?_ (ih _)
    unfold dropEff
    split
    · exact ⟨rfl, rfl, rfl, rfl, rfl, rfl, rfl, rfl, rfl, rfl, rfl, rfl, rfl, rfl, rfl, rfl, rfl, rfl, rfl, rfl, rfl, rfl, rfl⟩
    · exact .refl s

theorem dropAll_eng (xs : List Pending) (s : State) : (dropAll xs s).core.eng = s.core.eng := by
  induction xs generalizing s with
  | nil => rfl
  | cons x xs ih => rw [dropAll, ih]; unfold dropEff; split <;> rfl

/-- R105: the kill of late results. -/
theorem undisturbed_killLate (s : State) (lim : Nat) : Undisturbed s (s.killLate lim) := by
  refine (undisturbed_dropAll (s.core.sca.inflight.filter fun x => x.sq && decide (x.iss < lim)) s).trans ?_
  unfold State.killLate
  refine ⟨rfl, rfl, rfl, rfl, rfl, rfl, rfl, rfl, rfl, rfl, rfl, rfl, rfl, ?_, rfl, rfl, rfl, rfl, rfl, rfl, rfl, rfl, rfl⟩
  dsimp only [State.modLsu, State.modEng, State.modSca]
  rw [dropAll_eng, List.map_map]
  exact List.map_congr_left fun a _ => by dsimp only [Function.comp]; split <;> rfl

/-- Nothing waits to re-enter, so the opening of a bundle that applies no host write shifts the latches alone, or clears them after a shift
change. -/
theorem openBundle_shift (issue : Bool) (b : Bundle) (s : State) (h : applies b s = false) (hr : s.core.trp.reentry = none) :
    openBundle issue b s = s.modSca (if s.core.tab.swapped then Sca.clearLatches else Sca.shiftLatches) := by
  have e : s.reenter issue = s := by unfold State.reenter; rw [hr]
  simp only [openBundle, e, h, Bool.false_eq_true, if_false]

/-- R59, R105: the beginning of a bundle that applies no host write, where nothing waits to re-enter. -/
theorem undisturbed_beginBundle (b : Bundle) (s : State) (h : applies b s = false) (hr : s.core.trp.reentry = none) :
    Undisturbed s (beginBundle b s) := by
  unfold beginBundle
  rw [openBundle_shift true b s h hr]
  have k : Undisturbed s (s.modSca (if s.core.tab.swapped then Sca.clearLatches else Sca.shiftLatches)) := by
    split <;> exact undisturbed_modSca s _ rfl rfl
  dsimp only
  split
  · exact k.trans (undisturbed_killLate ..)
  · exact k

theorem dropAll_sca (xs : List Pending) (s : State) : (dropAll xs s).core.sca = s.core.sca := by
  induction xs generalizing s with
  | nil => rfl
  | cons x xs ih => rw [dropAll, ih]; unfold dropEff; split <;> rfl

/-- What the beginning of a bundle leaves of the scalar state: all but the latches and what is in flight. -/
theorem beginBundle_sca (b : Bundle) (s : State) (h : applies b s = false) (hr : s.core.trp.reentry = none) :
    (beginBundle b s).core.sca = { (if s.core.tab.swapped then s.core.sca.clearLatches else s.core.sca.shiftLatches) with
      inflight := (beginBundle b s).core.sca.inflight } := by
  unfold beginBundle
  rw [openBundle_shift true b s h hr]
  dsimp only
  split
  · simp only [State.killLate, State.modLsu, State.modSca, dropAll_sca]; split <;> rfl
  · simp only [State.modSca]; split <;> rfl

theorem applies_single (i : Instr) (s : State) : applies (Bundle.single i) s = false := by
  simp [applies]

/-- The clk of a stall that no codebook bank causes. -/
theorem undisturbed_stallClk (s : State) (ks : List Nat) (h : cbStallNo ∉ ks) : Undisturbed s (s.stallClk ks) := by
  have hd : cbStallNo ∉ ks.eraseDups := fun hm => h (List.mem_eraseDups.1 hm)
  unfold State.stallClk
  generalize ks.eraseDups = l at hd
  have k : ∀ (l : List Nat) (u : State), cbStallNo ∉ l →
      Undisturbed u (l.foldl (fun s k => if k = cbStallNo then s.modVec fun v => { v with cbstall := v.cbstall + 1 }
        else if cbStallNo < k then s else s.perf k 1) u) := by
    intro l
    induction l with
    | nil => intro u _; exact .refl u
    | cons a l ih =>
      intro u hl
      simp only [List.mem_cons, not_or] at hl
      simp only [List.foldl_cons, if_neg (Ne.symm hl.1)]
      refine Undisturbed.trans ?_ (ih _ hl.2)
      split
      · exact .refl u
      · exact undisturbed_perf ..
  have w : Undisturbed s (s.modTab Tab.waitClk) := by
    have e : ∀ t : Tab, t.waitClk.ents = t.ents ∧ t.waitClk.cls = t.cls ∧ t.waitClk.act = t.act := by
      intro t; unfold Tab.waitClk; split
      · split <;> exact ⟨rfl, rfl, rfl⟩
      · exact ⟨rfl, rfl, rfl⟩
    exact ⟨rfl, rfl, rfl, rfl, rfl, rfl, rfl, rfl, rfl, (e _).1, (e _).2.1, (e _).2.2, rfl, rfl, rfl, rfl, rfl, rfl, rfl, rfl, rfl, rfl, rfl⟩
  exact w.trans ((undisturbed_perf ..).trans (k l _ hd))

/-! ### The turn that follows -/

theorem switchTo_coreAt (s : State) (n k : Nat) : (s.switchTo n).coreAt k = s.coreAt k := by
  unfold State.switchTo
  split
  · rfl
  · next hn =>
    simp only [State.coreAt]
    by_cases hk : k = n
    · subst hk; simp [hn]
    · simp only [hk, if_false, fget_fset]
      by_cases h2 : k = s.no
      · simp [h2]
      · simp [h2, fget_ferase_other _ _ hk]

theorem switchTo_pkg (s : State) (n : Nat) : (s.switchTo n).pkg = s.pkg := by unfold State.switchTo; split <;> rfl

/-- The end of a core's turn changes no core. -/
theorem endTurn_coreAt (s : State) (k : Nat) : s.endTurn.coreAt k = s.coreAt k := by
  unfold State.endTurn
  split
  · exact switchTo_coreAt ..
  · dsimp only
    split
    · split
      · rfl
      · rw [switchTo_coreAt]; rfl
    · rfl

/-- It changes the package only in the clk and the GTS. -/
theorem endTurn_pkg (s : State) : s.endTurn.pkg = s.pkg ∨ s.endTurn.pkg = tickGts s.pkg := by
  unfold State.endTurn
  split
  · exact .inl (switchTo_pkg ..)
  · right
    dsimp only
    split
    · split
      · rfl
      · rw [switchTo_pkg]; rfl
    · rfl

theorem tickGts_stores (p : Pkg) : (tickGts p).mem = p.mem ∧ (tickGts p).tags = p.tags ∧ (tickGts p).full = p.full ∧ (tickGts p).cells = p.cells := by
  exact ⟨rfl, rfl, rfl, rfl⟩

theorem endTurn_stores (s : State) : s.endTurn.pkg.mem = s.pkg.mem ∧ s.endTurn.pkg.tags = s.pkg.tags ∧ s.endTurn.pkg.full = s.pkg.full ∧
    s.endTurn.pkg.cells = s.pkg.cells := by
  rcases endTurn_pkg s with h | h
  · rw [h]; exact ⟨rfl, rfl, rfl, rfl⟩
  · rw [h]; exact tickGts_stores _

/-! ### The end of a bundle -/

/-- A bundle's end, where no MTS, SPSET, rotation or TRET is in it. -/
theorem undisturbed_endBundle (wr : Nat → Double → State → State) (b : Bundle) (s : State) (hl : s.core.sca.late = [])
    (ht : s.core.sca.tretNow = false) : Undisturbed s (endBundle wr b s) ∧ (endBundle wr b s).core.sca.held = s.core.sca.held := by
  have q : ∀ f : Sca → Sca, ∀ s : State, (f s.core.sca).g = s.core.sca.g → (f s.core.sca).lc = s.core.sca.lc →
      (f s.core.sca).held = s.core.sca.held → Undisturbed s (s.modSca f) ∧ (s.modSca f).core.sca.held = s.core.sca.held :=
    fun f s h1 h2 h3 => ⟨undisturbed_modSca s f h1 h2, h3⟩
  have u : ∀ s t : State, t.pkg = s.pkg → t.no = s.no → t.others = s.others → t.core.sca = s.core.sca → t.core.vec = s.core.vec →
      t.core.tab = { s.core.tab with wait := t.core.tab.wait } → t.core.eng = s.core.eng →
      t.core.lsu = { s.core.lsu with walked := t.core.lsu.walked } →
      t.core.trp = { s.core.trp with replays := t.core.trp.replays, stepDue := t.core.trp.stepDue } →
      t.core.un = s.core.un → Undisturbed s t ∧ t.core.sca.held = s.core.sca.held := by
    intro s t h1 h2 h3 h4 h5 h6 h7 h8 h9 h10
    refine ⟨⟨by rw [h1], by rw [h1], by rw [h1], by rw [h1], h2, h3, by rw [h4], by rw [h4], h5, by rw [h6], by rw [h6], by rw [h6], by rw [h7], by rw [h7],
      by rw [h8], by rw [h8], by rw [h8], by rw [h9], by rw [h9], by rw [h9], by rw [h9], by rw [h10], by rw [h10]⟩, by rw [h4]⟩
  have tr : ∀ {a b c : State}, Undisturbed a b ∧ b.core.sca.held = a.core.sca.held → Undisturbed b c ∧ c.core.sca.held = b.core.sca.held →
      Undisturbed a c ∧ c.core.sca.held = a.core.sca.held := fun h k => ⟨h.1.trans k.1, k.2.trans h.2⟩
  have lf : ∀ (pc : Nat) (u : State), Undisturbed u (logFetched pc u) ∧ (logFetched pc u).core = u.core := by
    intro pc u
    have lm : ∀ i, Undisturbed u (u.logMemue i) ∧ (u.logMemue i).core = u.core := by
      intro i; unfold State.logMemue; split
      · exact ⟨⟨rfl, rfl, rfl, rfl, rfl, rfl, rfl, rfl, rfl, rfl, rfl, rfl, rfl, rfl, rfl, rfl, rfl, rfl, rfl, rfl, rfl, rfl, rfl⟩, rfl⟩
      · exact ⟨.refl u, rfl⟩
    unfold logFetched
    dsimp only
    split
    · exact ⟨.refl u, rfl⟩
    · split
      · split
        · split
          · exact lm _
          · exact ⟨.refl u, rfl⟩
        · exact ⟨.refl u, rfl⟩
      · exact ⟨.refl u, rfl⟩
  unfold endBundle
  extract_lets level pc tret s1 s2 s3 sl s4 s5 s6 s7 s8 s9
  have e1 : Undisturbed s s1 ∧ s1.core.sca.held = s.core.sca.held := q _ s rfl rfl rfl
  have l1 : s1.core.sca.late = [] := hl
  have t1 : s1.core.sca.tretNow = false := ht
  have e2 : (Undisturbed s1 s2 ∧ s2.core.sca.held = s1.core.sca.held) ∧ s2.core.sca.late = [] ∧ s2.core.sca.tretNow = false := by
    simp only [s2]; split
    · exact ⟨q _ s1 rfl rfl rfl, l1, t1⟩
    · exact ⟨⟨.refl s1, rfl⟩, l1, t1⟩
  have h3 : s3 = s2 := by simp only [s3, e2.2.1, applyLate]
  have el : Undisturbed s2 sl ∧ sl.core = s2.core := by simp only [sl, h3]; exact lf pc s2
  have e4 : (Undisturbed s2 s4 ∧ s4.core.sca.held = s2.core.sca.held) ∧ s4.core.sca.tretNow = false := by
    simp only [s4]
    exact ⟨tr ⟨el.1, by rw [el.2]⟩ (q _ sl rfl rfl rfl), (congrArg (fun c => c.sca.tretNow) el.2).trans e2.2.2⟩
  have h5 : s5 = s4 := by simp only [s5, e4.2, Bool.false_eq_true, if_false]
  have e8 : Undisturbed s4 s8 ∧ s8.core.sca.held = s4.core.sca.held := by
    simp only [s8, s7, s6, h5]; exact u _ _ rfl rfl rfl rfl rfl rfl rfl rfl rfl rfl
  have e9 : Undisturbed s8 s9 ∧ s9.core.sca.held = s8.core.sca.held := by
    simp only [s9]
    split
    · exact u _ _ rfl rfl rfl rfl rfl rfl rfl rfl rfl rfl
    · split
      · split
        · split
          · exact tr (q _ _ rfl rfl rfl) (u _ _ rfl rfl rfl rfl rfl rfl rfl rfl rfl rfl)
          · exact ⟨.refl _, rfl⟩
        · exact u _ _ rfl rfl rfl rfl rfl rfl rfl rfl rfl rfl
      · exact ⟨.refl _, rfl⟩
  have ep : Undisturbed s9 ((if tret then s9 else stayAt pc s9).perf 0 1) ∧
      ((if tret then s9 else stayAt pc s9).perf 0 1).core.sca.held = s9.core.sca.held := by
    rw [show tret = false from ht, if_neg Bool.false_ne_true]
    unfold stayAt
    split
    · exact tr (q _ _ rfl rfl rfl) ⟨undisturbed_perf .., rfl⟩
    · exact ⟨undisturbed_perf .., rfl⟩
  exact tr e1 (tr e2.1 (tr e4.1 (tr e8 (tr e9 ep))))

end Sys2Proof.Machine
end

