-- ==== Sys2Proof/Laws/Slots.lean ====
section
/-! SUPPORT. What holds of every slot operation at once: it is guarded, it waits only where it acts, and exec of it is the turn of the bundle that
holds it alone. -/

namespace Sys2Proof.Machine

set_option Elab.async false

/-- Every operation but NOP is guarded, after at most the held operands of its sources are stored. -/
theorem issueSem_op_shape (i : Instr) (h : Head) (hh : i.head? = some h) (p s : State) :
    (issueSem i).op p s = .ok s ∨ (∃ f, (issueSem i).op p s = guarded h p s f) ∨
      (∃ o sl f, (issueSem i).op p s = guarded h p (regHolds o sl h p s) f) ∨
      (∃ hold srcA sl f, (issueSem i).op p s = guarded h p (holdRead sl h false hold srcA p s) f) := by
  cases i <;> first
    | (simp only [Instr.head?, reduceCtorEq] at hh; done)
    | (simp only [Instr.head?, Option.some.injEq] at hh; subst hh
       dsimp only [
       issueSem, semColl, semPcancel, semBr, semBrl, semBri, semRet, semLoop, semLoopSet, semSpset, semSloop, semCpy, semCpyg, semCpys,
       semCpyt, semCpyx, semCpyz, semCpyw, semCfill, semSyncw, semQpush, semTfill, semCbfill, semTswap, semTstatr, semTdset, semStrm,
       semStrmx, semHsub, semHrel, semSuspend, semFinish, semLdb, semLdbu, semLdh, semLdhu, semLdw, semLdwu, semLdd, semStb, semSth,
       semStw, semStd, semAadd, semAmin, semAminu, semAmax, semAmaxu, semAand, semAor, semAxor, semAswap, semAcas, semRinv, semTagget,
       semTagset, semFence, semQalign, semTlwait, semTlread, semPcnt, semPwait, semPhase, semCarve, semNop, semAddW, semAddD, semSubW,
       semSubD, semMulW, semMulD, semMulhW, semMulhD, semMulhuW, semMulhuD, semDivW, semDivD, semDivuW, semDivuD, semRemW, semRemD,
       semRemuW, semRemuD, semAddiW, semAddiD, semAnd, semOr, semXor, semAndn, semShl, semShr, semSar, semRotl, semClz, semCtz, semPopc,
       semMin, semMax, semMinu, semMaxu, semSeq, semSne, semSlt, semSltu, semSle, semSleu, semSel, semAndi, semOri, semXori, semShli,
       semShri, semSari, semMovw, semLimm, semBfx, semBfxu, semBfi, semBset, semBclr, semBtst, semAddp, semTrap, semDbgbrk, semTret,
       semMfs, semMts, semTime, semPerfrd, semCellmk, semCellmkFut, semResolve, semResolveOn, semFreg, semSpecev, semSpawn, semLaunch,
       semChunk, semCntrd, semCancel, semMlook, semDispatch, semXpnd, semXpndi, semXpos, semXcvtw, semKld, semKset, semKmov, semXex,
       regForm, divForm, oneForm, immForm, bfForm, loadForm, storeForm, atomForm, cmdForm, cellForm, blockForm, noWait, accessWait, cbWait]
       first
         | exact .inr (.inl ⟨_, rfl⟩)
         | exact .inr (.inr (.inl ⟨_, _, _, rfl⟩))
         | exact .inr (.inr (.inr ⟨_, _, _, _, rfl⟩))
         | exact .inl rfl)

/-- A wait is made only by an operation that acts. -/
theorem issueSem_wait_shape (i : Instr) (h : Head) (hh : i.head? = some h) (p : State) :
    (issueSem i).wait p = .go ∨ ∃ w, (issueSem i).wait p = activeWait h p w := by
  cases i <;> first
    | (simp only [Instr.head?, reduceCtorEq] at hh; done)
    | (simp only [Instr.head?, Option.some.injEq] at hh; subst hh
       dsimp only [
       issueSem, semColl, semPcancel, semBr, semBrl, semBri, semRet, semLoop, semLoopSet, semSpset, semSloop, semCpy, semCpyg, semCpys,
       semCpyt, semCpyx, semCpyz, semCpyw, semCfill, semSyncw, semQpush, semTfill, semCbfill, semTswap, semTstatr, semTdset, semStrm,
       semStrmx, semHsub, semHrel, semSuspend, semFinish, semLdb, semLdbu, semLdh, semLdhu, semLdw, semLdwu, semLdd, semStb, semSth,
       semStw, semStd, semAadd, semAmin, semAminu, semAmax, semAmaxu, semAand, semAor, semAxor, semAswap, semAcas, semRinv, semTagget,
       semTagset, semFence, semQalign, semTlwait, semTlread, semPcnt, semPwait, semPhase, semCarve, semNop, semAddW, semAddD, semSubW,
       semSubD, semMulW, semMulD, semMulhW, semMulhD, semMulhuW, semMulhuD, semDivW, semDivD, semDivuW, semDivuD, semRemW, semRemD,
       semRemuW, semRemuD, semAddiW, semAddiD, semAnd, semOr, semXor, semAndn, semShl, semShr, semSar, semRotl, semClz, semCtz, semPopc,
       semMin, semMax, semMinu, semMaxu, semSeq, semSne, semSlt, semSltu, semSle, semSleu, semSel, semAndi, semOri, semXori, semShli,
       semShri, semSari, semMovw, semLimm, semBfx, semBfxu, semBfi, semBset, semBclr, semBtst, semAddp, semTrap, semDbgbrk, semTret,
       semMfs, semMts, semTime, semPerfrd, semCellmk, semCellmkFut, semResolve, semResolveOn, semFreg, semSpecev, semSpawn, semLaunch,
       semChunk, semCntrd, semCancel, semMlook, semDispatch, semXpnd, semXpndi, semXpos, semXcvtw, semKld, semKset, semKmov, semXex,
       regForm, divForm, oneForm, immForm, bfForm, loadForm, storeForm, atomForm, cmdForm, cellForm, blockForm, noWait, accessWait, cbWait]
       first
         | exact .inl rfl
         | exact .inr ⟨_, rfl⟩)

/-- What an operation that does not act leaves: at most the held operands of its sources. -/
theorem issueSem_inactive {i : Instr} {h : Head} (hh : i.head? = some h) (p s : State)
    (ha : (guardOf h p.core && !killed h p.core) = false) :
    ∃ u, (issueSem i).op p s = .ok u ∧ Undisturbed s u ∧ (guardOf h p.core = false → u = s) := by
  have gr : ∀ s f, guarded h p s f = .ok s := fun s f => by unfold guarded; rw [ha]; rfl
  have hr : ∀ sl inB hold f t, guardOf h p.core = false → holdRead sl h inB hold f p t = t :=
    fun sl inB hold f t hg => by unfold holdRead; simp [hg]
  rcases issueSem_op_shape i h hh p s with e | ⟨f, e⟩ | ⟨o, sl, f, e⟩ | ⟨hold, srcA, sl, f, e⟩
  · exact ⟨s, e, .refl s, fun _ => rfl⟩
  · exact ⟨s, e.trans (gr s f), .refl s, fun _ => rfl⟩
  · exact ⟨_, e.trans (gr _ f), undisturbed_regHolds .., fun hg => by unfold regHolds; rw [hr _ _ _ _ _ hg, hr _ _ _ _ _ hg]⟩
  · exact ⟨_, e.trans (gr _ f), undisturbed_holdRead .., fun hg => hr _ _ _ _ _ hg⟩

theorem issueSem_wait_inactive {i : Instr} {h : Head} (hh : i.head? = some h) (p : State)
    (ha : (guardOf h p.core && !killed h p.core) = false) : (issueSem i).wait p = .go := by
  rcases issueSem_wait_shape i h hh p with e | ⟨w, e⟩
  · exact e
  · rw [e]; unfold activeWait; rw [ha]; rfl

/-- The shift change that may hold a bundle: for TSWAP only. -/
def arriveOf (i : Instr) : Bundle → State → State → Option State :=
  match i with
  | .tswap .. => shiftChange fun _ => issueSem i
  | _ => fun _ _ _ => none

/-- exec of a slot operation is the turn of the bundle that holds it alone. -/
theorem exec_slot (i : Instr) (h : Head) (hh : i.head? = some h) (s : State) :
    exec i s = issueSingleWith (arriveOf i) i (issueSem i) s := by
  cases i <;> first
    | (simp only [Instr.head?, reduceCtorEq] at hh; done)
    | rfl

end Sys2Proof.Machine
end

