-- ==== Sys2Proof/Laws/Waits.lean ====
section
/-! SUPPORT. What the shared operations on memory that cannot be reached do: a cause raised, a cell a dispatcher writes, a value that returns. -/

namespace Sys2Proof.Machine

/-! ### A cause and its action entry (R330, R369) -/

theorem State.raise_reached {s : State} {i : CauseInfo} (h : s.actLost i.cause = none) (r : Bool) (tbun : Nat) :
    s.raise r i tbun = s.takeFor r i tbun := by simp only [State.raise, h]

theorem State.raise_away {s : State} {i : CauseInfo} {pa : Nat} (h : s.actLost i.cause = some pa) (r : Bool) (tbun : Nat) :
    s.raise r i tbun = s.modTrp fun t => { t with raised := some { info := i, tbun, reported := r, since := s.clk } } := by
  simp only [State.raise, h]

/-- A core whose action table is off, or whose cause has a fixed action, never waits. -/
theorem State.actLost_off {s : State} {c : Nat} (h : fixedAct c = true ∨ bit s.core.trp.acttab.toNat 0 = false) : s.actLost c = none := by
  unfold State.actLost
  rw [if_pos (h.imp id fun h => by simp [h])]

theorem State.awaitAct_reached {s : State} {c : Nat} (h : s.actLost c = none) (k : State → State) :
    s.awaitAct c k = k (s.modUn fun u => { u with lost := [] }) := by simp only [State.awaitAct, h]

/-- A wait ends with `go` or keeps the core as it is but for the note of since when. -/
theorem State.waitFar_cases (s : State) (a : Nat) (peer : Bool) (fail : State → State) :
    s.waitFar a peer fail = fail s ∨ ∃ l : UnitSt → List (Nat × Nat), s.waitFar a peer fail = s.modUn fun u => { u with lost := l u } := by
  unfold State.waitFar
  extract_lets since
  split
  · exact .inl rfl
  · exact .inr ⟨fun u => (a, since) :: u.lost.filter fun x => x.1 ≠ a, rfl⟩

/-! ### A dispatcher at a cell (R369) -/

theorem State.orFar_reached {s : State} {pa : Nat} (h : peerLost s.pkg pa = false) (ref : Nat) (op : FarOp) (now : State → State) :
    s.orFar pa ref op now = now s := by simp only [State.orFar, h, Bool.false_eq_true, if_false]

theorem State.orFar_away {s : State} {pa : Nat} (h : peerLost s.pkg pa = true) (ref : Nat) (op : FarOp) (now : State → State) :
    s.orFar pa ref op now = s.modPkg fun p => { p with farCells := p.farCells ++ [{ pa, ref, op, since := p.clk }] } := by
  simp only [State.orFar, h, if_true]

/-! ### A value that returns (R124, R218, R338) -/

/-- Nothing outside the results in flight, those the assay keeps and those of the trap banks changes. -/
theorem State.returnValue_frame (s : State) (e : QEntry) (v : Double) :
    (s.returnValue e v).pkg = s.pkg ∧ (s.returnValue e v).others = s.others ∧ (s.returnValue e v).core.vec = s.core.vec ∧
      (s.returnValue e v).core.tab = s.core.tab ∧ (s.returnValue e v).core.lsu = s.core.lsu ∧ (s.returnValue e v).core.eng = s.core.eng ∧
      (s.returnValue e v).core.un = s.core.un ∧ (s.returnValue e v).core.sca.g = s.core.sca.g := by
  unfold State.returnValue
  split
  · exact ⟨rfl, rfl, rfl, rfl, rfl, rfl, rfl, rfl⟩
  · dsimp only
    split
    · exact ⟨rfl, rfl, rfl, rfl, rfl, rfl, rfl, rfl⟩
    · exact ⟨rfl, rfl, rfl, rfl, rfl, rfl, rfl, rfl⟩
    · split <;> exact ⟨rfl, rfl, rfl, rfl, rfl, rfl, rfl, rfl⟩

end Sys2Proof.Machine
end

