-- ==== Sys2Proof/Tests/Slice0.lean ====
section
/-! SUPPORT. Tests of the model: words that decode, instructions the scanner refuses, single steps whose results the spec's rules and
examples give, and for every statement a state and operands that meet its hypotheses. -/

set_option Elab.async false

namespace Sys2Proof.Tests

open Sys2Proof Sys2Proof.Machine

/-! ### Decoding: one word of every operation

Each word is written out from the spec's own table of its encoding, or is an example the spec prints; `h0` is an unguarded slot. -/

/-- An unguarded slot. -/
def h0 : Head := { sq := false, greg := 0, gpos := 0, gneg := false }

/-- The operands of the register-form words: DST 3, SRCA 1 with HLDA, SRCB 2. -/
def ro : RegOps := { dst := 3, wbs := false, srcA := 1, srcB := 2, hldA := true, hldB := false }

/-- Whether every word of a list decodes to its operation. -/
def decodesAll (l : List (SlotPos × Nat × Option Nat × Instr)) : Bool := l.all fun x => decodesTo x.1 x.2.1 x.2.2.1 x.2.2.2

/-- R57, R67, R68: the register form, majors 0x01 and 0x02: DST 3, SRCA 1, HLDA 1, SRCB 2. The first word of each carries a guard and SQ. -/
theorem test_decode_integer : decodesAll [
    (.s0, 0x0197F8C08500, none, .addW .s0 { sq := true, greg := 5, gpos := 63, gneg := true } ro),
    (.s1, 0x010000C08501, none, .subW .s1 h0 ro),
    (.s1, 0x010000C08502, none, .mulW .s1 h0 ro),
    (.s1, 0x010000C08503, none, .mulhW .s1 h0 ro),
    (.s1, 0x010000C08504, none, .mulhuW .s1 h0 ro),
    (.s1, 0x010000C08505, none, .divW .s1 h0 ro),
    (.s1, 0x010000C08506, none, .divuW .s1 h0 ro),
    (.s1, 0x010000C08507, none, .remW .s1 h0 ro),
    (.s1, 0x010000C08508, none, .remuW .s1 h0 ro),
    (.s0, 0x0297F8C08500, none, .addD .s0 { sq := true, greg := 5, gpos := 63, gneg := true } ro),
    (.s1, 0x020000C08501, none, .subD .s1 h0 ro),
    (.s1, 0x020000C08502, none, .mulD .s1 h0 ro),
    (.s1, 0x020000C08503, none, .mulhD .s1 h0 ro),
    (.s1, 0x020000C08504, none, .mulhuD .s1 h0 ro),
    (.s1, 0x020000C08505, none, .divD .s1 h0 ro),
    (.s1, 0x020000C08506, none, .divuD .s1 h0 ro),
    (.s1, 0x020000C08507, none, .remD .s1 h0 ro),
    (.s1, 0x020000C08508, none, .remuD .s1 h0 ro)] = true := by decide +kernel

/-- R67, R68, R91: major 0x05. CLZ, CTZ and POPC have no source B. -/
theorem test_decode_logic : decodesAll [
    (.s0, 0x050000C08500, none, .and .s0 h0 ro),
    (.s0, 0x050000C08501, none, .or .s0 h0 ro),
    (.s0, 0x050000C08502, none, .xor .s0 h0 ro),
    (.s0, 0x050000C08503, none, .andn .s0 h0 ro),
    (.s0, 0x050000C08504, none, .shl .s0 h0 ro),
    (.s0, 0x050000C08505, none, .shr .s0 h0 ro),
    (.s0, 0x050000C08506, none, .sar .s0 h0 ro),
    (.s0, 0x050000C08507, none, .rotl .s0 h0 ro),
    (.s0, 0x050000DF0108, none, .clz .s0 h0 { dst := 3, wbs := false, srcA := 62, hldA := true }),
    (.s0, 0x050000DF0109, none, .ctz .s0 h0 { dst := 3, wbs := false, srcA := 62, hldA := true }),
    (.s0, 0x050000DF010A, none, .popc .s0 h0 { dst := 3, wbs := false, srcA := 62, hldA := true }),
    (.s0, 0x050000C0850B, none, .min .s0 h0 ro),
    (.s0, 0x050000C0850C, none, .max .s0 h0 ro),
    (.s0, 0x050000C0850D, none, .minu .s0 h0 ro),
    (.s0, 0x050000C0850E, none, .maxu .s0 h0 ro),
    (.s0, 0x050000C08510, none, .seq .s0 h0 ro),
    (.s0, 0x050000C08511, none, .sne .s0 h0 ro),
    (.s0, 0x050000C08512, none, .slt .s0 h0 ro),
    (.s0, 0x050000C08513, none, .sltu .s0 h0 ro),
    (.s0, 0x050000C08514, none, .sle .s0 h0 ro),
    (.s0, 0x050000C08515, none, .sleu .s0 h0 ro),
    (.s0, 0x050000C08516, none, .sel .s0 h0 ro)] = true := by decide +kernel

/-- R53, R57, R67: NOP, the immediate form (IMM −1; 63 for the shifts), LIMM, R96 and the examples of R98. -/
theorem test_decode_immediates : decodesAll [
    (.s0, 0x000000000000, none, .nop .s0 h0),
    (.s1, 0x0097F8000000, none, .nop .s1 { sq := true, greg := 5, gpos := 63, gneg := true }),
    (.s1, 0x030007D3FFFF, none, .addiW .s1 h0 { dst := 31, wbs := false, srcA := 39, imm := -1 }),
    (.s1, 0x040007D3FFFF, none, .addiD .s1 h0 { dst := 31, wbs := false, srcA := 39, imm := -1 }),
    (.s1, 0x060007D3FFFF, none, .andi .s1 h0 { dst := 31, wbs := false, srcA := 39, imm := -1 }),
    (.s1, 0x070007D3FFFF, none, .ori .s1 h0 { dst := 31, wbs := false, srcA := 39, imm := -1 }),
    (.s1, 0x080007D3FFFF, none, .xori .s1 h0 { dst := 31, wbs := false, srcA := 39, imm := -1 }),
    (.s1, 0x0C0007D3FFFF, none, .movw .s1 h0 { dst := 31, wbs := false, srcA := 39, imm := -1 }),
    (.s0, 0x09000030003F, none, .shli .s0 h0 { dst := 0, wbs := true, srcA := 32, imm := 63 }),
    (.s0, 0x0A000030003F, none, .shri .s0 h0 { dst := 0, wbs := true, srcA := 32, imm := 63 }),
    (.s0, 0x0B000030003F, none, .sari .s0 h0 { dst := 0, wbs := true, srcA := 32, imm := 63 }),
    (.s0, 0x0D000240DEF0, some 0x123456789ABC, .limm h0 { dst := 9, wbs := false, imm := 0x123456789ABCDEF0 }),
    (.s0, 0x0E0001C18F03, none, .bfx .s0 h0 { dst := 7, wbs := false, srcA := 3, pos := 60, wid := 3 }),
    (.s0, 0x0E0001C19F03, none, .bfxu .s0 h0 { dst := 7, wbs := false, srcA := 3, pos := 60, wid := 3 }),
    (.s0, 0x0E0001C1AF03, none, .bfi .s0 h0 { dst := 7, wbs := false, srcA := 3, pos := 60, wid := 3 }),
    (.s1, 0x0E0001C1BFC0, none, .bset .s1 h0 { dst := 7, wbs := false, srcA := 3, pos := 63 }),
    (.s1, 0x0E0001C1CFC0, none, .bclr .s1 h0 { dst := 7, wbs := false, srcA := 3, pos := 63 }),
    (.s1, 0x0E0001C1DFC0, none, .btst .s1 h0 { dst := 7, wbs := false, srcA := 3, pos := 63 }),
    (.s1, 0x0E0001C1E128, none, .addp .s1 h0 { dst := 7, wbs := false, srcA := 3, srcB := 4, sh := 5 })] = true := by decide +kernel

/-- R103, R108, R110, R112: branches and loops; the second LOOP word is the example of R108. -/
theorem test_decode_control : decodesAll [
    (.s0, 0x100000FFFFFE, none, .br h0 (-2)),
    (.s0, 0x110007D00000, none, .brl h0 31 false (-1048576)),
    (.s0, 0x12000002C000, none, .bri h0 5 (-16384)),
    (.s0, 0x1300000F8000, none, .ret h0 31),
    (.s0, 0x1400047FFFFF, none, .loop h0 2 8388607),
    (.s0, 0x140002FFFFFE, none, .loop h0 1 (-2)),
    (.s0, 0x140005030000, none, .loopSet h0 2 6),
    (.s0, 0x150007FFE000, none, .sloop h0 3 31 63 (-8192)),
    (.s0, 0x160004092000, none, .spset h0 0x81 9)] = true := by decide +kernel

/-- R123, R128, R132, R134, R142, R143, R147: the S1 memory operations; the last three words are the examples of R123 and R128. -/
theorem test_decode_memory : decodesAll [
    (.s1, 0x200001C27FFF, none, .ldb h0 { dst := 7, wbs := false, srcA := 4, pi := true, ofs := -1 }),
    (.s1, 0x210001C27FFF, none, .ldbu h0 { dst := 7, wbs := false, srcA := 4, pi := true, ofs := -1 }),
    (.s1, 0x220001C27FFF, none, .ldh h0 { dst := 7, wbs := false, srcA := 4, pi := true, ofs := -1 }),
    (.s1, 0x230001C27FFF, none, .ldhu h0 { dst := 7, wbs := false, srcA := 4, pi := true, ofs := -1 }),
    (.s1, 0x240001C27FFF, none, .ldw h0 { dst := 7, wbs := false, srcA := 4, pi := true, ofs := -1 }),
    (.s1, 0x250001C27FFF, none, .ldwu h0 { dst := 7, wbs := false, srcA := 4, pi := true, ofs := -1 }),
    (.s1, 0x260001C27FFF, none, .ldd h0 { dst := 7, wbs := false, srcA := 4, pi := true, ofs := -1 }),
    (.s1, 0x280004A21FFF, none, .stb h0 { srcB := 37, srcA := 4, pi := false, ofs := 8191 }),
    (.s1, 0x290004A21FFF, none, .sth h0 { srcB := 37, srcA := 4, pi := false, ofs := 8191 }),
    (.s1, 0x2A0004A21FFF, none, .stw h0 { srcB := 37, srcA := 4, pi := false, ofs := 8191 }),
    (.s1, 0x2B0004A21FFF, none, .std h0 { srcB := 37, srcA := 4, pi := false, ofs := 8191 }),
    (.s1, 0x2C0000020A00, none, .rinv h0 4 5),
    (.s1, 0x300001C20BD0, none, .aadd h0 { dst := 7, wbs := false, srcA := 4, srcB := 5, sz := true, ord := 3, scp := 1 }),
    (.s1, 0x310001C20BD0, none, .amin h0 { dst := 7, wbs := false, srcA := 4, srcB := 5, sz := true, ord := 3, scp := 1 }),
    (.s1, 0x320001C20BD0, none, .aminu h0 { dst := 7, wbs := false, srcA := 4, srcB := 5, sz := true, ord := 3, scp := 1 }),
    (.s1, 0x330001C20BD0, none, .amax h0 { dst := 7, wbs := false, srcA := 4, srcB := 5, sz := true, ord := 3, scp := 1 }),
    (.s1, 0x340001C20BD0, none, .amaxu h0 { dst := 7, wbs := false, srcA := 4, srcB := 5, sz := true, ord := 3, scp := 1 }),
    (.s1, 0x350001C20BD0, none, .aand h0 { dst := 7, wbs := false, srcA := 4, srcB := 5, sz := true, ord := 3, scp := 1 }),
    (.s1, 0x360001C20BD0, none, .aor h0 { dst := 7, wbs := false, srcA := 4, srcB := 5, sz := true, ord := 3, scp := 1 }),
    (.s1, 0x370001C20BD0, none, .axor h0 { dst := 7, wbs := false, srcA := 4, srcB := 5, sz := true, ord := 3, scp := 1 }),
    (.s1, 0x380001C20BD0, none, .aswap h0 { dst := 7, wbs := false, srcA := 4, srcB := 5, sz := true, ord := 3, scp := 1 }),
    (.s1, 0x390001C20BD0, none, .acas h0 { dst := 7, wbs := false, srcA := 4, srcB := 5, sz := true, ord := 3, scp := 1 }),
    (.s1, 0x3A0000020000, none, .phase h0 4),
    (.s1, 0x3B0000020000, none, .carve h0 4),
    (.s1, 0x3C0000000070, none, .fence h0 1 3),
    (.s1, 0x3D0000000000, none, .qalign h0),
    (.s1, 0x3E0005020000, none, .tlwait h0 5 4),
    (.s1, 0x3F0001D40000, none, .tlread h0 7 false 5),
    (.s1, 0x24000141C040, none, .ldw h0 { dst := 5, wbs := false, srcA := 3, pi := true, ofs := 64 }),
    (.s1, 0x310001820E20, none, .amin h0 { dst := 6, wbs := false, srcA := 4, srcB := 7, sz := false, ord := 0, scp := 2 })] = true := by decide +kernel

/-- R164, R170, R171, R277, R278, R288, R294, R296, R65: table state, precision counters, tags, dispatch and XEX, with the examples of R278, R288 and R296. -/
theorem test_decode_tables : decodesAll [
    (.s0, 0x400000030000, none, .tswap h0 6),
    (.s1, 0x410001C80000, none, .tstatr .s1 h0 7 false 2),
    (.s0, 0x420007C24080, none, .tdset .s0 h0 31 4 0x81),
    (.s1, 0x440001C20000, none, .pcnt .s1 h0 7 false 4),
    (.s0, 0x450000039000, none, .pwait h0 7 8),
    (.s1, 0x480001418000, none, .tagget h0 5 false 3),
    (.s1, 0x490000020A00, none, .tagset h0 4 5),
    (.s1, 0x4A0001430000, none, .dispatch h0 5 false 6),
    (.s1, 0x4B0001C20000, none, .mlook h0 7 false 4),
    (.x, 0x700007FFE000, none, .xex h0 1023 15),
    (.x, 0x7097F80A0000, none, .xex { sq := true, greg := 5, gpos := 63, gneg := true } 5 0)] = true := by decide +kernel

/-- R304, R310, R317: cells, continuations and tasks, with the examples of R304 and R311. -/
theorem test_decode_tasks : decodesAll [
    (.s1, 0x500000018800, none, .cellmk h0 3 4),
    (.s1, 0x500000018100, none, .cellmkFut h0 3),
    (.s1, 0x510000018800, none, .resolve h0 3 4),
    (.s1, 0x5100000189C0, none, .resolveOn h0 3 4 6),
    (.s1, 0x520001418C00, none, .freg h0 5 false 3 6),
    (.s1, 0x530000018800, none, .spawn h0 3 4),
    (.s0, 0x5400009FFFFD, none, .suspend h0 4 (-3)),
    (.s0, 0x550000018000, none, .finish h0 3),
    (.s1, 0x560001C18000, none, .launch h0 7 false 3),
    (.s1, 0x570001C00000, none, .chunk h0 7 false),
    (.s1, 0x580001C1B000, none, .cntrd h0 7 false 3 3),
    (.s1, 0x59000001A000, none, .cancel h0 3 2),
    (.s1, 0x5A0000018800, none, .specev h0 3 4)] = true := by decide +kernel

/-- R341, R342, R343, R345, R346: traps and system operations; the MFS and MTS words are the examples of R343. -/
theorem test_decode_system : decodesAll [
    (.s0, 0x60000000BEEF, none, .trap h0 0xBEEF),
    (.s0, 0x610000000000, none, .tret h0),
    (.s0, 0x650000000007, none, .dbgbrk h0 7),
    (.s0, 0x620001400108, none, .mfs .s0 h0 5 false 0x021),
    (.s1, 0x630000038110, none, .mts .s1 h0 0x022 7),
    (.s1, 0x640001C80000, none, .time .s1 h0 7 false 1),
    (.s0, 0x660001C00780, none, .perfrd .s0 h0 7 false 15)] = true := by decide +kernel

/-- R225 to R232: the E slot, with the examples of R225 and R230. -/
theorem test_decode_transform : decodesAll [
    (.e, 0x780000A1E278, none, .xpnd h0 { a := 5, gmask := 0x0F, td := 2, blk := 3, bank := 1, slot := 2, w := false }),
    (.e, 0x790000BBFFF0, none, .xpndi h0 { a := 5, gd := 6, td := 31, seg := 63, w := true, bank := 1, slot := 2 }),
    (.e, 0x7A0007FEF000, none, .xpos h0 7 31 6 30),
    (.e, 0x7B0007FEF060, none, .xcvtw h0 { gs := 7, ts := 31, gd := 6, td := 30, fmt := 1, hi := true }),
    (.e, 0xF80001180400, none, .kld h0 1 6 false 64),
    (.e, 0xF9000118E000, none, .kset h0 1 6 0 7),
    (.e, 0xFA0006200000, none, .kmov h0 6 1)] = true := by decide +kernel

/-- R162, R238, R253 to R261, R266, R279: the C slot, with the examples of R238, R253, R261, R266, R279 and R162. -/
theorem test_decode_commands : decodesAll [
    (.c, 0x800000C3A000, none, .cpy h0 6 7 1),
    (.c, 0x810000C3E000, none, .cpyg h0 6 7 3),
    (.c, 0x820000C3E000, none, .cpys h0 6 7 3),
    (.c, 0x830000C3E000, none, .cpyt h0 6 7 3),
    (.c, 0x840000C3E000, none, .cpyx h0 6 7 3),
    (.c, 0x850000C3E000, none, .cpyz h0 6 7 3),
    (.c, 0x870000C3E000, none, .cfill h0 6 7 3),
    (.c, 0x860000C3E208, none, .cpyw h0 6 7 3 2 1),
    (.c, 0x880000DFFE00, none, .strm h0 6 7 true 255),
    (.c, 0x890000DC0000, none, .strmx h0 6 7),
    (.c, 0x8A000104B000, none, .syncw h0 8 9 1 true),
    (.c, 0x8B0000C3D800, none, .hsub h0 6 7 5 true),
    (.c, 0x8C0000005000, none, .hrel h0 5),
    (.c, 0x8D0000920000, none, .cbfill h0 4 1 2),
    (.c, 0x8E0000C3DC00, none, .qpush h0 6 7 2 3 true),
    (.c, 0x900000C3F800, none, .tfill h0 6 7 0xF0),
    (.c, 0x940000C20000, none, .coll h0 6 0 1),
    (.c, 0x950000C00000, none, .pcancel h0 6)] = true := by decide +kernel
/-! ### Well-formedness: an ill-formed term for each check of R72 -/

/-- Whether the scanner refuses each operation, at the condition and the bit named. -/
def refusesAll (l : List (Instr × ScanCond × Nat)) : Bool :=
  l.all fun x => !x.1.wf && decide (firstFail x.1.checks = some { cond := x.2.1, pos := x.2.2 })

theorem test_wf_refuses_1 : refusesAll [
    (.nop .s0 { h0 with gpos := 1 }, .guard, 28), (.nop .s0 { h0 with gneg := true }, .guard, 27),
    (.addD .s0 h0 { dst := 1, wbs := true, srcA := 1, srcB := 2, hldA := false, hldB := false }, .source, 21),
    (.addD .s0 h0 { dst := 1, wbs := false, srcA := 40, srcB := 2, hldA := false, hldB := false }, .source, 15),
    (.addD .s0 h0 { dst := 1, wbs := false, srcA := 1, srcB := 63, hldA := false, hldB := false }, .source, 9),
    (.clz .s0 h0 { dst := 1, wbs := true, srcA := 1, hldA := false }, .source, 21),
    (.clz .s0 h0 { dst := 1, wbs := false, srcA := 61, hldA := false }, .source, 15),
    (.addiD .s0 h0 { dst := 1, wbs := true, srcA := 1, imm := 0 }, .source, 21),
    (.addiD .s0 h0 { dst := 1, wbs := false, srcA := 41, imm := 0 }, .source, 15),
    (.shli .s0 h0 { dst := 1, wbs := false, srcA := 1, imm := 64 }, .limit, 0),
    (.shri .s0 h0 { dst := 1, wbs := false, srcA := 1, imm := 64 }, .limit, 0),
    (.sari .s0 h0 { dst := 1, wbs := false, srcA := 1, imm := 64 }, .limit, 0),
    (.limm h0 { dst := 1, wbs := true, imm := 0 }, .source, 21),
    (.bfx .s0 h0 { dst := 1, wbs := true, srcA := 1, pos := 0, wid := 0 }, .source, 21),
    (.bfx .s0 h0 { dst := 1, wbs := false, srcA := 63, pos := 0, wid := 0 }, .source, 15),
    (.bfi .s0 h0 { dst := 1, wbs := false, srcA := 1, pos := 60, wid := 4 }, .limit, 0),
    (.bset .s0 h0 { dst := 1, wbs := true, srcA := 1, pos := 0 }, .source, 21),
    (.bset .s0 h0 { dst := 1, wbs := false, srcA := 63, pos := 0 }, .source, 15),
    (.addp .s0 h0 { dst := 1, wbs := true, srcA := 1, srcB := 1, sh := 0 }, .source, 21),
    (.addp .s0 h0 { dst := 1, wbs := false, srcA := 63, srcB := 1, sh := 0 }, .source, 15),
    (.addp .s0 h0 { dst := 1, wbs := false, srcA := 1, srcB := 63, sh := 0 }, .source, 6), (.brl h0 1 true 0, .source, 21),
    (.bri h0 40 0, .source, 15), (.ret h0 40, .source, 15), (.loop h0 3 0, .subOp, 25), (.loopSet h0 3 0, .subOp, 25),
    (.loopSet h0 0 40, .source, 15), (.sloop h0 0 0 0 0, .subOp, 20), (.spset h0 0 40, .source, 13),
    (.ldd h0 { dst := 1, wbs := true, srcA := 1, pi := false, ofs := 0 }, .source, 21),
    (.ldd h0 { dst := 1, wbs := false, srcA := 40, pi := false, ofs := 0 }, .source, 15),
    (.ldd h0 { dst := 1, wbs := false, srcA := 0, pi := true, ofs := 0 }, .limit, 14),
    (.ldd h0 { dst := 1, wbs := false, srcA := 32, pi := true, ofs := 0 }, .limit, 14),
    (.std h0 { srcB := 40, srcA := 1, pi := false, ofs := 0 }, .source, 21),
    (.std h0 { srcB := 1, srcA := 40, pi := false, ofs := 0 }, .source, 15),
    (.std h0 { srcB := 1, srcA := 0, pi := true, ofs := 0 }, .limit, 14),
    (.aadd h0 { dst := 1, wbs := true, srcA := 1, srcB := 1, sz := true, ord := 0, scp := 0 }, .source, 21),
    (.aadd h0 { dst := 1, wbs := false, srcA := 40, srcB := 1, sz := true, ord := 0, scp := 0 }, .source, 15),
    (.aadd h0 { dst := 1, wbs := false, srcA := 1, srcB := 40, sz := true, ord := 0, scp := 0 }, .source, 9), (.rinv h0 40 1, .source, 15),
    (.rinv h0 1 40, .source, 9), (.phase h0 40, .source, 15), (.carve h0 40, .source, 15), (.fence h0 0 1, .subOp, 6),
    (.tlwait h0 0 40, .source, 15), (.tlread h0 1 true 0, .source, 21), (.tswap h0 40, .source, 15),
    (.tstatr .s0 h0 1 true 0, .source, 21), (.tstatr .s0 h0 1 false 3, .subOp, 18), (.tdset .s0 h0 0 40 1, .source, 15)] = true := by decide +kernel

theorem test_wf_refuses_2 : refusesAll [
    (.tdset .s0 h0 0 1 0, .subOp, 7), (.pcnt .s0 h0 1 true 1, .source, 21), (.pcnt .s0 h0 1 false 40, .source, 15),
    (.pwait h0 40 1, .source, 15), (.pwait h0 1 40, .source, 9), (.tagget h0 1 true 1, .source, 21), (.tagget h0 1 false 40, .source, 15),
    (.dispatch h0 1 true 1, .source, 21), (.dispatch h0 1 false 40, .source, 15), (.mlook h0 1 true 1, .source, 21),
    (.mlook h0 1 false 40, .source, 15), (.launch h0 1 true 1, .source, 21), (.launch h0 1 false 40, .source, 15),
    (.tagset h0 40 1, .source, 15), (.tagset h0 1 40, .source, 9), (.cellmk h0 40 1, .source, 15), (.cellmk h0 1 40, .source, 9),
    (.resolve h0 40 1, .source, 15), (.resolve h0 1 40, .source, 9), (.spawn h0 40 1, .source, 15), (.spawn h0 1 40, .source, 9),
    (.specev h0 40 1, .source, 15), (.specev h0 1 40, .source, 9), (.cellmkFut h0 40, .source, 15), (.resolveOn h0 40 1 0, .source, 15),
    (.resolveOn h0 1 40 0, .source, 9), (.freg h0 1 true 1 1, .source, 21), (.freg h0 1 false 40 1, .source, 15),
    (.freg h0 1 false 1 40, .source, 9), (.suspend h0 40 0, .source, 21), (.finish h0 40, .source, 15), (.chunk h0 1 true, .source, 21),
    (.cntrd h0 1 true 1 0, .source, 21), (.cntrd h0 1 false 40 0, .source, 15), (.cntrd h0 1 false 1 4, .subOp, 12),
    (.cancel h0 40 0, .source, 15), (.cancel h0 1 4, .subOp, 12), (.mfs .s0 h0 1 true 0, .source, 21),
    (.mfs .s0 h0 1 false 0x003, .limit, 3), (.mfs .s0 h0 1 false 0x007, .limit, 3), (.mfs .s0 h0 1 false 0x026, .limit, 3),
    (.mfs .s0 h0 1 false 0x02E, .limit, 3), (.mfs .s0 h0 1 false 0x034, .limit, 3), (.mts .s0 h0 0 40, .source, 15),
    (.mts .s0 h0 0x007 1, .limit, 3), (.time .s0 h0 1 true 0, .source, 21), (.time .s0 h0 1 false 2, .subOp, 19),
    (.perfrd .s0 h0 1 true 0, .source, 21), (.perfrd .s0 h0 1 false 16, .limit, 7), (.xex h0 0 7, .reservedField, 13)] = true := by decide +kernel

theorem test_wf_refuses_3 : refusesAll [
    (.xpnd h0 { a := 40, gmask := 1, td := 0, blk := 0, bank := 0, slot := 0, w := false }, .source, 21),
    (.xpnd h0 { a := 62, gmask := 1, td := 0, blk := 0, bank := 0, slot := 0, w := false }, .limit, 21),
    (.xpnd h0 { a := 1, gmask := 0, td := 0, blk := 0, bank := 0, slot := 0, w := false }, .subOp, 13),
    (.xpndi h0 { a := 40, gd := 0, td := 0, seg := 0, w := false, bank := 0, slot := 0 }, .source, 21),
    (.xcvtw h0 { gs := 0, ts := 0, gd := 0, td := 0, fmt := 0, hi := false }, .limit, 6), (.kld h0 0 40 false 0, .source, 18),
    (.kset h0 0 40 0 0, .source, 18), (.kset h0 0 1 3 0, .subOp, 16), (.kset h0 0 1 1 1, .subOp, 13), (.cpy h0 40 1 0, .source, 21),
    (.cpy h0 1 40 0, .source, 15), (.cpyg h0 40 1 0, .source, 21), (.cpyg h0 1 40 0, .source, 15), (.cpys h0 40 1 0, .source, 21),
    (.cpys h0 1 40 0, .source, 15), (.cpyt h0 40 1 0, .source, 21), (.cpyt h0 1 40 0, .source, 15), (.cpyx h0 40 1 0, .source, 21),
    (.cpyx h0 1 40 0, .source, 15), (.cpyz h0 40 1 0, .source, 21), (.cpyz h0 1 40 0, .source, 15), (.cfill h0 40 1 0, .source, 21),
    (.cfill h0 1 40 0, .source, 15), (.cpyw h0 40 1 0 4 2, .source, 21), (.cpyw h0 1 40 0 4 2, .source, 15),
    (.cpyw h0 1 1 0 1 2, .limit, 3), (.strm h0 40 0 false 0, .source, 21), (.strmx h0 40 0, .source, 21),
    (.syncw h0 40 1 0 false, .source, 21), (.syncw h0 1 40 0 false, .source, 15), (.hsub h0 40 1 0 false, .source, 21),
    (.hsub h0 1 40 0 false, .source, 15), (.cbfill h0 40 0 1, .source, 21), (.cbfill h0 1 0 0, .subOp, 16),
    (.qpush h0 40 1 0 0 false, .source, 21), (.qpush h0 1 40 0 0 false, .source, 15), (.tfill h0 40 1 1, .source, 21),
    (.tfill h0 1 40 1, .source, 15), (.tfill h0 1 1 0, .subOp, 7), (.coll h0 40 0 0, .source, 21), (.coll h0 1 7 0, .subOp, 18),
    (.pcancel h0 40, .source, 21)] = true := by decide +kernel

/-- R72: what the bits alone break: a reserved bit, an operation in a slot it is not listed for, an unassigned major or minor, LIMM with
LONG 0, and in a bundle a reserved header bit and a nonzero bit in a slot that is not valid; R73: of a must-be-zero field beside another (SFMT of
CPY, DST of RET and BRI) its own lowest bit is named. -/
theorem test_scan_refuses :
    refusedAs .x (0x70 * 2 ^ 40 + 1) none .reservedField 0 = true ∧ refusedAs .s0 (0x26 * 2 ^ 40) none .major 40 = true ∧
      refusedAs .c (0x8F * 2 ^ 40) none .major 40 = true ∧ refusedAs .s1 (0x05 * 2 ^ 40 + 0x0F) none .subOp 0 = true ∧
      refusedAs .s0 (0x0E * 2 ^ 40 + 7 * 2 ^ 12) none .subOp 12 = true ∧ refusedAs .s0 (0x0D * 2 ^ 40) none .header 40 = true ∧
      refusedAs .c (0x800000C3A000 + 2 ^ 9) none .reservedField 8 = true ∧ refusedAs .s0 (0x1300000F8000 + 2 ^ 24) none .reservedField 22 = true ∧
      refusedAs .s0 (0x12000002C000 + 2 ^ 23) none .reservedField 22 = true ∧
      (match decodeBundle (2 ^ 5) with | .error e => e == { cond := .header, pos := 5 } | .ok _ => false) = true ∧
      (match decodeBundle (2 ^ 112) with | .error e => e == { cond := .emptySlot, pos := 112 } | .ok _ => false) = true := by decide +kernel

/-! ### The states the tests start from -/

/-- A job whose tables map one GiB each: code at 0, data at 0x8000_0000, cells at 0xC000_0000. -/
def tabled : Pkg :=
  let p := writeNat Pkg.reset 0x4000_0000 8 (0x4000_1000 + 1)
  let p := writeNat p 0x4000_1000 8 (0x4000_2000 + 1)
  let p := writeNat p 0x4000_2000 8 0x13
  let p := writeNat p 0x4000_2010 8 (0x8000_0000 + 0xF)
  let p := writeNat p 0x4000_2018 8 (0xC000_0000 + 0x8F)
  { p with jobs := [(1, some { xroot := 0x4000_0000, acttab := 0, methctl := 0, ctxpool := 0, stopped := false, areas := [],
                               level := { counter := 1, cancelled := false, complete := false } })] }

/-- A unit runs at 0x1000 on core 0. g1 = −7, g2 = 3, g3 a data address, g4 a cell address, g5 a data address that is not aligned, g6 an address no
table maps, g7 an array offset, g8 = 2, g9 = 0. -/
def base : State :=
  { State.reset with
    core := { Core.reset with
      sca := { Sca.reset with pc := 0x1000, seq := 5,
                              g := [(1, -7), (2, 3), (3, 0x8000_0040), (4, 0xC000_0040), (5, 0x8000_0041), (6, 0x100_0000_0000), (7, 0x100), (8, 2)] }
      lsu := { Lsu.reset with utlb := [0x8000, 0xC000, 0x100_0000] }
      un := { UnitSt.reset with st := .running, code := 0x1000, codeLen := 0x100, job := 1 } }
    pkg := tabled }

/-- Every instruction of a list comes to its turn in a state and acts. -/
def ready (h : Head) (l : List Instr) (s : State) : Bool := l.all fun i => decide (Due i s ∧ Acts h i s)

def opsOf (a b : BitVec 6) : RegOps := { ro with srcA := a, srcB := b }
def immOf (a : BitVec 6) : ImmOps := { dst := 3, wbs := false, srcA := a, imm := 1 }
def oneOf (a : BitVec 6) : RegOps1 := { dst := 3, wbs := false, srcA := a, hldA := true }

/-- Whether a translation succeeds, or fails with `e`. -/
def isOk {α β : Type} (x : Except α β) : Bool := match x with | .ok _ => true | .error _ => false
def isErr {β : Type} (x : Except XErr β) (e : XErr) : Bool := match x with | .error f => f == e | .ok _ => false

/-- The source A of slot S1 that field `f` reads in `base`. -/
def srcOf (f : BitVec 6) : Nat := (base.core.src .s1 false f).toNat

/-- The value of the one result in flight after `i` issues alone, where it is a register result. -/
def landedBy (i : Instr) (s : State) : Option Double :=
  match exec i s with
  | .next t => (match (t.coreAt s.no).sca.inflight with
    | [x] => (match x.eff with | .reg _ _ _ v => some v | _ => none)
    | _ => none)
  | _ => none

/-- `base` with other values in g1 and g2. -/
def withG (a b : Double) : State := base.modSca fun c => { c with g := [(1, a), (2, b)] }

/-! ### Witnesses: translation -/

/-- A walk of two pointers to the leaf of the data page; an entry that is not valid, one that is malformed and one that fails ECC at level 0. -/
theorem test_witness_Translation :
    (let p := base.pkg
     (badData p 0x4000_0000 8, readNat p 0x4000_0000 8) = (false, 0x4000_1001) ∧ (badData p 0x4000_1000 8, readNat p 0x4000_1000 8) = (false, 0x4000_2001) ∧
       (badData p (0x4000_2000 + 8 * 2) 8, readNat p (0x4000_2000 + 8 * 2) 8) = (false, 0x8000_000F) ∧ 0x8000_000F % 4 = 3 ∧ 0x8000_000F / 2 ^ 52 = 0 ∧
       0x8000_000F / 2 ^ 5 % 2 ^ 2 = 0 ∧ 0x8000_000F / 2 ^ 12 % 2 ^ (30 - 12) = 0 ∧ 0x4000_1001 % 4 = 1 ∧ 0x4000_2001 % 4 = 1 ∧
       0x4000_1001 / 2 ^ 12 % 2 ^ 40 * 2 ^ 12 = 0x4000_1000 ∧ 0x4000_2001 / 2 ^ 12 % 2 ^ 40 * 2 ^ 12 = 0x4000_2000) ∧
    readNat base.pkg (0x4000_0000 + 8 * 255) 8 % 2 = 0 ∧ readNat (writeNat base.pkg 0x4000_0000 8 (2 ^ 52 + 1)) 0x4000_0000 8 / 2 ^ 52 ≠ 0 ∧
    badData { base.pkg with env := { base.pkg.env with badLines := [0x4000_0000 / 32] } } 0x4000_0000 8 = true ∧
    (0xFF_FFFF_FFF0_0000 : Nat) % 2 ^ 56 = 0xFF_FFFF_FFF0_0000 ∧
    isOk (translate base base.root .load 8 0x8000_0000) = true ∧ isErr (translate base base.root .load 8 0x100_0000_0000) (.xlate 0) = true := by decide +kernel
/-! ### Witnesses: the hypotheses of the statements about scalar, control and memory operations

`ready` says that each operation named comes to its turn and acts; the other conjuncts are the premises of the statement's clauses. -/

def bfo (p w : BitVec 6) : BfOps := { dst := 7, wbs := false, srcA := 1, pos := p, wid := w }
def bito (p : BitVec 6) : BitOps := { dst := 7, wbs := false, srcA := 1, pos := p }
def addpo : AddpOps := { dst := 7, wbs := false, srcA := 3, srcB := 2, sh := 7 }
def limmo : LimmOps := { dst := 9, wbs := false, imm := 0x123456789ABCDEF0 }

/-- A guarded slot: bit 0 of g2 is 1, so the guard is true, and false where it is negated. -/
def hT : Head := { sq := true, greg := 2, gpos := 0, gneg := false }
def hF : Head := { hT with gneg := true }

theorem test_witness_IntegerArithmeticResult :
    ready h0 [.addW .s0 h0 ro, .addD .s1 h0 ro, .subW .s0 h0 ro, .subD .s1 h0 ro, .mulW .s0 h0 ro, .mulD .s1 h0 ro, .mulhW .s0 h0 ro,
      .mulhD .s1 h0 ro, .mulhuW .s0 h0 ro, .mulhuD .s1 h0 ro] base = true ∧ ready hT [.addW .s1 hT ro] base = true := by decide +kernel

/-- A divisor that is not zero, and for the .W form one that is zero in its low half only. -/
theorem test_witness_DivisionResultOrTrap :
    ready h0 [.divW .s0 h0 ro, .divD .s1 h0 ro, .divuW .s0 h0 ro, .divuD .s1 h0 ro, .remW .s0 h0 ro, .remD .s1 h0 ro, .remuW .s0 h0 ro,
      .remuD .s1 h0 ro] base = true ∧ (base.core.src .s0 true 2).toNat % 2 ^ 32 ≠ 0 ∧ (base.core.src .s0 true 2).toNat % 2 ^ 64 ≠ 0 ∧
    ready h0 [.divW .s0 h0 ro, .remuD .s1 h0 ro] (withG 5 0) = true ∧ ((withG 5 0).core.src .s0 true 2).toNat % 2 ^ 64 = 0 ∧
    ready h0 [.divW .s0 h0 ro] (withG 5 (2 ^ 32)) = true ∧ ((withG 5 (2 ^ 32)).core.src .s0 true 2).toNat % 2 ^ 32 = 0 ∧
    ((withG 5 (2 ^ 32)).core.src .s0 true 2).toNat % 2 ^ 64 ≠ 0 ∧ Due (.divW .s0 { hF with gneg := false } ro) (withG 5 0) ∧
    guardOf { hF with gneg := false } (atIssue (.divW .s0 { hF with gneg := false } ro) (withG 5 0)).core = false := by decide +kernel

theorem test_witness_LogicShiftCompareResult :
    ready h0 [.and .s0 h0 ro, .or .s0 h0 ro, .xor .s0 h0 ro, .andn .s0 h0 ro, .shl .s0 h0 ro, .shr .s0 h0 ro, .sar .s0 h0 ro, .rotl .s0 h0 ro,
      .min .s0 h0 ro, .max .s0 h0 ro, .minu .s0 h0 ro, .maxu .s0 h0 ro, .seq .s0 h0 ro, .sne .s0 h0 ro, .slt .s0 h0 ro, .sltu .s0 h0 ro,
      .sle .s0 h0 ro, .sleu .s0 h0 ro, .sel .s0 h0 ro] base = true := by decide +kernel

theorem test_witness_BitFieldResult_count : ready h0 [.clz .s0 h0 (oneOf 1), .ctz .s1 h0 (oneOf 9), .popc .s0 h0 (oneOf 1)] base = true := by decide +kernel

theorem test_witness_ImmediateResult :
    ready h0 [.addiW .s0 h0 (immOf 1), .addiD .s0 h0 (immOf 1), .andi .s0 h0 (immOf 1), .ori .s0 h0 (immOf 1), .xori .s0 h0 (immOf 1),
      .shli .s0 h0 (immOf 1), .shri .s0 h0 (immOf 1), .sari .s0 h0 (immOf 1), .movw .s0 h0 (immOf 0)] base = true := by decide +kernel

/-- The widest field, and one that ends at bit 63. -/
theorem test_witness_BitFieldResult :
    ready h0 [.bfx .s0 h0 (bfo 0 63), .bfxu .s0 h0 (bfo 60 3), .bfi .s0 h0 (bfo 63 0), .bset .s0 h0 (bito 63), .bclr .s0 h0 (bito 0),
      .btst .s0 h0 (bito 63), .addp .s1 h0 addpo] base = true ∧ (60 : Nat) + 3 + 1 ≤ 64 := by decide +kernel

theorem test_witness_ImmediateResult_limm :
    ready h0 [.limm h0 limmo] base = true ∧ Due (.nop .s0 h0) base ∧ Due (.nop .s1 hF) base := by decide +kernel

theorem test_witness_LatchShiftAndFetchAdvance :
    ingressStall (Bundle.single (.nop .s0 h0)) base = false ∧ base.core.sca.late = [] ∧ base.core.sca.tretNow = false ∧
      base.core.un.st = .running := by decide +kernel

theorem test_witness_BranchTaken :
    ready h0 [.br h0 (-2), .brl h0 31 false 5, .bri h0 3 (-16384), .ret h0 3] base = true := by decide +kernel

/-- `base` with counts 2 and 1 in lc0 and lc1, a value in iq0 and a token in iq1. -/
def looping : State :=
  (base.modSca fun c => { c with lc := [(0, 0x0000_0007_0000_0002), (1, 0x0000_0007_0000_0001)] }).modEng fun e =>
    { e with iq := [(0, [.value 9]), (1, [.eos, .value 3])] }

theorem test_witness_LoopsAndPredicates :
    ready h0 [.loop h0 0 (-2), .loop h0 1 (-2), .loop h0 2 (-2), .loopSet h0 2 2, .spset h0 0x81 2] looping = true := by decide +kernel

theorem test_witness_LoopsAndPredicates_end :
    (atIssue (.spset h0 0x81 2) looping).core.sca.late = [] ∧ (atIssue (.spset h0 0x81 2) looping).core.sca.tretNow = false := by decide +kernel

theorem test_witness_LoopsAndPredicates_sloop :
    ready h0 [.sloop h0 0 1 63 5, .sloop h0 1 1 63 5, .sloop h0 2 1 63 5] looping = true ∧
      fget [] (atIssue (.sloop h0 0 1 63 5) looping).core.eng.iq 0 = [.value 9] ∧
      fget [] (atIssue (.sloop h0 1 1 63 5) looping).core.eng.iq 1 = [.eos, .value 3] ∧
      fget [] (atIssue (.sloop h0 2 1 63 5) looping).core.eng.iq 2 = [] := by decide +kernel

def ldo (a : BitVec 6) : LoadOps := { dst := 7, wbs := false, srcA := a, pi := false, ofs := 0 }
def sto (a : BitVec 6) : StoreOps := { srcB := 2, srcA := a, pi := false, ofs := 0 }
def ato (a : BitVec 6) (sz : Bool) : AtomOps := { dst := 7, wbs := false, srcA := a, srcB := 2, sz, ord := 3, scp := 3 }

/-- A data page, a misaligned address, an address nothing maps, a page the micro-TLB lacks. -/
theorem test_witness_LoadIssue :
    ready h0 [.ldb h0 (ldo 5), .ldbu h0 (ldo 5), .ldh h0 (ldo 3), .ldhu h0 (ldo 3), .ldw h0 (ldo 3), .ldwu h0 (ldo 3), .ldd h0 (ldo 3), .ldd h0 (ldo 5),
      .ldd h0 (ldo 6), .ldd h0 (ldo 4)] base = true ∧
    (let p := atIssue (.ldd h0 (ldo 3)) base
     srcOf 3 % 8 = 0 ∧ tlbWait (srcOf 3) p = .go ∧ qCount (atWait (.ldd h0 (ldo 3)) base).core.lsu.loadQ < 64 ∧ isOk (translate p p.root .load 8 (srcOf 3)) = true ∧
       srcOf 5 % 8 ≠ 0 ∧ srcOf 6 % 8 = 0 ∧ tlbWait (srcOf 6) p = .go ∧ isErr (translate p p.root .load 8 (srcOf 6)) (.xlate 0) = true ∧
       isOk (translate p p.root .load 8 (srcOf 4)) = true ∧
       tlbWait (srcOf 3) (p.modLsu fun l => { l with utlb := [] }) ≠ .go) := by decide +kernel

theorem test_witness_StoreIssue :
    ready h0 [.stb h0 (sto 5), .sth h0 (sto 3), .stw h0 (sto 3), .std h0 (sto 3), .std h0 (sto 5), .std h0 (sto 6)] base = true ∧
    (let p := atIssue (.std h0 (sto 3)) base
     qCount (atWait (.std h0 (sto 3)) base).core.lsu.storeQ < 64 ∧ isOk (translate p p.root .store 8 (srcOf 3)) = true ∧
       isErr (translate p p.root .store 8 (srcOf 6)) (.xlate 0) = true ∧ isErr (translate p p.root .store 8 (srcOf 4)) (.xlate 9) = false) := by
  decide +kernel

theorem test_witness_AtomicIssue :
    ready h0 [.aadd h0 (ato 3 true), .amin h0 (ato 3 true), .aminu h0 (ato 3 false), .amax h0 (ato 3 true), .amaxu h0 (ato 3 false),
      .aand h0 (ato 3 true), .aor h0 (ato 3 true), .axor h0 (ato 3 true), .aswap h0 (ato 3 true), .acas h0 (ato 3 true), .acas h0 (ato 5 false),
      .acas h0 (ato 6 false)] base = true ∧
    (let p := atIssue (.aadd h0 (ato 3 true)) base
     srcOf 5 % 4 ≠ 0 ∧ qCount (atWait (.aadd h0 (ato 3 true)) base).core.lsu.storeQ < 64 ∧ isOk (translate p p.root .atomic 8 (srcOf 3)) = true ∧ isErr (translate p p.root .atomic 4 (srcOf 6)) (.xlate 0) = true) := by
  decide +kernel

theorem test_witness_QueueInstructionIssue :
    ready h0 [.rinv h0 3 2, .fence h0 1 3, .fence h0 2 0, .fence h0 3 2, .qalign h0, .tlread h0 7 false 7, .pcnt .s0 h0 7 false 7, .pcnt .s1 h0 7 false 1,
      .tagget h0 7 false 3, .tagget h0 7 false 6, .tagset h0 3 2, .tagset h0 6 2] base = true ∧
    (let p := atIssue (.rinv h0 3 2) base
     qCount (atWait (.rinv h0 3 2) base).core.lsu.loadQ < 64 ∧ qCount (atWait (.tagset h0 3 2) base).core.lsu.storeQ < 64 ∧ isOk (translate p p.root .load 1 (srcOf 3)) = true ∧
       isErr (translate p p.root .load 1 (srcOf 6)) (.xlate 0) = true ∧ isOk (translate p p.root .store 1 (srcOf 3)) = true) := by decide +kernel

/-- An access in progress, number 9. -/
def qe (op : QOp) : QEntry :=
  { id := 9, op, res := true, chain := .s1, wbs := false, dst := 7, sq := false, tbun := 0x1000, slot := 1, dead := false, far := false, bank := none, since := 0 }

/-- `base` with one access in progress. -/
def accessing (op : QOp) : State := base.modLsu fun l => { l with outst := [qe op] }

/-- The premises that the statements about an access performed share. -/
def performs (op : QOp) (va pa n : Nat) : Bool :=
  let s := accessing op
  !stopped s && decide (s.core.lsu.outst.find? (fun x => x.id == 9) = some (qe op)) && mayPerform (qe op) s.core.lsu.outst && !peerLost s.pkg pa &&
    !s.outside va pa && !badData s.pkg pa n && !badTag s.pkg pa && (match regionOf pa with | .device _ => false | _ => true)

theorem test_witness_AccessPerformed :
    performs (.store 0x8000_0040 0x8000_0040 8 3 false) 0x8000_0040 0x8000_0040 8 = true ∧
    ((List.range 10).all fun k => performs (.atomic (BitVec.ofNat 4 k) 0x8000_0040 0x8000_0040 (k % 2 = 0) 3 0 0 0) 0x8000_0040 0x8000_0040 8) = true ∧
    performs (.load 0x8000_0040 0x8000_0040 8 true false false true) 0x8000_0040 0x8000_0040 8 = true ∧
    performs (.tagget 0x8000_0040 0x8000_0040) 0x8000_0040 0x8000_0040 1 = true ∧
    performs (.tagset 0x8000_0040 0x8000_0040 5) 0x8000_0040 0x8000_0040 1 = true := by decide +kernel

/-! ### Witnesses: waits, the carve-out and the shift change -/

theorem test_witness_TimelineAndPrecisionWait :
    ready h0 [.tlwait h0 0 9, .tlwait h0 7 2, .pwait h0 7 9, .pwait h0 7 2, .pwait h0 1 2] base = true := by decide +kernel

/-- `base` with the carve-out moving between two sizes, the move due. -/
def moving (a b : Nat) : State := base.modLsu fun l => { l with size := b, move := some { fromCode := a, toCode := b, fin := 0 } }

/-- `base` in adaptive mode, its interval over. -/
def adapting : State :=
  { base with core := { base.core with lsu := { base.core.lsu with adapt := true, maxc := 4 } }, pkg := { base.pkg with clk := 65536 } }

theorem test_witness_CarveOutControl :
    ready h0 [.phase h0 2, .carve h0 2] base = true ∧ base.core.lsu.move = none ∧ base.core.lsu.size ≠ 4 ∧
      stopped (moving 4 0) = false ∧ (moving 4 0).core.lsu.move = some { fromCode := 4, toCode := 0, fin := 0 } ∧ (moving 4 0).core.lsu.moveNext = none ∧
      (0 : Nat) ≤ (moving 4 0).clk ∧ stopped adapting = false ∧ adapting.core.lsu.adapt = true ∧ adapting.core.lsu.move = none ∧
      adapting.core.lsu.adaptFrom + 65536 ≤ adapting.clk ∧
      ((moving 4 0).moveTo 2).core.lsu.move = some { fromCode := 4, toCode := 0, fin := 0 } ∧
      ((moving 4 0).moveTo 2).core.lsu.moveNext = some 2 := by decide +kernel

theorem test_witness_SpecialRegistersAndStatus_table :
    ready h0 [.tstatr .s0 h0 7 false 0, .tstatr .s0 h0 7 false 1, .tstatr .s0 h0 7 false 2, .tdset .s0 h0 31 2 0x81] base = true := by decide +kernel

/-- `base` with its shadow side EMPTY (as it is), INVALID or VALID, and a wait at a set. -/
def shadow (ever bad : Bool) (w : Option SwWait) : State := base.modTab fun t => { t with ever, bad, wait := w }
def waitOf (granted released withdrawn : Bool) : SwWait := { word := 1, since := 0, granted, grantAt := 0, released, withdrawn }
/-- A set of one member, which has arrived. -/
def oneSet : State := (shadow true false (some (waitOf false false false))).modSets (arriveSet 0 1 (2 ^ 16))

theorem test_witness_ShiftChange :
    ready h0 [.tswap h0 2] (shadow false false none) = true ∧ (shadow false false none).core.shst = 0 ∧
    ready h0 [.tswap h0 2] (shadow true true none) = true ∧ (shadow true true none).core.shst = 3 ∧
    ready h0 [.tswap h0 2] (shadow true false none) = true ∧ (shadow true false none).core.shst = 2 ∧
    Due (.tswap h0 2) (shadow true false (some (waitOf true true false))) ∧
    Due (.tswap h0 2) (shadow true false (some (waitOf false false true))) ∧
    Due (.tswap h0 2) (shadow true false (some (waitOf true false false))) ∧
    stopped (shadow true false (some (waitOf true false false))) = false ∧
    (shadow true false (some (waitOf true false false))).core.tab.wait = some (waitOf true false false) ∧
    (waitOf false false false).since + 2 ^ 24 ≤ (shadow true false (some (waitOf false false false)) |>.modPkg fun p => { p with clk := 2 ^ 24 }).clk := by
  decide +kernel

theorem test_witness_ShiftChange_set :
    stopped oneSet = false ∧ (oneSet.pkg.sets.map fun x => decide (x.n ≤ x.members.length) && x.members.all fun m => (oneSet.coreAt m).shst == 2) = [true] := by
  decide +kernel

/-! ### Witnesses: cells, tasks, traps -/

/-- A cell address that is aligned (g4) and one that is not (g5); a record address (g3), a misaligned one (g5). -/
theorem test_witness_CellOperationIssue :
    ready h0 [.cellmk h0 4 3, .cellmkFut h0 4, .resolve h0 4 3, .resolveOn h0 4 3 7, .specev h0 4 3, .freg h0 7 false 4 3, .cellmk h0 5 3, .freg h0 7 false 4 5,
      .cellmk h0 3 3] base = true ∧
    (let p := atIssue (.cellmk h0 4 3) base
     srcOf 4 % 64 = 0 ∧ srcOf 3 % 64 = 0 ∧ srcOf 5 % 64 ≠ 0 ∧ tlbWait (srcOf 4) p = .go ∧ tlbWait (srcOf 3) p = .go ∧ qCount p.core.lsu.storeQ < 64 ∧
       isOk (translate p p.root .cellOp 8 (srcOf 4)) = true ∧ isOk (translate p p.root .cellRd 8 (srcOf 4)) = true ∧
       isErr (translate p p.root .cellOp 8 (srcOf 3)) (.xlate 9) = true) := by decide +kernel

theorem test_witness_TaskInstructionIssue :
    ready h0 [.spawn h0 3 2, .spawn h0 5 2, .launch h0 7 false 3, .launch h0 7 false 5, .chunk h0 7 false, .cntrd h0 7 false 2 3, .mlook h0 7 false 2,
      .cancel h0 2 3, .dispatch h0 7 false 7, .dispatch h0 7 false 2, .dispatch h0 7 false 9] base = true ∧
    srcOf 3 % 64 = 0 ∧ srcOf 5 % 64 ≠ 0 ∧ qCount base.core.lsu.storeQ < 64 ∧ qCount base.core.lsu.loadQ < 64 := by decide +kernel

theorem test_witness_TaskInstructionIssue_leave :
    ready h0 [.suspend h0 3 (-3), .finish h0 2] base = true ∧ base.core.sca.late = [] ∧ base.core.sca.tretNow = false := by decide +kernel

/-- `base` at trap level `l`, with a record in its bank. -/
def bankOne : TrapBank :=
  { TrapBank.reset with
    tepc := 0x1020
    xrem := 3
    recs := [{ due := 4, ord := 1, iss := 1, sq := false, tbun := 0x1000, eff := .reg .s0 false 3 9 }] }
def trapped' (l : Nat) : State := base.modTrp fun t => { t with level := l, bank1 := bankOne }

/-- `base` with landing records that wait for the next bundle: the bank's, and one whose remainder is 0. -/
def reentering : State := base.modTrp fun t => { t with reentry := some { recs := bankOne.recs, rem := 3, start := 0 } }
def landingAt0 : State :=
  base.modTrp fun t => { t with reentry := some { recs := [{ due := 0, ord := 1, iss := 1, sq := false, tbun := 0x1000, eff := .reg .s0 false 3 9 }], rem := 0, start := 0 } }

theorem test_witness_TrapInstructionsAndReturn :
    ready h0 [.trap h0 0xBEEF, .dbgbrk h0 7, .tret h0] base = true ∧ base.core.trp.level = 0 ∧
      ready h0 [.tret h0] (trapped' 1) = true ∧ (trapped' 1).core.trp.level = 0 + 1 ∧ ready h0 [.tret h0] (trapped' 2) = true ∧
      reentering.core.trp.reentry = some { recs := bankOne.recs, rem := 3, start := 0 } ∧ bankOne.recs.all (fun x => x.due != 0) = true ∧
      landingAt0.core.trp.reentry = some { recs := [{ due := 0, ord := 1, iss := 1, sq := false, tbun := 0x1000, eff := .reg .s0 false 3 9 }], rem := 0, start := 0 } ∧
      (trapped' 2).core.trp.level = 1 + 1 ∧ (trapped' 2).core.sca.late = [] ∧ (trapped' 2).core.trp.resumeLeave = none := by decide +kernel

theorem test_witness_TrapEntry :
    base.core.trp.level < 2 ∧ (trapped' 1).core.trp.level < 2 ∧ base.pkg.env.mismatch = [] ∧ base.pkg.env.mchkFail = [] := by decide +kernel

/-- `base` with an action table of one entry, for cause 1: `w`. -/
def acting (w l : Nat) : State :=
  let s := (trapped' l).modTrp fun t => { t with acttab := 0x8000_0201 }
  (s.modPkg fun p => writeNat p 0x8000_0208 8 w).modTrp fun t => { t with level := l }

/-- The default actions, and an entry of each kind: replay twice, park, forward to 0x2000. -/
theorem test_witness_PreciseCauseAction :
    (base.actFor 1).now 0 = .kill ∧ base.core.trp.acttab.getLsbD 0 = false ∧ (base.actFor 3).now 0 = .park ∧
      ((acting (2 * 2 ^ 60 + 1) 0).actFor 1).now 1 = .replay ∧ ((acting 2 0).actFor 1).now 0 = .park ∧
      ((acting (0x2000 + 3) 0).actFor 1).now 0 = .forward ∧ (acting (0x2000 + 3) 0).core.trp.level < 2 ∧
      ((acting (0x2000 + 3) 2).actFor 1).now 0 = .forward ∧ 2 ≤ (acting (0x2000 + 3) 2).core.trp.level ∧
      isOk (translate (acting 2 0) (acting 2 0).root .load 8 0x8000_0208) = true ∧ peerLost (acting 2 0).pkg 0x8000_0208 = false ∧
      badData (acting 2 0).pkg 0x8000_0208 8 = false ∧
      (((acting 2 0).modTrp fun t => { t with acttab := 0x100_0000_0001 }).actFor 1).now 0 = .kill ∧ ((acting (4 + 2) 0).actFor 1).now 0 = .kill := by decide +kernel

theorem test_witness_SpecialRegistersAndStatus :
    ready h0 [.mfs .s0 h0 7 false 0, .mfs .s1 h0 7 false 0x01C, .mfs .s1 h0 7 false 0x01F, .mfs .s0 h0 7 false 0x01D, .mts .s0 h0 0x022 3, .time .s0 h0 7 false 0,
      .time .s1 h0 7 false 1, .perfrd .s0 h0 7 false 15] looping = true ∧
      fget [] (atIssue (.mfs .s1 h0 7 false 0x01C) looping).core.eng.iq 0 = [.value 9] ∧
      fget [] (atIssue (.mfs .s1 h0 7 false 0x01D) looping).core.eng.iq 1 = [.eos, .value 3] ∧ looping.core.sca.late = [] := by decide +kernel

/-! ### Witnesses: table entries, transforms, commands -/

/-- `base` with `pset p0, 0x1_0000, 2048` at index 3 of group 0 (the example of R173, class X1), and XNEXT at `x`. -/
def tableSt (word x : Nat) : State :=
  base.modTab fun t => { t with ents := [(3, BitVec.ofNat 64 word)], cls := [(3, 1)], xnext := x }

theorem test_witness_XexIssue :
    ready h0 [.xex h0 3 0, .xex h0 4 0, .xex h0 3 8] (tableSt 0x0110_0020_0000_0800 0) = true ∧
    (let s := tableSt 0x0110_0020_0000_0800 0
     let p := atIssue (.xex h0 3 0) s
     p.core.classOf p.core.tab.act 3 ≠ .nop ∧ p.core.classOf p.core.tab.act 4 = .nop ∧ p.core.sca.spst.getLsbD 0 = false ∧ p.core.tab.xnext ≤ p.clk ∧
       stepFault 3 p (stepPlans 3 p p.core) = none ∧ queuesReady p (stepPlans 3 p p.core) = true ∧ stepMemue p (stepPlans 3 p p.core) = none) ∧
    ready h0 [.xex h0 3 0] (tableSt 0x0110_0020_0000_0800 5) = true ∧
    (atIssue (.xex h0 3 0) (tableSt 0x0110_0020_0000_0800 5)).clk < (atIssue (.xex h0 3 0) (tableSt 0x0110_0020_0000_0800 5)).core.tab.xnext := by decide +kernel

/-- `base` with codebook bank 0 VALID, bank 1 failed. -/
def booked : State := base.modVec fun v => { v with cbEver := 3, cbMark := 2, kregs := [(1, 77)] }
/-- A codebook fill issued and not yet done: bank 1 is FILLING. -/
def filling : State := booked.issueCmd 7 (.cbfill 0 1 1) 0x8D
def xpo (bank : BitVec 1) : XpndOps := { a := 7, gmask := 0x81, td := 31, blk := 7, bank, slot := 3, w := true }
def xpio (bank : BitVec 1) : XpndiOps := { a := 7, gd := 6, td := 31, seg := 63, w := true, bank, slot := 3 }

theorem test_witness_CodebookAndScale :
    ready h0 [.xpnd h0 (xpo 0), .xpnd h0 (xpo 1), .xpndi h0 (xpio 0), .xpndi h0 (xpio 1), .kld h0 7 7 false 32, .kld h0 7 7 true (-4), .kset h0 7 2 0 7,
      .kset h0 7 2 1 0, .kset h0 7 2 2 0, .kmov h0 6 1] booked = true ∧
    (atIssue (.xpnd h0 (xpo 0)) booked).core.cbState 0 = 2 ∧ (atIssue (.xpnd h0 (xpo 1)) booked).core.cbState 1 = 3 ∧
    ready h0 [.xpnd h0 (xpo 1), .xpndi h0 (xpio 1)] filling = true ∧ (atIssue (.xpnd h0 (xpo 1)) filling).core.cbState 1 = 1 ∧
    base.core.cbState 0 = 0 ∧ 0x100 % 16 = 0 ∧ 0x100 + 64 ≤ 0x30_0000 ∧ (0x100 + 64 - 1) / 65536 < booked.core.lsu.carveBank ∧
    badData booked.pkg (arrayBase booked.no + 0x100) 64 = false ∧ 0x120 % 32 = 0 ∧ 0x0FC % 4 = 0 := by decide +kernel

/-- `base` with an FP32 tile of 4 by 4 in t1 of group 0. -/
def tiled (d : Nat) : State := base.modVec fun v => { v with descs := [(1, BitVec.ofNat 32 d)] }

theorem test_witness_TransposeAndWiden :
    ready h0 [.xpos h0 0 1 7 31] (tiled (mkDesc 1 0 0 0 4 4)) = true ∧
    (let d := (atIssue (.xpos h0 0 1 7 31) (tiled (mkDesc 1 0 0 0 4 4))).core.descOf 0 1
     lowest (xformReasons d (plainFmt (dFmt d)) false) = none) ∧
    ready h0 [.xpos h0 0 2 7 31] (tiled 0) = true ∧
    (let d := (atIssue (.xpos h0 0 2 7 31) (tiled 0xF800_0000)).core.descOf 0 1
     lowest (xformReasons d (plainFmt (dFmt d)) false) ≠ none) ∧
    (let o : XcvtwOps := { gs := 0, ts := 1, gd := 7, td := 31, fmt := 1, hi := true }
     let s := tiled (mkDesc 2 0 0 0 4 256)
     ready h0 [.xcvtw h0 o] s = true ∧
     (let d := (atIssue (.xcvtw h0 o) s).core.descOf 0 1
      lowest (xformReasons d (xcvtPair (dFmt d) 1) (!unpadded d || longDim d % 2 != 0)) = none)) ∧
    (let d := (atIssue (.xcvtw h0 { gs := 0, ts := 1, gd := 7, td := 31, fmt := 1, hi := true }) (tiled (mkDesc 8 0 0 0 4 64))).core.descOf 0 1
     lowest (xformReasons d (xcvtPair (dFmt d) 1) (!unpadded d || longDim d % 2 != 0)) ≠ none) := by decide +kernel

/-- One command of each kind; and a store queue that is full. -/
theorem test_witness_CommandIssue :
    ready h0 [.cpy h0 7 3 3, .cpyg h0 7 3 0, .cpys h0 7 3 0, .cpyt h0 7 3 0, .cpyx h0 7 3 0, .cpyz h0 7 3 0, .cpyw h0 7 3 0 4 2, .cfill h0 7 3 0,
      .strm h0 7 7 true 255, .strmx h0 7 0, .syncw h0 7 3 1 true, .hsub h0 7 3 7 true, .hrel h0 7, .cbfill h0 3 1 8, .qpush h0 7 3 2 3 true,
      .tfill h0 3 7 0x81, .coll h0 7 6 1, .pcancel h0 7] base = true ∧ qCount base.core.lsu.storeQ < 64 ∧
    (let s := base.modLsu fun l => { l with storeQ := List.replicate 64 (QEntry.plain 1 (.relTok 0) false 0 1 false) }
     qCount s.core.lsu.storeQ = 0) ∧
    (let s := base.modLsu fun l => { l with storeQ := List.replicate 64 { qe (.store 0 0 1 0 false) with res := false } }
     ready h0 [.cpy h0 7 3 3] s = true ∧ 64 ≤ qCount s.core.lsu.storeQ) := by decide +kernel

/-! ### Witnesses: events of a core -/

def pend (e : Effect) : Pending := { due := 0, ord := 1, iss := 1, sq := false, tbun := 0x1000, eff := e }
/-- `base` with one result in flight, due. -/
def flying (e : Effect) : State := base.modSca fun c => { c with inflight := [pend e] }

/-- Registers 0 and 31 and a write-back suppressed; the last of every other kind; a step inside one row and over the whole element. -/
theorem test_witness_ResultLands :
    ([.reg .s0 false 31 5, .reg .s1 true 7 5, .reg .s0 false 0 5, .base 31 5, .base 0 5, .lcSet 3 7, .held .s1 true 5, .tile 7 31 1,
      .tileSeg 7 31 2016 32 5 1, .tileMask 7 31 0xFF 3, .desc 7 31 0xF 3, .side 7 31 1, .ptr 7 7 1, .stride 7 7 1, .psnap 7 1, .kreg 7 1, .kword 7 7 1,
      .asstat 7 (some true), .asstat 7 (some false), .array 7 0x100 [1, 2], .tag 7 0x100 7, .full 0x100 2, .azero 7 3,
      .stepI 7 3 true 32 32 [1] 1023 false, .stepI 0 0 false 1 2 [5, -5] 0 false, .stepF 7 3 true 32 32 [.fin true 1] 1023 false,
      .stepI 0 0 false 1 2 [5, -5] 0 true, .stepF 0 0 false 1 1 [.fin false 1] 0 true] : List Effect).all (fun e =>
        !stopped (flying e) && decide ((flying e).core.sca.inflight = [pend e] ∧ (pend e).due ≤ (flying e).clk ∧ (flying e).pkg.env.mismatch = [])) =
      true := by decide +kernel

/-- A step in flight whose group has a mismatch listed, and one withheld for its sixteenth replay. -/
def doubted : State := (flying (.stepI 7 3 true 1 1 [1] 5 false)).modPkg fun p => { p with env := { p.env with mismatch := [(0, 7)] } }
def withheld : State :=
  base.modTrp fun t => { t with assay := some (pend (.stepI 7 3 true 1 1 [1] 5 false), 15), assayRecs := [{ pend (.base 31 5) with due := 2 }], assayRem := 3 }

/-- The same with an action of cause 20 that is not a replay. -/
def noReplay : State :=
  ((doubted.modTrp fun t => { t with acttab := 0x8000_0201 }).modPkg fun p => writeNat p (0x8000_0200 + 8 * 20) 8 2)

theorem test_witness_AssayStopAndReplay :
    stopped doubted = false ∧ stepWhere (pend (.stepI 7 3 true 1 1 [1] 5 false)).eff = some (7, 5) ∧ (doubted.no, 7) ∈ doubted.pkg.env.mismatch ∧
      0 < doubted.assayReplays ∧ noReplay.assayReplays = 0 ∧ noReplay.core.trp.reports.length < 16 ∧ doubted.core.sca.inflight = [pend (.stepI 7 3 true 1 1 [1] 5 false)] ∧
      withheld.core.trp.assay = some (pend (.stepI 7 3 true 1 1 [1] 5 false), 15) ∧ (withheld.no, 7) ∉ withheld.pkg.env.mismatch := by decide +kernel

/-- `base` with the bundle of one instruction at its pc. -/
def coded (i : Instr) : State := base.modPkg fun p => writeNat p 0x1000 32 (encodeBundle (Bundle.single i))
/-- A store, a token and a load at the heads of the queues; an acknowledgement on its way; a buffer full for 2^20 clk. -/
def storing (op : QOp) : State := base.modLsu fun l => { l with storeQ := [qe op] }
def loading : State := base.modLsu fun l => { l with loadQ := [qe (.load 0x8000_0040 0x8000_0040 8 true false false true)] }
def missing : State := (coded (.ldd h0 (ldo 3))).modLsu fun l => { l with utlb := [] }
def flushing : State :=
  { base with core := { base.core with lsu := { base.core.lsu with acks := [3], ackcnt := 1, ingressFull := some 0 } }, pkg := { base.pkg with clk := 2 ^ 20 } }
/-- A far store to the first peer, which cannot be reached; `dead`: it has been killed. -/
def unreached (dead : Bool) : State :=
  (base.modLsu fun l => { l with outst := [{ qe (.store 0x8000_0040 (peerBase 0) 8 3 false) with far := true, dead }] }).modPkg fun p =>
    { p with clk := 2 ^ 26, env := { p.env with peersDown := [0] } }
/-- A RINV at the head of the load queue, not yet begun, and begun to last to clk 1. -/
def rinving (held : Option (Nat × Nat)) : State := base.modLsu fun l => { l with loadQ := [qe (.rinv 0x8000_0000 100)], rinvHeld := held, cache := [(0x100_0000, some (0x100_0000, 0))] }

theorem test_witness_QueueEvents :
    (storing (.store 0x8000_0040 0x8000_0040 8 3 false)).mayDispatch true (qe (.store 0x8000_0040 0x8000_0040 8 3 false)) = true ∧
    (storing (.relTok 3)).mayDispatch true (qe (.relTok 3)) = true ∧
    loading.mayDispatch false (qe (.load 0x8000_0040 0x8000_0040 8 true false false true)) = true ∧ base.core.eng.cmds = [] ∧
    missPage missing = some 0x8000 ∧ isOk (walk missing.pkg missing.root (0x8000 * 65536)) = true ∧
    missPage ((coded (.ldd h0 (ldo 6))).modLsu fun l => { l with utlb := [] }) = some 0x100_0000 ∧
    isErr (walk missing.pkg missing.root (0x100_0000 * 65536)) (.xlate 0) = true ∧
    flushing.core.lsu.acks = [3] ∧ flushing.core.lsu.ingressFull = some 0 ∧ 0 + 2 ^ 20 ≤ flushing.clk ∧ stopped flushing = false ∧
    (rinving none).core.lsu.loadQ = [qe (.rinv 0x8000_0000 100)] ∧ stopped (rinving none) = false ∧ (rinving (some (9, 1))).core.eng.cmds = [] ∧
    (rinving (some (9, 1))).clk < 1 ∧ 0 ≤ (rinving (some (9, 0))).clk ∧
    peerLost (unreached true).pkg (peerBase 0) = true ∧ 0 + 2 ^ 26 ≤ (unreached true).clk ∧ (unreached false).core.trp.reports.length < 16 ∧
    ((unreached true).core.lsu.outst.find? (fun x => x.id == 9)).isSome = true := by decide +kernel

/-- An E cause and a D cause reported; a record of priority 7 waiting while the unit has run 2^22 clk; accumulators open too long. -/
def reported : State :=
  base.modTrp fun t => { t with reports := [{ info := { cause := 14, slot := 3, gmask := 0, reason := 7, tl := 0, eng := 1, tlnum := 1, tstat := 0 }, tbun := 0x1000, gts := 0, ord := 1, deferred := false, cmd := 0 }] }
def outranked : State :=
  { base with
    core := { base.core with trp := { base.core.trp with preemptDue := true, ctxpool := BitVec.ofNat 64 (0x45 * 2 ^ 56 + 0x9000 * 2 ^ 16 + 2) } }
    pkg := { base.pkg with clk := 2 ^ 22, queues := [(7, [{ recd := 1, since := 0, deliver := none, evalOf := none, pool := 0, argIdx := none, self := false, saved := none }])] } }
def deep : State :=
  { base with core := { base.core with vec := { base.core.vec with openSince := [(3, some 0)] } }, pkg := { base.pkg with clk := 4097 } }

theorem test_witness_BoundaryEvents :
    ((reportDue reported).map fun r => (r.deferred, r.cmd)) = some (false, 0) ∧ reported.core.sca.hold ≤ reported.clk ∧ reported.core.trp.stepDue = false ∧
    outranked.core.un.start + 2 ^ 22 ≤ outranked.clk ∧ outranked.higherWaits = true ∧ outranked.mayPreempt = true ∧ stopped outranked = false ∧
    reportDue outranked = none ∧ outranked.core.trp.stepDue = false ∧ atBoundary issueSem fetchBundle outranked = true ∧
    atBoundary issueSem fetchBundle reported = true ∧ deep.tooDeep = [(3, 0)] ∧ deep.core.trp.reports.length < 16 := by decide +kernel

/-- A bundle that issues, one that faults, a pc no page maps, and a single operation. -/
theorem test_witness_BundleIssue :
    (let s := coded (.addD .s1 h0 ro)
     let b := Bundle.single (.addD .s1 h0 ro)
     decide (Boundary s) && (match fetchBundle s with | .ok x => x == b | .error _ => false) && !ingressStall b s && b.s0.isNone &&
       (joinWaits (baseWaits b (openBundle false b s)) == .go) && (bundleWait issueSem b (openBundle false b s) == .go) && (match runOps issueSem (bundleOps b) (beginBundle b s) (beginBundle b s) with | .ok _ => true | _ => false)) =
      true ∧
    (let s := coded (.divD .s1 h0 { ro with srcB := 9 })
     let b := Bundle.single (.divD .s1 h0 { ro with srcB := 9 })
     decide (Boundary s) && (match fetchBundle s with | .ok x => x == b | .error _ => false) && (joinWaits (baseWaits b (openBundle false b s)) == .go) &&
       (bundleWait issueSem b (openBundle false b s) == .go) &&
       (match runOps issueSem (bundleOps b) (beginBundle b s) (beginBundle b s) with | .trap _ => true | _ => false)) = true ∧
    (match fetchBundle (base.modSca fun c => { c with pc := 0x100_0000_0000 }) with | .error c => c.cause | .ok _ => 0) = Cause.xfetch.no := by decide +kernel

/-- A wait, granted 1,200 clk ago: its release is due. -/
def lateSwap : State := ((shadow true false (some { waitOf true false false with grantAt := 0 }))).modPkg fun p => { p with clk := 1200 }

theorem test_witness_StepRunsDecoded :
    landingDue (flying (.base 31 5)) = true ∧ dueNow lateSwap = some .shiftChangeRelease ∧ landingDue lateSwap = false ∧
    (let s := { base with agenda := [.info, .nop .s0 h0] }
     landingDue s = false ∧ dueNow s = none ∧ Instr.info.slot? = none ∧ (Instr.nop .s0 h0).slot?.isSome = true) ∧
    (let s := coded (.addD .s1 h0 ro)
     landingDue s = false ∧ dueNow s = none ∧ s.agenda = [] ∧ defaultPick s = none ∧ stopped s = false ∧ isOk (fetchPa s s.core.sca.pc) = true ∧
       s.core.entryOutside = false ∧ badData s.pkg 0x1000 32 = false ∧
       (match decodeBundle (readNat s.pkg 0x1000 32) with | .ok b => decide (b = Bundle.single (.addD .s1 h0 ro)) | .error _ => false) = true ∧
       s.core.tab.bindBad = false) := by decide +kernel

/-! ### Witnesses: cells and the work hierarchy -/

/-- The record at 0x8000_0000: an evaluation record (KIND 1), or one of KIND `k`. -/
def recs (k : Nat) (p : Pkg) : Pkg := writeNat p 0x8000_0000 64 (k * 2 ^ 27)
/-- An access in progress to the cell at 0xC000_0040, which is in state `st`. -/
def celled (op : QOp) (k : Nat) (st : CellState) : State := (accessing op).modPkg fun p => setCell (recs k { p with clk := 2 }) 0xC000_0040 st
/-- The cell is PENDING with one unit parked on it, whose record has been written. -/
def parkedOnCell (op : QOp) : State :=
  (accessing op).modPkg fun p => { writePending (recs 0 { p with clk := 2 }) 0xC000_0040 7 5 5 1 0 false false with
    pool := [(5, some { PoolEntry.fresh 9 0 with cell := some 0xC000_0040, wait := some { dst := 3, wbs := false, size := 8, off := 56, signed := true, line := 0xC000_0040 } })] }
/-- A resolution armed on timeline 3, whose number is 0, for a cell in state `st`. -/
def armedOn (st : CellState) : State :=
  (base.modEng fun e => { e with armed := [{ va := 0xC000_0040, pa := 0xC000_0040, tl := 3, b := 0, lslot := 0, tbun := 0x1000, lost := none, id := 3, sq := false, bank := none, dead := false }] }).modPkg fun p => setCell p 0xC000_0040 st

def inHand (s : State) (op : QOp) : Bool :=
  !stopped s && decide (s.core.lsu.outst.find? (fun x => x.id == 9) = some (qe op)) && mayPerform (qe op) s.core.lsu.outst && !(qe op).dead
def isVal (x : Except EFail Nat) (v : Nat) : Bool := match x with | .ok w => w == v | .error _ => false

theorem test_witness_CellEvents :
    (let op : QOp := .load 0xC000_0078 0xC000_0078 8 true true false true
     inHand (celled op 0 .value) op = true ∧ badCell (celled op 0 .value).pkg 0xC000_0078 = false ∧ cellAt (celled op 0 .value).pkg 0xC000_0078 = .value ∧
       badData (celled op 0 .value).pkg 0xC000_0078 8 = false ∧ inHand (celled op 0 .suspended) op = true ∧
       cellAt (celled op 0 .suspended).pkg 0xC000_0078 = .suspended ∧ (celled op 0 .suspended).isEvaluator 0xC000_0078 = false) ∧
    (let s := celled (.cellmk 0xC000_0040 0xC000_0040 0x8000_0000 false) 1 .value
     inHand s (.cellmk 0xC000_0040 0xC000_0040 0x8000_0000 false) = true ∧ cellAt s.pkg 0xC000_0040 ≠ .pending ∧ isVal (s.read64 0x8000_0000) (2 ^ 27) = true ∧
       recKind (recTrim (BitVec.ofNat 512 (2 ^ 27))) = 1 ∧ recReserved (recTrim (BitVec.ofNat 512 (2 ^ 27))) = false) := by decide +kernel

theorem test_witness_CellEvents_resolve :
    (let s := celled (.cellmk 0xC000_0040 0xC000_0040 0 true) 1 .suspended
     inHand s (.cellmk 0xC000_0040 0xC000_0040 0 true) = true ∧ cellAt s.pkg 0xC000_0040 ≠ .pending) ∧
    (let op : QOp := .resolve 0xC000_0040 0xC000_0040 0x8000_0000
     (qe op).since + 2 ≤ (celled op 1 .suspended).clk ∧ (qe op).since + 2 ≤ (parkedOnCell op).clk ∧
       inHand (celled op 1 .suspended) op = true ∧ isVal ((celled op 1 .suspended).read64 0x8000_0000) (2 ^ 27) = true ∧
       inHand (parkedOnCell op) op = true ∧ isVal ((parkedOnCell op).read64 0x8000_0000) 0 = true ∧
       cellAt (parkedOnCell op).pkg 0xC000_0040 = .pending ∧ cellSpec (parkedOnCell op).pkg 0xC000_0040 = false ∧
       chainOf (parkedOnCell op).pkg 0xC000_0040 = [5] ∧ cellEvid (parkedOnCell op).pkg 0xC000_0040 ≠ 5 ∧
       ((poolAt (parkedOnCell op).pkg 5).map fun w => (w.ready, w.wait)) = some (true, some { dst := 3, wbs := false, size := 8, off := 56, signed := true, line := 0xC000_0040 })) := by decide +kernel

theorem test_witness_CellEvents_freg :
    (let op : QOp := .freg 0xC000_0040 0xC000_0040 0x8000_0000
     inHand (celled op 2 .value) op = true ∧ isVal ((celled op 2 .value).read64 0x8000_0000) (2 * 2 ^ 27) = true ∧
       recKind (recTrim (BitVec.ofNat 512 (2 * 2 ^ 27))) = 2 ∧ recReserved (recTrim (BitVec.ofNat 512 (2 * 2 ^ 27))) = false) ∧
    inHand (celled (.specev 0xC000_0040 0xC000_0040 0) 1 .suspended) (.specev 0xC000_0040 0xC000_0040 0) = true ∧
    ((armedOn .suspended).core.eng.armed.drop 0).length = 1 ∧ ((0 : Double)).toNat ≤ (armedOn .suspended).core.tlValue 3 ∧
    cellAt (armedOn .suspended).pkg 0xC000_0040 = .suspended ∧ cellAt (armedOn .value).pkg 0xC000_0040 = .value ∧ (armedOn .value).core.dying = false := by
  decide +kernel

/-- A record of object 9 with a JOIN pair and a double delivered, queued on die 0 at priority 6, with core 0 idle. -/
def rec9 : Rec := BitVec.ofNat 512 (6 * 2 ^ 29 + 12 * 2 ^ 23 + 1 * 2 ^ 17 + 9 * 2 ^ 32 + 0x20 * 2 ^ 64 + 1 * 2 ^ 96 + 5 * 2 ^ 128)
def qrec (deliver : Option Delivery) : QRec :=
  { recd := rec9, since := 0, deliver, evalOf := none, pool := 0, argIdx := none, self := false, saved := none }
def obj9 : Obj :=
  { handle := 9, hash := 0, job := 1, code := 0x1000, codeLen := 0x100, data := 0, cell := 0, table := none, phases := [], ranges := [], rebind := [], maxdepth := 0 }
def waiting (deliver : Option Delivery) : State :=
  { base with
    core := { base.core with un := UnitSt.reset }
    pkg := { base.pkg with clk := 2 ^ 24, queues := [(6, [qrec deliver])], objs := [obj9] } }

/-- A card: NARG at byte 24, ASIZE at 28, FLAGS at 29 (bit 1 SELF), object 9. -/
def card (narg asize flags : Nat) : BitVec 512 :=
  BitVec.ofNat 512 (9 * 2 ^ 32 + 0x20 * 2 ^ 64 + 0x8000_0000 * 2 ^ 128 + narg * 2 ^ 192 + asize * 2 ^ 224 + flags * 2 ^ 232)
def launchOf (c : BitVec 512) (next : Nat) (counter : Int) : Launch :=
  { Launch.ofCard c 1 0 3 0 0 true with next, counter, selfDealt := decide (next ≠ 0) }
/-- Launch 4 of graph 3, phase 0 and job 1; every core idle. -/
def launching (l : Launch) : State :=
  { base with
    core := { base.core with un := UnitSt.reset }
    pkg := { base.pkg with
      launches := [(4, some l)]
      graphs := [(3, some { job := 1, phase := 0, dc := [], counter := 0, cancelled := false, complete := false, ring := 0, seq := 0 })]
      phases := [(phaseKey 1 0, some { counter := 0, cancelled := false, complete := false })]
      jobs := [(1, some { xroot := 0x4000_0000, acttab := 0, methctl := 0, ctxpool := 0, stopped := false, areas := [],
                          level := { counter := 0, cancelled := false, complete := false } })] } }

/-- One argument left, all of them, and a SELF launch; then one whose arguments are all dealt and whose units are counted out. -/
theorem test_witness_WorkEvents :
    [none, some { dst := 3, wbs := false, v := 7, line := 0xC000_0040 }].all (fun d => match (waiting d).pick with
      | some (n, q, u) => decide (n = 0 ∧ q = { qrec d with since := 0 } ∧ q.saved = none) && decide (recordJob u.pkg (recTrim q.recd) = 1) &&
          decide (objectOf u.pkg 1 (recHandle (recTrim q.recd)) = some obj9)
      | none => false) = true ∧
    dieQueue (waiting none).pkg 0 6 = [qrec none] ∧ (qrec none).since + 2 ^ 24 ≤ (waiting none).clk ∧
    [launchOf (card 2 12 0) 1 2, launchOf (card 5 1 0) 0 5, launchOf (card 5 0 0) 0 5].all (fun l =>
      let s := launching l
      decide (launchAt s.pkg 4 = some l ∧ (fget none s.pkg.jobs l.job).isSome = true ∧ s.pkg.mgmt.quiesced = none ∧ l.phase < 65536) && !l.complete && !l.cancelled && !l.stopped && s.unblocked l && !l.isSelf && decide (l.next < l.narg) &&
        !(s.grantCores l).isEmpty && (match (s.modLaunch 4 fun l => { l with waits := false }).readArgs l.job (l.chunk s.pkg * l.asize) (l.args + 4 * l.asize * l.next) with
          | .ok _ => true | .error _ => false)) = true ∧
    (launchOf (card 5 1 2) 0 0).isSelf = true ∧ (launchOf (card 5 1 2) 0 0).selfDealt = false ∧
    (launchOf (card 5 1 0) 5 0).counter = 0 ∧ (launching (launchOf (card 5 1 0) 5 0)).dealt (launchOf (card 5 1 0) 5 0) = true ∧
    ((graphAt (launching (launchOf (card 5 1 0) 5 0)).pkg 3).map fun g => (g.counter, g.complete)) = some (0, false) := by decide +kernel

/-- The table of 64 method records at 0x8000_1000, empty but for one for operation 5 without operands; a request for it. -/
def dispatching : State :=
  ((accessing (.dispatch 0x100)).modTrp fun t => { t with methctl := BitVec.ofNat 64 (0x8000_1000 + 6) }).modPkg fun p =>
    { writeNat (writeNat p (0x8000_1000 + 64 * methBucket 6 0 5 0 0 0 0) 64 (2 ^ 31 + 5 + 9 * 2 ^ 96)) (arrayBase 0 + 0x100) 128 5 with
      launches := [(0, some (launchOf (card 1 1 0) 0 1))] }
def spawning (op : QOp) : State := (accessing op).modPkg fun p => { recs 0 p with launches := [(0, some (launchOf (card 5 1 2) 1 1))] }
def selfish (op : QOp) : State := { spawning op with core := { (spawning op).core with un := { (spawning op).core.un with self := true } } }

/-- The same with a chunk to grant again. -/
def regranting : State := (selfish .chunk).modPkg fun p => { p with launches := [(0, some { launchOf (card 5 1 2) 1 1 with again := [(3, 1)] })] }

theorem test_witness_TaskPerformed :
    (!stopped dispatching && decide (dispatching.core.lsu.outst.find? (fun x => x.id == 9) = some (qe (.dispatch 0x100))) && !dispatching.core.carved 0x100 &&
      (match decideTasks dispatching (parseReq (dispatching.own 0x100 128)) with | .ok (cs, _) => cs.isEmpty | .error _ => false)) = true ∧
    ((launchAt dispatching.pkg dispatching.mySlot).map fun l => l.cancelled) = some false ∧
    inHand (spawning (.spawn 0x8000_0000 0)) (.spawn 0x8000_0000 0) = true ∧ isVal ((spawning (.spawn 0x8000_0000 0)).read64 0x8000_0000) 0 = true ∧
    ((launchAt (spawning (.spawn 0x8000_0000 0)).pkg 0).map fun l => l.cancelled) = some false ∧
    recKind (recTrim (BitVec.ofNat 512 0)) = 0 ∧ recReserved (recTrim (BitVec.ofNat 512 0)) = false ∧ fld ((0 : Double)).toNat 0 2 = 0 ∧
    inHand (spawning .chunk) .chunk = true ∧ (spawning .chunk).core.un.self = false ∧ inHand (selfish .chunk) .chunk = true ∧ (selfish .chunk).core.un.self = true ∧
    ((launchAt (selfish .chunk).pkg (selfish .chunk).mySlot).map fun l => l.cancelled) = some false ∧
    ((launchAt (selfish .chunk).pkg (selfish .chunk).mySlot).map fun l => l.again) = some [] ∧
    ((launchAt regranting.pkg regranting.mySlot).map fun l => (l.cancelled, l.again)) = some (false, [(3, 1)]) ∧ inHand regranting .chunk = true ∧
    badData dispatching.pkg (arrayBase dispatching.no + 0x100) 128 = false ∧
    inHand (spawning (.cntrd 0 0)) (.cntrd 0 0) = true ∧ inHand (spawning (.cntrd 0x8000_0000 0)) (.cntrd 0x8000_0000 0) = true ∧
    (launchAt (spawning (.cntrd 0 0)).pkg 0).isSome = true := by decide +kernel

/-! ### Witnesses: engines -/

/-- Where a core sees its own array. -/
def own (off : Nat) : Nat := localBase + off
/-- A stream descriptor of one run. -/
def descNat (base run ctl sync : Nat) : Nat := base + run * 2 ^ 320 + ctl * 2 ^ 352 + sync * 2 ^ 384
def cmdOf (op : CmdOp) (tl maj : Nat) (st : CmdSt) : Cmd := { Cmd.fresh 1 tl 1 op maj 1 0x1000 with st }
/-- `base` with one command in flight, and descriptors of 32 bytes at array offsets 0x100 (source) and 0x140 (destination). -/
def commanding (c : Cmd) : State :=
  (base.modEng fun e => { e with cmds := [c], issued := if c.tl = 8 then [] else [(c.tl, 1)], nextCmd := 2 }).modPkg fun p =>
    writeNat (writeNat p (arrayBase 0 + 0x100) 64 (descNat 0x8000_0040 32 0 0)) (arrayBase 0 + 0x140) 64 (descNat (own 0x200) 32 0 0)
def copyOf (k : Nat) (st : CmdSt) : Cmd := cmdOf (.copy k 0x100 0x140 8 8) 3 (0x80 + k) st
/-- A copy that runs, with its descriptors read: `ctl` is that of its destination. -/
def runningCopy (k ctl : Nat) : Cmd :=
  { copyOf k .run with src := some (parseDesc (descNat 0x8000_0040 32 0 0)), dst := some (parseDesc (descNat (own 0x200) 32 ctl 0)) }
def headIs (c : Cmd) : Bool := !stopped (commanding c) && decide ((commanding c).core.head c.tl = some c)

/-- The seven copies that have a source (CPYW of one format, no list of CPYG or CPYS is read at the start), then each event in turn. -/
theorem test_witness_CopyEvents :
    ([0, 1, 2, 4, 5, 6].all fun k =>
      let s := commanding (copyOf k .ready)
      headIs (copyOf k .ready) && (match s.readDesc ((0x100 : Double).toNat % 2 ^ 32), s.readDesc ((0x140 : Double).toNat % 2 ^ 32) with
        | .ok sd, .ok dd => (copyStatic k 8 8 (some sd) (some dd)).isNone && !s.syncOutside dd
        | _, _ => false)) = true ∧
    ([0, 4, 7].all fun k =>
      let c := { runningCopy k 0 with outbuf := List.replicate 32 5 }
      let d := parseDesc (descNat (own 0x200) 32 0 0)
      let s := commanding c
      headIs c && (pushDue c d).isNone && decide (c.t < d.len) && !d.fe && !d.syncen && (match s.streamVa k true c d c.t with
        | .ok (va, _) => (match s.engXl true (k == 5) va with | .ok x => isArray x.pa | .error _ => false) | .error _ => false)) = true ∧
    (let c := runningCopy 0 0
     let d := parseDesc (descNat 0x8000_0040 32 0 0)
     let s := commanding c
     headIs c && c.inbuf.isEmpty && c.outbuf.isEmpty && decide (c.u < d.len) && decide (0 < d.run) &&
       (fget [] c.beats (d.vaOf 0 / 32)).isEmpty && isOk (s.engRead1 false (32 * (d.vaOf 0 / 32)) 32)) = true := by decide +kernel

theorem test_witness_CopyEvents_queues :
    (let c := { runningCopy 0 (2 ^ 10 + 3 * 2 ^ 8) with t := 32 }
     let d := parseDesc (descNat (own 0x200) 32 (2 ^ 10 + 3 * 2 ^ 8) 0)
     let s := commanding c
     headIs c && (pushDue c d == some (.value 0)) && decide (((s.coreAt (c.qcore.getD s.no)).iqueue d.qsel).length < 32)) = true ∧
    (let c := cmdOf (.syncw (BitVec.ofNat 64 (own 0x200)) 7 true) 0 0x88 .ready
     headIs c && isOk ((commanding c).syncPa (own 0x200 % 2 ^ 56)) && !badData (commanding c).pkg (arrayBase 0 + 0x200) 8) = true ∧
    (let c := cmdOf (.qpush 0x400 7 3 true) 0 0x89 .ready
     headIs c && (0x400 : Double).getLsbD 10 && liveCore (commanding c).pkg 0 && (commanding c).storesDone c.iss &&
       decide (((commanding c).coreAt 0).iqueue 3 = [])) = true ∧
    (let c := { runningCopy 0 0 with wait := some 0 }
     let q := { cmdOf (.qpush 0x400 7 3 true) 0 0x89 .ready with wait := some 0 }
     headIs c && headIs q && !c.onQueue && q.onQueue && !(commanding c).core.dying && !(commanding c).core.trp.acttab.getLsbD 0) = true ∧
    ((commanding (runningCopy 0 0)).core.head 3).isSome = true ∧ ((commanding (runningCopy 0 0)).core.head 5) = none := by decide +kernel

/-- Stream 15, bound to the data at 0x8000_0040 with the cache option. -/
def bound : State :=
  (base.modLsu fun l => { l with size := 8 }).modEng fun e => { e with streams := [(15, some { desc := parseDesc (descNat 0x8000_0040 128 0 0), cc := true, depth := 2, p := 0 })] }
/-- Subscription 3: tiles of 128 bytes, in or out, with a ring of one slot at array offset 0x400. -/
def hsubOf (out : Bool) : Cmd :=
  let d := some (parseDesc (descNat 0x8000_0040 128 0 0))
  { cmdOf (.hsub 0x100 0x400 3 out) 6 0x8B .run with src := if out then none else d, dst := if out then d else none }
/-- The state in which the slot of the subscription is full or empty. -/
def subscribed (out : Bool) : State := (commanding (hsubOf out)).modPkg fun p => setFullN p (arrayBase 0 + 0x400) 1 out

theorem test_witness_FillEvents :
    (let d := parseDesc (descNat 0x8000_0040 128 0 0)
     (match fget none bound.core.eng.streams 15 with | some x => x.cc && decide (127 < 128 * x.depth ∧ x.desc.run * x.p + 127 < x.desc.len) | none => false) &&
       (match bound.engXl false false (128 * (d.vaOf 127 / 128)) with
        | .ok y => cacheable y.dev y.nc y.cell y.pa && !badData bound.pkg (y.pa / 128 * 128) 128
        | .error _ => false) &&
       decide (0 < bound.core.lsu.cacheLines)) = true ∧
    [true, false].all (fun out =>
      let s := subscribed out
      let c := hsubOf out
      let d := parseDesc (descNat 0x8000_0040 128 0 0)
      decide (s.core.eng.cmds.find? (fun c => c.isSub 3) = some c) && !s.core.carved (0x400 + d.run - 1) && s.slotReady 0x400 1 out &&
        !c.rel && (pushDue c d).isNone && !d.syncen && !wholeSlots d (0x400 : Double) && !badData s.pkg (arrayBase s.no + 0x400) d.run &&
        isOk (s.inHbm out (d.run / 2048 + 2) (d.vaOf 0) d.run) && isOk (s.engRead false (d.vaOf 0) d.run) &&
        (match writeRun (fun s => s.engXl true false) (d.run / 32 + 2) (d.vaOf 0) (readBytes s.pkg (arrayBase s.no + 0x400) d.run) c
          (s.modPkg fun p => setFullN p (arrayBase s.no + 0x400) 1 false) with | .ok _ => true | .error _ => false)) = true := by decide +kernel

/-- The entry of `tableSt`. -/
def pword : Nat := 0x0110_0020_0000_0800
/-- TFILL of index 1,023 in groups 0 and 7: NOP entries, and entries of one class, at 0x8000_2000. CBFILL of slots 1 and 3 of bank 1. -/
def tfillOf : Cmd := cmdOf (.tfill 0x8000_2000 (BitVec.ofNat 64 (1023 + 1 * 2 ^ 10)) 0x81) 7 0x8C .run
def cbfillOf : Cmd := cmdOf (.cbfill 0x8000_0000 1 0xA) 7 0x8D .run

theorem test_witness_FillEvents_tables :
    [(0, .nop), (pword, ((Entry.decode (BitVec.ofNat 64 pword)).getD .nop).cls)].all (fun wc =>
      let s := (commanding tfillOf).modPkg fun p => writeNat p 0x8000_2000 8 wc.1
      headIs tfillOf && (tfillOf.wait != some s.clk) && [0, 7].all fun g => (match s.engRead false (0x8000_2000 + 8 * (g * 1)) 8 with
        | .ok bs => (match Entry.decode (BitVec.ofNat 64 (leNat bs)) with | some x => x.cls == .nop || x.cls == wc.2 | none => false)
        | .error _ => false)) = true ∧
    headIs cbfillOf = true ∧ (commanding cbfillOf).cbBusy 1 = false ∧ isOk ((commanding cbfillOf).engRead false 0x8000_0000 32) = true := by
  decide +kernel

/-- An all-gather of one chunk between cores 0 and 1: `dfmt` 8 is plain, 0x10 plane form of 8 planes. Its descriptor is at array offset 0x300,
its table at 0x8000_1000. -/
def collNat (dfmt : Nat) : Nat :=
  0x8000_1000 + 0x8000_2000 * 2 ^ 64 + 0x8000_4000 * 2 ^ 128 + 0x400 * 2 ^ 192 + 1 * 2 ^ 224 + 7 * 2 ^ 256 + (if dfmt = 8 then 8 else 1) * 2 ^ 304 +
    dfmt * 2 ^ 312
def collOf (st : CmdSt) : Cmd := cmdOf (.coll 0x300 2) 4 0x94 st
def runningColl (dfmt t : Nat) : Cmd := { collOf .run with aux := [collNat dfmt, 0, 2], t }
def transfer (dfmt : Nat) (members : List (Nat × Nat × Nat × Nat)) (recvDone : List Nat) (cancelled : Bool) : Transfer :=
  { comm := [0, 1], addr := 0x8000_1000, job := 1, xid := 7, ranks := [0, 1], sig := (runningColl dfmt 0).sig, members, recvDone, finished := [], cancelled, cancelClk := none, enc := [] }
/-- A command of a collective in flight, with a transfer or none. -/
def collective (c : Cmd) (dfmt : Nat) (y : List Transfer) : State :=
  let s := commanding c
  { s with pkg := { writeNat (writeNat (writeNat s.pkg 0x8000_1000 8 2) 0x8000_1008 8 (1 * 2 ^ 32)) (arrayBase 0 + 0x300) 64 (collNat dfmt) with
    transfers := y, clk := 2 ^ 32 } }
def both : List (Nat × Nat × Nat × Nat) := [(0, 0, 4, 1), (1, 1, 4, 1)]

theorem test_witness_CollectiveEvents :
    ([8, 0x10].all fun dfmt =>
      let c := collOf .ready
      let s := collective c dfmt []
      let c1 : Cmd := { c with aux := [collNat dfmt, 0, 2], startClk := s.clk }
      decide (s.core.head 4 = some c) && decide (c.coff % 64 = 0 ∧ c.coff < arraySize) && !s.core.carved c.coff && decide (s.own c.coff 64 = collNat dfmt) &&
        (match s.readTable (collNat dfmt % 2 ^ 56) with | .ok ws => decide (ws = [0, 1]) | .error _ => false) && decide (ranksOf s.pkg [0, 1] 0 = [0]) &&
        (collStatic c1 (s.countersCarved c1)).isNone && !(c1.expected.any fun r => memberLost s.pkg (nth [0, 1] r)) &&
        decide ((transfer dfmt [(1, 1, 4, 1)] [] false).sig = c1.sig)) = true ∧
    (let c := runningColl 8 0
     let y := transfer 8 both [] false
     let s := collective c 8 [y]
     decide (s.core.head 4 = some c) && decide (s.transferOf c = some y) && (s.transferFault y).isNone && y.ranks.all (s.arrived y) && !y.recvDone.contains c.rank && writes c.kind c.croot c.rank && !c.planes &&
       decide (c.t ≠ c.total) && (match s.plainBeat y c with | .ok (some bs) => bs.length == 32 | _ => false) && (c.cdst + c.t) % 2 ^ 56 % 32 == 0 &&
       isOk (s.collXl true ((c.cdst + c.t) % 2 ^ 56))) = true := by decide +kernel

theorem test_witness_CollectiveEvents_end :
    (let c := runningColl 8 0
     let y := transfer 8 both [0, 1] true
     let s := collective c 8 [y]
     decide (s.core.head 4 = some c) && decide (s.transferOf c = some y) && (s.transferFault y).isNone && y.ranks.all (s.arrived y) && c.receivers.all y.recvDone.contains &&
       decide (c.coff < arraySize - 56) && !s.core.carved (c.coff + 56)) = true ∧
    (let c := runningColl 0x10 1
     let y := transfer 0x10 both [] true
     let s := collective c 0x10 [y]
     let w := readNat s.pkg (arrayBase s.no + c.pcb) 8
     decide (s.core.head 4 = some c) && decide (s.transferOf c = some y) && c.planes && writes c.kind c.croot c.rank && decide (0 < c.chunks) &&
       decide (w % 256 < c.depth ∧ w % 256 * c.chunks < c.t ∧ w / 256 % 2 = 0) && !s.core.carved c.pcb && decide (c.coff + 64 ≤ c.pcb)) = true ∧
    (let c := runningColl 8 0
     let y := transfer 8 [(0, 0, 4, 1)] [] false
     let s := collective c 8 [y]
     decide (s.transferOf c = some y) && decide (c.startClk + 2 ^ 32 ≤ s.clk) && !(s.arrived y 1) && decide (y.members = [(c.rank, s.no, c.tl, c.id)]) &&
       decide (s.core.eng.cmds.find? (fun k => k.id == c.id && k.st == .run) = some c) && !s.core.dying && !s.core.trp.acttab.getLsbD 0) = true := by
  decide +kernel

/-! ### Witnesses: the host, the links, the package and the mailbox -/

def ringed (r : Ring) (p : Pkg) : Pkg := { p with rings := [(15, r)] }
def open16 : Ring := { Ring.reset with en := true, job := 1, base := 0x8000_0000 }
/-- The card of launch `card 5 1 0` in graph 3 as slot HEAD holds it, its sequence number 0 and its CRC; bit 40 makes its object unknown. -/
def hostCard (bad : Bool) : Nat := (card 5 1 0).toNat + 3 * 2 ^ 304 + b2n bad * 2 ^ 40
def sealed (x : Nat) : Nat := x + crc32c (leBytes 60 x) * 2 ^ 480
def fetchingCard (bad : Bool) : State :=
  { base with pkg := ringed { open16 with tail := 1 } { writeNat base.pkg 0x8000_0000 64 (sealed (hostCard bad)) with objs := [obj9] } }
/-- The card due has not arrived; with `some 0`, not for 2^16 clk. -/
def awaiting (first : Option Nat) : State :=
  { base with pkg := ringed { open16 with tail := 3, head := 2, first } { base.pkg with clk := 2 ^ 16 } }

/-- `base` with every link and host port down; a fetching ring with an event that waits. -/
def unlinked : State := base.modMgmt fun m => { m with linksUp := 0, portsDown := [0, 1] }
def backed : State := (fetchingCard false).modPkg fun p => ringed { open16 with tail := 1, events := [(1, 2)] } p

theorem test_witness_RingEvents :
    hostOpen unlinked.pkg = false ∧ hostOpen base.pkg = true ∧ (ringOf (fetchingCard false).pkg 15).got = none ∧ (ringOf (awaiting none).pkg 15).got = none ∧
    (ringOf (fetchingCard true).pkg 15).events = [] ∧ (ringOf backed.pkg 15).events ≠ [] ∧ (ringOf backed.pkg 15).fetching = true ∧
    cardArrived backed.pkg (ringOf backed.pkg 15) = true ∧ stopped backed = false ∧ (ringOf backed.pkg 15).got = none ∧
    (awaiting (some 1)).clk < 1 + 2 ^ 16 ∧
    sub32 (16 % 2 ^ 32) open16.head = 2 ^ open16.logsz ∧ 2 ^ open16.logsz < sub32 (17 % 2 ^ 32) open16.head ∧ (2 ^ 32 : Double).getLsbD 32 = true ∧
    (ringOf base.pkg 15).en = false ∧ stopped (fetchingCard false) = false ∧ (ringOf (fetchingCard false).pkg 15).fetching = true ∧
    (ringOf (awaiting none).pkg 15).fetching = true ∧ cardArrived (awaiting none).pkg (ringOf (awaiting none).pkg 15) = false ∧
    0 + 2 ^ 16 ≤ (awaiting (some 0)).clk ∧
    [false, true].all (fun bad =>
      let s := fetchingCard bad
      let r := ringOf s.pkg 15
      cardArrived s.pkg r && (hostCardOk s.pkg (BitVec.ofNat 512 (leNat (readBytes s.pkg (r.base + 64 * (r.head % 2 ^ r.logsz)) 64))) == !bad)) = true ∧
    graphCancelled ((fetchingCard false).openGraph 3 1 0 15 0).pkg 3 = false ∧
    ({ open16 with events := [(1, 2)] } : Ring).events = [(1, 2)] ∧ sub32 open16.cqtail open16.cqhead < 2 ^ open16.logsz := by decide +kernel

/-- Beside core 0, which runs a unit, core 575 is idle. -/
theorem test_witness_HostAndPeerEvents :
    hostOpen base.pkg = true ∧ 0x100 + ([1, 2] : List Byte).length ≤ hbmEnd ∧ liveCore base.pkg ((575 * arraySlot + 0x2FFFFE) / arraySlot) = true ∧
    (575 * arraySlot + 0x2FFFFE) % arraySlot + ([1, 2] : List Byte).length ≤ arraySize ∧ (base.coreAt ((575 * arraySlot + 0x2FFFFE) / arraySlot)).un.st = .idle ∧
    (base.coreAt (0x100 / arraySlot)).un.st ≠ .idle ∧ unlinked.pkg.mgmt.linksUp = 0 ∧ (base.modMgmt fun m => { m with linksUp := 1 }).pkg.mgmt.linksUp ≠ 0 ∧ (2 ^ 28 - 8) % 8 = 0 ∧ 1 ∉ base.pkg.mgmt.portsDown ∧ badData base.pkg (hbmEnd - 8) 8 = false ∧
    (let m := { base.pkg.mgmt with gtsSync := true, linksUp := 0x8000 }
     m.gtsSync = true ∧ m.gtsMaster = false ∧ m.linksUp ≠ 0) ∧ base.pkg.live.contains (portDie 15) = true := by decide +kernel

theorem test_witness_PackageEvents :
    825 ≤ base.pkg.mgmt.mhz ∧ base.pkg.mgmt.mhz ≤ 1725 ∧ 1675 + 25 ≤ 1700 ∧ base.pkg.live.contains 8 = true ∧ 8 ∉ base.pkg.mgmt.declared ∧
    (∃ d ∈ base.pkg.live, d ≠ 8) ∧ (base.pkg.mgmt.spared.filter fun x => x.1 == 1 && x.2 / 2 ^ 32 == 5).length < 4 := by decide +kernel

/-- The mailbox runs the command whose block holds these doubles. -/
def mailing (l : List Nat) (s : State) : State :=
  s.modMgmt fun m => { m with busy := true, cmdSeq := 5, mbaddr := 0x9000_0000, block := BitVec.ofNat 1024 (leNat (l.map (leBytes 8)).flatten) }
/-- A patch image of no contents, version 3 and SVN 1, followed by its signature; whether it verifies is open. -/
def patchImage : List Byte := leBytes 64 (0x48504446 + 3 * 2 ^ 32 + 1 * 2 ^ 64) ++ List.replicate 96 0
def patching : State := mailing [0x0F, 0x8000_0000, 160] (base.modPkg fun p => writeBytes p 0x8000_0000 patchImage)

theorem test_witness_DeviceCommands :
    Asked 0x01 (mailing [0x01] base) ∧ Asked 0x0A (mailing [0x0A, 575, 2] base) ∧ liveCore base.pkg ((mailing [0x0A, 575, 2] base).mbArg 1) = true ∧
    (mailing [0x0A, 575, 2] base).mbArg 2 = 2 ∧ Asked 0x0B (mailing [0x0B, 4200] base) ∧ (mailing [0x0B, 4200] base).mbArg 1 = 4200 ∧
    (let s := mailing [0x10, 0x8000_0000, 1] base
     Asked 0x10 s ∧ s.mbArg 1 + 32 * 1 ≤ s.pkg.mgmt.mbaddr + 128 ∧ logSize s.pkg.mgmt.log = 9) ∧
    (let s := mailing [0x12, 0x8000_0000, 3, 2 ^ 63 + 511] base
     Asked 0x12 s ∧ s.mbArg 1 + 4096 ≤ hbmEnd ∧ s.mbArg 3 / 2 ^ 9 % 2 ^ 54 = 0) := by decide +kernel

/-- PATCH: all but the signature check, which is open. -/
theorem test_witness_DeviceCommands_more :
    Asked 0x11 (mailing [0x11, 8] base) ∧ base.pkg.live.contains ((mailing [0x11, 8] base).mbArg 1) = true ∧ Asked 0x13 (mailing [0x13] base) ∧
    (let s := mailing [0x0E, 1, 0x8000_0000, 0x8000_1000] base
     Asked 0x0E s ∧ s.mbArg 3 + 312 ≤ hbmEnd ∧ (jobAt s.pkg (s.mbArg 1)).isSome = true) ∧
    (mailing [0x14] base).pkg.mgmt.busy = true ∧ (mailing [0x14] base).mbArg 0 % 2 ^ 8 = 0x14 ∧ Asked 0x0F patching ∧
    badData patching.pkg (patching.mbArg 1) (patching.mbArg 2) = false := by decide +kernel

theorem test_witness_DeviceCommands_patch (h : Config.patchVerifies patchImage = true) :
    patchOk patching.pkg.mgmt (readBytes patching.pkg (patching.mbArg 1) (patching.mbArg 2)) = true := by
  have e : readBytes patching.pkg (patching.mbArg 1) (patching.mbArg 2) = patchImage := by decide +kernel
  have k : (imgNat patchImage 0 4 == 0x48504446 && patchImage.length == 64 + imgNat patchImage 12 4 + 96 && imgNat patchImage 16 48 == 0 &&
    decide (patching.pkg.mgmt.fusedSvn ≤ imgNat patchImage 8 4)) = true := by decide +kernel
  rw [e, patchOk, k, h]; rfl

/-- An object of one bundle of NOPs: header, directory (CODE, HASHHI), the hash's last bytes, the bundle; its hash put in. -/
def imageBlank : List Byte :=
  leBytes 64 (0x594C4E46 + 1 * 2 ^ 32 + 1 * 2 ^ 48 + 2 * 2 ^ 96) ++ leBytes 16 (1 + 128 * 2 ^ 32 + 32 * 2 ^ 64) ++
    leBytes 16 (11 + 96 * 2 ^ 32 + 16 * 2 ^ 64) ++ List.replicate 32 0 ++ leBytes 32 (encodeBundle (Bundle.single (.nop .s0 h0)))
def image : List Byte :=
  let h := sha384 imageBlank
  imageBlank.take 32 ++ h.take 32 ++ (imageBlank.drop 64).take 32 ++ h.drop 32 ++ imageBlank.drop 112
def job1 : Job :=
  { xroot := 0x4000_0000, acttab := 0, methctl := 0, ctxpool := 0, stopped := false, areas := [],
    level := { counter := 0, cancelled := true, complete := false } }
def loadingImage : State := mailing [0x06, 1, 0x8000_0000, 160] (base.modPkg fun p => writeBytes p 0x8000_0000 image)

theorem test_witness_JobCommands_load :
    Asked 0x06 loadingImage ∧ loadingImage.mbArg 2 + loadingImage.mbArg 3 ≤ hbmEnd ∧
    badData loadingImage.pkg (loadingImage.mbArg 2) (loadingImage.mbArg 3) = false ∧
    ((jobAt loadingImage.pkg 1).map fun j =>
      (loadObject 1 j (readBytes loadingImage.pkg (loadingImage.mbArg 2) (loadingImage.mbArg 3)) loadingImage).2.status) = some 0 := by decide +kernel

/-- Nothing runs; job 1 is being cancelled, a context of it is parked on core 0, and its object 9 is loaded. -/
def resting : State :=
  { base with
    core := { base.core with un := UnitSt.reset }
    pkg := { base.pkg with
      jobs := [(1, some job1)]
      objs := [obj9]
      saved := [({ area := 65536, core := 0, job := 1, parked := true, info := { cause := 5, slot := 1, gmask := 0, reason := 0, tl := 0, eng := 0, tlnum := 0, tstat := 0 }, tbun := 0 }, Core.reset)] } }
def bare : State := resting.modPkg fun p => { p with saved := [] }
def sending (op : Nat) (quiesced : Option Nat) (streaming : Option Streaming) : State :=
  (mailing [op, 1, 511, 0x8000_0000, 1, 0x10_0000] (bare.modPkg fun p => writeNat (writeNat p 0x8000_0000 8 0x8800_0000) 0x8000_0008 8 2048)).modMgmt fun m =>
    { m with quiesced, streaming, linksUp := 1, peertab := [(511, 0x8001)] }

theorem test_witness_JobCommands :
    (let s := mailing [0x02, 65535, 0x9100_0000, 3, 4, 5] base
     Asked 0x02 s ∧ s.mbArg 1 < 65536 ∧ s.mbArg 2 % 4096 = 0 ∧ s.mbArg 2 + 2048 ≤ hbmEnd ∧ (jobAt s.pkg (s.mbArg 1)).isNone = true) ∧
    (let s := mailing [0x03, 1] bare
     Asked 0x03 s ∧ ((jobAt s.pkg 1).map fun j => (j.level.cancelled, j.level.counter)) = some (true, 0) ∧ s.jobCores 1 = [] ∧ s.pkg.saved.length = 0) ∧
    (let s := mailing [0x04, 1, 0xF0_0000_0000, 0x9200_0000, 65536, 14] bare
     Asked 0x04 s ∧ vaRangeOk (s.mbArg 2) (s.mbArg 4) = true ∧ paRangeOk (s.mbArg 3) (s.mbArg 4) = true ∧ pteBitsOk (s.mbArg 5) = true ∧
       rangeMapped s.pkg 0x4000_0000 (s.mbArg 2) (s.mbArg 4) = false ∧
       (mapRange 0x4000_0000 (s.mbArg 2) (s.mbArg 3) (s.mbArg 4) (s.mbArg 5) s.pkg).isSome = true) ∧
    (let s := mailing [0x05, 1, 0x8000_0000, 0x4000_0000] bare
     Asked 0x05 s ∧ vaRangeOk (s.mbArg 2) (s.mbArg 3) = true ∧ jobRoot s.pkg 1 = some 0x4000_0000 ∧ rangePinned s.pkg 0x4000_0000 (s.mbArg 2) (s.mbArg 3) = false ∧
       (unmapRange 0x4000_0000 (s.mbArg 2) (s.mbArg 3) s.pkg).isSome = true ∧ s.jobCores 1 = []) := by decide +kernel

theorem test_witness_JobCommands_contexts :
    (let s := mailing [0x07, 9] bare
     Asked 0x07 s ∧ obj9 ∈ s.pkg.objs ∧ obj9.handle = s.mbArg 1 ∧ objUnused s (s.mbArg 1) = true) ∧
    Asked 0x08 (mailing [0x08, 0] resting) ∧ Asked 0x09 (mailing [0x09, 0] resting) ∧ liveCore resting.pkg 0 = true ∧ (resting.parkedOn 0).isSome = true ∧
    [(none, none), (some 1, none), (some 1, some (snapshot Pkg.reset 0)), (some 1, some (snapshot Pkg.reset 2048))].all (fun q =>
      let s := sending 0x0C q.1 q.2
      decide (Asked 0x0C s) && (match peerArgs s with | .ok x => decide (x = (1, 511, [(0x8800_0000, 0x10_0000, 2048)])) | .error _ => false) &&
        decide (s.jobCores 1 = []) && !badRange s.pkg 0x8800_0000 2048) = true ∧
    [none, some (snapshot Pkg.reset 2048)].all (fun x =>
      let s := sending 0x0D none x
      decide (Asked 0x0D s) && jobIdle s 1 && (match peerArgs s with | .ok x => decide (x = (1, 511, [(0x8800_0000, 0x10_0000, 2048)])) | .error _ => false)) =
      true ∧
    jobIdle { sending 0x0D none none with core := base.core } 1 = false := by decide +kernel

/-- A page that MAP is asked for; the 1 GiB leaf that UNMAP is asked for; a LOAD of `image` into a job whose root table at 0xA000_0000 is empty. -/
def mapping : State := mailing [0x04, 1, 0xF0_0000_0000, 0x9200_0000, 65536, 14] bare
def unmapping : State := mailing [0x05, 1, 0x8000_0000, 0x4000_0000] bare
def loadingFirst : State :=
  mailing [0x06, 1, 0x8000_0000, 160] (bare.modPkg fun p => { writeBytes p 0x8000_0000 image with jobs := [(1, some { job1 with xroot := 0xA000_0000 })], objs := [] })

theorem test_witness_MappedPages :
    mapping.pkg.env.badLines = [] ∧ Asked 0x04 mapping ∧ jobRoot mapping.pkg (mapping.mbArg 1) = some 0x4000_0000 ∧ mapping.mbArg 4 = 2 ^ 16 ∧
    mapping.mbArg 2 % 2 ^ 16 = 0 ∧ mapping.mbArg 3 % 2 ^ 16 = 0 ∧ mapping.mbArg 2 + 2 ^ 16 ≤ 0xFF_FFFF_FFC0_0000 ∧
    paRangeOk (mapping.mbArg 3) (2 ^ 16) = true ∧ pteBitsOk (mapping.mbArg 5) = true ∧ rangeMapped mapping.pkg 0x4000_0000 (mapping.mbArg 2) (2 ^ 16) = false ∧
    isErr (walk mapping.pkg (some 0x4000_0000) (mapping.mbArg 2)) (.xlate 0) = true ∧ ApartOnWalk mapping.pkg 0x4000_0000 (mapping.mbArg 2) ∧
    WalkBelow mapping.pkg 0x4000_0000 (mapping.mbArg 2) (2 ^ 15) ∧ mapping.mbArg 3 + 2 ^ 16 ≤ hbmEnd ∧ (mapping.mbArg 5).testBit 2 = true ∧
    (mapping.mbArg 5).testBit 8 = false := by decide +kernel

theorem test_witness_MappedPages_unmap :
    unmapping.pkg.env.badLines = [] ∧ Asked 0x05 unmapping ∧ jobRoot unmapping.pkg (unmapping.mbArg 1) = some 0x4000_0000 ∧
    (match walk unmapping.pkg (some 0x4000_0000) (unmapping.mbArg 2) with
      | .ok l => decide (unmapping.mbArg 3 = 2 ^ l.shift ∧ unmapping.mbArg 2 % 2 ^ l.shift = 0 ∧ unmapping.mbArg 2 + 2 ^ l.shift ≤ 0xFF_FFFF_FFC0_0000 ∧
          l.pte.testBit 11 = false)
      | .error _ => false) = true ∧ ApartOnWalk unmapping.pkg 0x4000_0000 (unmapping.mbArg 2) ∧ unmapping.jobCores (unmapping.mbArg 1) = [] := by decide +kernel

theorem test_witness_MappedPages_load :
    loadingFirst.pkg.env.badLines = [] ∧ Asked 0x06 loadingFirst ∧ loadingFirst.mbArg 2 + loadingFirst.mbArg 3 ≤ hbmEnd ∧
    ((jobAt loadingFirst.pkg (loadingFirst.mbArg 1)).map fun j => j.xroot) = some 0xA000_0000 ∧
    (let img := readBytes loadingFirst.pkg (loadingFirst.mbArg 2) (loadingFirst.mbArg 3)
     ((jobAt loadingFirst.pkg 1).map fun j => (loadObject 1 j img loadingFirst).2.status) = some 0 ∧ (sectBytes img 1).length = 32 ∧
       [3, 4, 5, 6, 7].all (fun k => (sectBytes img k).isEmpty) = true ∧ sectList img 2 = []) ∧
    (∀ i, i < 2 ^ 11 → readByte loadingFirst.pkg (0xA000_0000 + i) = 0) ∧ 0xA000_0000 + 2 ^ 18 ≤ loadingFirst.pkg.mgmt.cursor ∧
    loadingFirst.pkg.mgmt.cursor ≤ hbmEnd ∧ loadingFirst.pkg.mgmt.loadVa % 2 ^ 16 = 0 ∧
    loadingFirst.pkg.mgmt.mbaddr + 2 ^ 18 ≤ loadingFirst.pkg.mgmt.cursor ∧ loadingFirst.pkg.mgmt.mbaddr + 168 ≤ 0xA000_0000 := by decide +kernel

/-! ### Witnesses: the clauses beside the main ones -/

def causeOf (c reason tstat : Nat) : CauseInfo :=
  { cause := c, slot := 0, gmask := 0, reason := reason, tl := 0, eng := 0, tlnum := 0, tstat := tstat }

/-- `s` with the beat of `pa` failing ECC. -/
def spoiled (pa : Nat) (s : State) : State := s.modPkg fun p => { p with env := { p.env with badLines := [pa / 32] } }

/-- PWAIT at an offset past the array, in the carve-out, over a bad word, and while a collective has yet to start; TLWAIT and PWAIT with a
false guard. -/
theorem test_witness_TimelineAndPrecisionWait_faults :
    (let i : Instr := .pwait h0 1 2
     ready h0 [i] (withG 0x30_0000 0) = true ∧ ready h0 [i] ((withG 0x2F_FFF0 0).modLsu fun l => { l with size := 4 }) = true ∧
     ((withG 0x2F_FFF0 0).modLsu fun l => { l with size := 4 }).core.carved 0x2F_FFF0 = true ∧
     ready h0 [i] (spoiled (arrayBase 0 + 0x100) (withG 0x100 0)) = true ∧
     badData (spoiled (arrayBase 0 + 0x100) (withG 0x100 0)).pkg (arrayBase 0 + 0x100) 8 = true ∧
     (let s := (withG 0x100 0).issueCmd 4 (.coll 0x300 2) 0x94
      ready h0 [i] s = true ∧ (atIssue i s).core.eng.cmds.any Cmd.counting = true)) ∧
    (let g : Head := { h0 with greg := 1, gpos := 0, gneg := true }
     Due (.tlwait g 0 2) base ∧ guardOf g (atIssue (.tlwait g 0 2) base).core = false ∧ Due (.pwait g 7 9) base) := by decide +kernel

theorem test_pwait_takes_memue_of_bad_word :
    (match exec (.pwait h0 1 2) (spoiled (arrayBase 0 + 0x100) (withG 0x100 0)) with
     | .next t => decide (t = trapped (spoiled (arrayBase 0 + 0x100) (withG 0x100 0)) (causeOf 5 0 0xFF_FFFF_FFC0_0100)) | _ => false) = true := by decide +kernel

/-- MCHK lands where its check fails; a replay whose step mismatches again, and under an action that is no replay. -/
def failing : State := (flying (.asstat 7 none)).modPkg fun p => { p with env := { p.env with mchkFail := [(0, 7)] } }
def withheldAgain (n : Nat) : State :=
  (withheld.modTrp fun t => { t with assay := some (pend (.stepI 7 3 true 1 1 [1] 5 false), n) }).modPkg fun p => { p with env := { p.env with mismatch := [(0, 7)] } }

theorem test_witness_ResultLands_check :
    stopped failing = false ∧ failing.core.sca.inflight = [pend (.asstat 7 none)] ∧ (failing.no, 7) ∈ failing.pkg.env.mchkFail ∧
      failing.pkg.env.mismatch = [] ∧
    (withheldAgain 1).core.trp.assay = some (pend (.stepI 7 3 true 1 1 [1] 5 false), 1) ∧ 1 < (withheldAgain 1).assayReplays ∧
      (withheldAgain 15).assayReplays ≤ 15 ∧ ((withheldAgain 15).no, 7) ∈ (withheldAgain 15).pkg.env.mismatch ∧
      (withheldAgain 15).core.trp.reports.length < 16 := by decide +kernel

/-- TLREAD and PCNT at the head of the load queue; a PCNT over a bad word, before and after it leaves the queue. -/
def loadingOp (op : QOp) : State := base.modLsu fun l => { l with loadQ := [qe op] }
def pcnt0 : QOp := .pcnt (arrayBase 0 + 0x100)

theorem test_witness_QueueEvents_reads :
    (loadingOp (.tlread 3)).mayDispatch false (qe (.tlread 3)) = true ∧ (loadingOp pcnt0).mayDispatch false (qe pcnt0) = true ∧
    badData (loadingOp pcnt0).pkg (arrayBase 0 + 0x100) 8 = false ∧ badData (spoiled (arrayBase 0 + 0x100) (loadingOp pcnt0)).pkg (arrayBase 0 + 0x100) 8 = true ∧
    (spoiled (arrayBase 0 + 0x100) (loadingOp pcnt0)).mayDispatch false (qe pcnt0) = true ∧
    inHand (accessing pcnt0) pcnt0 = true := by decide +kernel

/-- A fetch that fails while a cell load is under way. -/
theorem test_witness_BundleIssue_cell :
    (let s := base.modSca fun c => { c with pc := 0x100_0000_0000, cellStall := some 4 }
     Boundary s ∧ (match fetchBundle s with | .error _ => true | .ok _ => false) = true) := by decide +kernel

/-- FREG of a cell that is SUSPENDED or PENDING. -/
theorem test_witness_CellEvents_park :
    [CellState.suspended, .pending].all (fun st =>
      let op : QOp := .freg 0xC000_0040 0xC000_0040 0x8000_0000
      let s := (celled op 2 st).modPkg fun p => { p with launches := [(0, some (launchOf (card 5 1 2) 1 1))] }
      inHand s op && !badCell s.pkg 0xC000_0040 && isVal (s.read64 0x8000_0000) (2 * 2 ^ 27) && decide (cellAt s.pkg 0xC000_0040 = st) &&
        !cellSpec s.pkg 0xC000_0040 && !s.isEvaluator 0xC000_0040 && (launchAt s.pkg s.mySlot).isSome && (qe op).res && (qe op).bank.isNone) = true := by
  decide +kernel

/-- LAUNCH of a card of graph 3 in memory, and of one whose object is unknown; CANCEL of the own launch; MLOOK in a table of 64 places whose
bucket holds `r`, and in one of no size. -/
def launchingCard (bad : Bool) : State :=
  (accessing (.launch 0x8000_0000)).modPkg fun p => { writeNat p 0x8000_0000 64 ((card 5 1 0).toNat + 3 * 2 ^ 304 + b2n bad * 2 ^ 40) with
    objs := [obj9], launches := [(0, some (launchOf (card 5 1 2) 1 1))],
    graphs := [(3, some { job := 1, phase := 0, dc := [], counter := 0, cancelled := false, complete := false, ring := 0, seq := 0 })] }
def mlooking (r k : Nat) : State :=
  ((accessing (.mlook 5)).modTrp fun t => { t with methctl := BitVec.ofNat 64 (0x8000_1000 + k) }).modPkg fun p =>
    writeNat p (0x8000_1000 + 64 * (methBucket 6 0 5 0 0 0 0 % 64)) 64 r

theorem test_witness_TaskPerformed_launch :
    [false, true].all (fun bad =>
      let s := launchingCard bad
      inHand s (.launch 0x8000_0000) && (match s.read64 0x8000_0000 with | .ok v => cardOk s.pkg 3 (BitVec.ofNat 512 v) == !bad | .error _ => false) &&
        decide (((launchAt s.pkg s.mySlot).map fun m => (m.graph, m.cancelled)) = some (3, false)) && decide (s.core.trp.reports.length < 16) &&
        (graphAt s.pkg 3).isSome) = true ∧
    (let s := spawning (.cancel 0x8000_0000 0)
     inHand s (.cancel 0x8000_0000 0) = true ∧ ((launchAt s.pkg s.mySlot).map fun l => (l.complete, l.cancelled)) = some (false, false)) ∧
    [(0, 6), (2 ^ 31 + 5, 6), (2 ^ 31 + 6, 6), (0, 5)].all (fun x => inHand (mlooking x.1 x.2) (.mlook 5)) = true ∧
    isVal ((mlooking (2 ^ 31 + 5) 6).read64 (0x8000_1000 + 64 * (methBucket 6 0 5 0 0 0 0 % 64))) (2 ^ 31 + 5) = true ∧
    methMatch (2 ^ 31 + 5) 0 5 0 0 0 0 = true ∧ methMatch (2 ^ 31 + 6) 0 5 0 0 0 0 = false := by decide +kernel

theorem test_launch_lands_its_slot :
    (match exec (.accessPerformed 9) (launchingCard false) with
     | .next t => decide (((launchAt t.pkg 1).map fun l => (l.graph, l.job, l.counter)) = some (3, 1, 5) ∧
         t.core.sca.inflight.map (·.eff) = [.reg .s1 false 7 1]) | _ => false) = true := by decide +kernel

/-- One command without a number, whose marker is at the head of the store queue. -/
def marking (op : CmdOp) (more : List Cmd) (streams : List (Nat × Option Stream)) : State :=
  let k := cmdOf op 8 0x86 .marker
  let s := commanding k
  { s with core := { s.core with lsu := { s.core.lsu with storeQ := [qe (.marker 1)] }, eng := { s.core.eng with cmds := k :: more, streams } } }
def subOf (st : CmdSt) : Cmd := { hsubOf false with id := 2, st }

theorem test_witness_FillEvents_markers :
    [marking (.strm 0x100 7 true 255) [] [], marking (.strmx 5 7) [] [(7, some { desc := parseDesc (descNat 0x8000_0040 32 0 0), cc := true, depth := 2, p := 3 })],
      marking (.strmx 0 7) [] [], marking (.hrel 3) [subOf .run] [], marking (.hrel 3) [subOf .ended] []].all (fun s =>
      !stopped s && s.mayDispatch true (qe (.marker 1)) && decide ((s.core.eng.cmds.filter fun x => x.id == 1).length = 1) &&
        s.core.eng.cmds.all fun x => x.tl != 8 || x.id == 1 || x.st != .ready) = true ∧
    (match (marking (.strm 0x100 7 true 255) [] []).readDesc 0x100 with | .ok d => d.run | .error _ => 0) = 32 := by decide +kernel

theorem test_strmx_moves_its_stream :
    (match exec (.queueDispatch true) (marking (.strmx 5 7) [] [(7, some { desc := parseDesc (descNat 0x8000_0040 32 0 0), cc := true, depth := 2, p := 3 })]) with
     | .next t => decide ((fget none t.core.eng.streams 7).map (·.p) = some 8 ∧ t.core.eng.cmds.length = 0) | _ => false) = true := by decide +kernel

/-- PCANCEL at its marker, naming the descriptor at `a`, beside a collective. -/
def pcancelling (a : Double) (c : Cmd) (y : List Transfer) : State :=
  let k := { cmdOf (.pcancel a) 8 0x95 .marker with id := 2 }
  let s := collective c 8 y
  { s with core := { s.core with lsu := { s.core.lsu with storeQ := [{ qe (.marker 2) with id := 10 }] }, eng := { s.core.eng with cmds := [c, k] } } }
/-- A member in this package that sends to one in package 1, which has arrived. -/
def afar : Transfer := { transfer 8 [(0, 0, 4, 1)] [0] false with comm := [0, 2 ^ 10] }
def sendingAway : State :=
  let s := collective (runningColl 8 0) 8 [afar]
  let m : RemoteMsg := { since := 0, comm := [0, 2 ^ 10], addr := 0, xid := 7, rank := 1, what := .join (runningColl 8 0).sig [] }
  { s with pkg := { s.pkg with mgmt := { s.pkg.mgmt with peertab := [(1, BitVec.ofNat _ 0x8001)], linksUp := 2 }, env := { s.pkg.env with inbox := [m] } } }

theorem test_witness_CollectiveEvents_cancel :
    [(0x300, runningColl 8 0, [transfer 8 both [] false]), (0x140, runningColl 8 0, [transfer 8 both [] false]), (0x300, collOf .ready, [])].all (fun x =>
      let s := pcancelling x.1 x.2.1 x.2.2
      !stopped s && s.mayDispatch true { qe (.marker 2) with id := 10 } && decide (s.core.head 4 = some x.2.1) &&
        decide ((s.core.eng.cmds.filter fun c => match c.op with | .coll .. => true | _ => false) = [x.2.1]) &&
        decide ((s.core.eng.cmds.filter fun c => c.id == 2).length = 1) && !s.core.carved x.1.toNat && !badData s.pkg (arrayBase s.no + x.1.toNat) 64) = true ∧
    (let s := pcancelling 0x300 (runningColl 8 0) [transfer 8 both [] false]
     let x := readNat s.pkg (arrayBase s.no + 0x300) 64
     (runningColl 8 0).comm = x % 2 ^ 56 ∧ (runningColl 8 0).xid = x / 2 ^ 256 % 2 ^ 32 ∧ s.transferOf (runningColl 8 0) = some (transfer 8 both [] false) ∧
       s.ownOutside (0x300 + 56) 8 = false ∧ (runningColl 8 0).coff = 0x300) ∧
    (let c := runningColl 8 0
     !stopped sendingAway && decide (sendingAway.core.head 4 = some c) && decide (sendingAway.transferOf c = some afar) && (sendingAway.transferFault afar).isNone &&
       afar.paired && afar.ranks.all (sendingAway.arrived afar) && decide (c.u < c.srcTotal) && isOk (sendingAway.collRead ((c.csrc + c.u) % 2 ^ 56) 32) &&
       c.receivers.any fun r => wordPkg (nth afar.comm r) != sendingAway.pkg.mgmt.pkgNo) = true := by decide +kernel

theorem test_pcancel_freezes_and_ends :
    (match exec (.queueDispatch true) (pcancelling 0x300 (runningColl 8 0) [transfer 8 both [] false]) with
     | .next t => decide (readNat t.pkg (arrayBase 0 + 0x300 + 56) 8 = 2 ∧ t.pkg.transfers.map (·.cancelled) = [true]) | _ => false) = true := by decide +kernel

/-- RESTORE of a range whose tags at the peer fail. -/
theorem test_witness_JobCommands_badRange :
    (let s := (sending 0x0D none none).modPkg fun p => { p with env := { p.env with badTags := [(routed p (peerBase 511) + 0x10_0000) / 2048] } }
     Asked 0x0D s ∧ jobIdle s 1 = true ∧ badRange s.pkg (routed s.pkg (peerBase 511) + 0x10_0000) 2048 = true) ∧
    (let s := sending 0x0D none none
     badRange s.pkg (routed s.pkg (peerBase 511) + 0x10_0000) 2048 = false) ∧
    (let s := base.modMgmt fun m => { m with gtsSync := true, linksUp := 0x8000 }
     pkgLost s.pkg s.pkg.env.gtsMaster = false) ∧ 0 ∉ base.pkg.mgmt.portsDown := by decide +kernel

/-! ### Witnesses: encodings, storage, frames and invariants -/

theorem test_witness_RoundTrip :
    (Bundle.single (.addD .s1 h0 ro)).wf = true ∧ (Instr.addD .s1 h0 ro).wf = true := by decide +kernel

/-- An operation whose guard is false, and one of the listed majors that acts. -/
theorem test_witness_IssueFrame :
    (Instr.std hF (sto 3)).head? = some hF ∧ Boundary base ∧ base.core.sca.late = [] ∧ base.core.sca.spNext = none ∧
      base.core.sca.tretNow = false ∧ base.core.tab.wait = none ∧ base.core.trp.reentry = none ∧ Due (.std hF (sto 3)) base ∧ guardOf hF (atIssue (.std hF (sto 3)) base).core = false ∧
      (Instr.addD .s1 h0 ro).head? = some h0 ∧ (Instr.addD .s1 h0 ro).major? = some 0x02 ∧ ready h0 [.addD .s1 h0 ro] base = true ∧
      (match exec (.addD .s1 h0 ro) base with | .next _ => true | _ => false) = true := by decide +kernel

theorem test_witness_MemoryReadWrite : (fwf (0 : Half) base.pkg.tags && fwf false base.pkg.full && fwf CellState.value base.pkg.cells) = true ∧ Memory.wf base.pkg.mem := by
  decide +kernel

theorem test_witness_QueueStorage : (List.replicate 16 (0 : Word32)).length = 16 ∧ ((List.range 16).map fun i => (BitVec.ofNat 32 i)).length = 16 := by
  decide +kernel

theorem test_witness_StepKeepsCanonical :
    Memory.wf State.reset.pkg.mem ∧ (match step State.reset with | .next _ => true | _ => false) = true ∧
      (match step (coded (.addD .s1 h0 ro)) with | .next t => !t.core.sca.inflight.isEmpty | _ => false) = true := by decide +kernel

/-! ### Witnesses: what the table entries compute -/

/-- The format, shape and reserved fields of t1 in `tiled d`. -/
def desc1 (d : Nat) : Nat := (tiled d).core.descOf 0 1

theorem test_witness_EntryRoundTrip :
    Entry.nop.wf = true ∧ (Entry.elem .add 1 3 1 2 0).wf = true ∧ Entry.decode (Entry.elem .add 1 3 1 2 0).encode = some (.elem .add 1 3 1 2 0) := by
  decide +kernel

/-- A plain format; a tile of a scaled format with one group size and with the reserved one, a tag that names one; offsets of every alignment. -/
theorem test_witness_TileEntries :
    (7 : Nat) < 8 ∧ plainFmt 8 = true ∧ dFmt (desc1 (mkDesc 6 0 0 0 32 32)) = 6 ∧ dFmt (desc1 (mkDesc 0xC 0 0 1 32 32)) = 0xC ∧
    dGs (desc1 (mkDesc 0xC 0 0 1 32 32)) ≠ 3 ∧ dGs (desc1 (mkDesc 7 0 0 3 32 32)) = 3 ∧
    (fld 0x3004 11 5, fld 0x3004 2 2) = (6, 1) ∧ (0 : Nat) % 2048 = 0 ∧ (64 : Nat) % 2048 ≠ 0 ∧ (64 : Nat) % 64 = 0 := by decide +kernel

theorem test_witness_ElementEntries :
    ([1, 2, 3].all fun f => (fmtFF f).isSome && arithFmt f && wideFmt f) = true ∧ ([8, 0xA, 0x11].all fun f => (fmtFF f).isNone && arithFmt f) = true ∧
    shiftFmt 8 = true ∧ (31 : BitVec 5).toNat < fmtBits 8 ∧ (0 : Rat) < 1 := by decide +kernel

theorem test_witness_ReshapingEntries :
    arithFmt 1 = true ∧ (let d := desc1 (mkDesc 1 0 0 0 4 4); shapeBad d = false ∧ dFmt d = 1 ∧ 3 < dRows d ∧ 3 < dCols d ∧ dRows d * dCols d ≤ npos 1 ∧
      posOf d 3 3 < npos 1) ∧ arithFmt 8 = true ∧ (fmtFF 8).isNone = true ∧ shapeBad (desc1 (mkDesc 8 0 0 0 4 4)) = false ∧
    (flushIn false 1 0x7FC00000).isNan = true ∧ (flushIn false 1 0).isNan = false ∧ wideFmt 1 = true ∧
    (xmax (flushIn false 1 0) (flushIn false 1 0)).isNan = false ∧ xeq (flushIn false 1 0) (xmax (flushIn false 1 0) (flushIn false 1 0)) = true := by decide +kernel

/-- Conversions from FP32 to 8 bits, whose four source tiles begin at t28, and back; the sources of VDQ. -/
theorem test_witness_ReshapingEntries_conversions :
    plainFmt 4 = true ∧ plainFmt 1 = true ∧ (28 : BitVec 5).toNat + fmtBits 1 / fmtBits 4 ≤ 32 ∧ (3 : BitVec 3).toNat < 4 ∧ wideFmt 1 = true ∧
    (31 : BitVec 5).toNat + 1 ≤ 32 ∧ ([6, 7, 0xA, 0xB, 0xC, 0xD].all fun f => quantFmt f) = true ∧ (fmtFF 1).isSome = true ∧
    (2 : BitVec 2) ≠ 3 ∧ dFmt (desc1 (mkDesc 1 0 0 0 4 4)) = (1 : BitVec 5).toNat := by decide +kernel

/-- Tiles t1 of 4 by 4; the kinds of step, of rows of a step with structured sparsity, and of MRET. -/
theorem test_witness_MatrixEntries :
    (7 : Nat) < 8 ∧ isQi 2 = false ∧ isQi 0xC = true ∧ ((0xA : BitVec 5) == 0xA) = true ∧
    (let d := desc1 (mkDesc 1 0 0 0 4 4); 3 < dRows d ∧ 3 < dCols d) ∧ (30 : BitVec 5) ≠ 31 ∧ plainFmt 1 = true ∧ plainFmt 2 = true ∧
    (17 : BitVec 5).toNat + 1 > 16 := by decide +kernel

/-- TLDP with both pointers aligned; a score tile that fits; each kind of difference of VSMXS; groups of QI8 and QI4. -/
theorem test_witness_entries_more :
    (fmtFF 3).isSome = true ∧ wideFmt 3 = true ∧ (0x1000 : Nat) % 64 = 0 ∧ (0x100 : Nat) % 16 = 0 ∧ (0x1020 : Nat) % 64 ≠ 0 ∧
    (let d := desc1 (mkDesc 1 0 0 0 4 4); wideFmt (dFmt d) = true ∧ dRows d * dCols d ≤ npos 3 ∧ dRows d * dCols d ≤ npos 1) ∧
    flushIn false 1 0xFF800000 = .inf true ∧ (flushIn false 1 0).isNan = false ∧ (flushIn false 1 0x7FC00000).isNan = true ∧
    xsub (flushIn false 1 0x3F800000) (flushIn false 1 0x40400000) = .fin true ((2 : Nat) : Rat) ∧ (2 : Nat) ≤ 1000 ∧
    (2 : BitVec 2) ≠ 3 ∧ (24 : BitVec 5).toNat + fmtBits 1 / fmtBits 0xD ≤ 32 := by decide +kernel

/-- INT8 sums narrow to ±127 (R32): −100 + −100, and the least element of −128. -/
theorem test_int8_saturates_at_127 :
    ((planOf (.elem .add 0xA 3 1 1 0) 0 0 (base.modVec fun v => { v with descs := [(1, BitVec.ofNat 32 (mkDesc 0xA 0 0 0 8 256))], tiles := [(1, 0x809C)] }) base.core).effs.head?.map
      fun e => match e with | .tile _ _ v => v.toNat % 2 ^ 16 | _ => 0) = some 0x8181 := by decide +kernel

/-! ### Witnesses: the clauses of a statement beside its first ones -/

/-- Core 0's unit, of the record `rec9`, on its way out. -/
def goingL (how : Leave) (l : Launch) : State :=
  { base with
    core := { base.core with un := { base.core.un with st := .leaving how, recd := rec9, argIdx := some 3 } }
    pkg := { base.pkg with clk := 7, launches := [(0, some { l with grants := [(0, [2, 3])] })], objs := [obj9] } }
def going (how : Leave) : State := goingL how (launchOf (card 5 1 0) 5 5)
def ways : List Leave := [.suspend 0x2C2C 0x1040, .finish 9, .killed { cause := 5, slot := 1, gmask := 0, reason := 0, tl := 0, eng := 0, tlnum := 0, tstat := 0 } 0x1000 0x1020 0]
/-- A report of cause 14: deferred or not, of command `cmd`, from engine `eng`. -/
def reportOf (deferred : Bool) (cmd eng : Nat) : Report :=
  { info := { cause := 14, slot := 3, gmask := 0, reason := 7, tl := 0, eng, tlnum := 1, tstat := 0 }, tbun := 0x1000, gts := 0, ord := 1, deferred, cmd }
def reporting (s : State) (r : Report) : State := s.modTrp fun t => { t with reports := [r] }
/-- The evaluator of the PENDING cell, whose copy is pool entry 5. -/
def evaluating : State :=
  ((going (.finish 9)).modUn fun u => { u with evalOf := some 0xC000_0040, pool := 5 }).modPkg fun p =>
    { writePending p 0xC000_0040 5 0 0 0 0 false false with pool := [(5, some { PoolEntry.fresh 9 0 with evalOf := some 0xC000_0040 })] }
def still (s : State) : Bool :=
  decide (s.core.sca.inflight = [] ∧ s.core.trp.assay = none ∧ s.core.trp.reentry = none ∧ s.core.sca.cellStall = none) && (reportDue s).isNone &&
    decide (s.core.lsu.loadQ = [] ∧ s.core.lsu.storeQ = [] ∧ s.core.lsu.outst = [] ∧ s.core.lsu.ackcnt = 0 ∧ s.core.eng.cmds = [] ∧ s.core.eng.armed = [] ∧
      s.core.lsu.ingress = [] ∧ s.core.trp.resumeLeave = none)

theorem test_witness_TaskInstructionIssue_turns :
    ways.all (fun how => let s := going how
      !stopped s && decide (s.core.un.st = .leaving how) && still s && !s.cancelled 0 && decide (recLslot s.core.un.recd = 0) && (launchAt s.pkg 0).isSome) = true ∧
    ((launchAt (goingL (.suspend 0 0x1040) { launchOf (card 5 1 0) 5 5 with cancelled := true }).pkg 0).map fun l => l.cancelled) = some true ∧
    ((going (.finish 9)).modSca fun c => { c with inflight := [pend (.base 31 5)] }).core.sca.inflight ≠ [] ∧
    ((going (.finish 9)).modLsu fun l => { l with outst := [qe .chunk] }).core.lsu.outst ≠ [] ∧
    [reportOf false 0 1, reportOf true 0 5, reportOf false 7 1].all (fun r => decide (reportDue (reporting (going (.finish 9)) r) = some r)) = true ∧
    (let s := (going (.finish 9)).modTrp fun t => { t with reentry := some { recs := bankOne.recs, rem := 3, start := 0 } }
     s.core.trp.reentry ≠ none ∧ s.core.sca.hold ≤ s.clk ∧ s.core.trp.assay = none) ∧
    still evaluating = true ∧ cellAt evaluating.pkg 0xC000_0040 = .pending ∧ cellSdone evaluating.pkg 0xC000_0040 = false ∧
    cellEvid evaluating.pkg 0xC000_0040 = evaluating.core.un.pool ∧ (copyAt evaluating.pkg 0xC000_0040 5).isSome = true ∧
    chainOf evaluating.pkg 0xC000_0040 = [] := by decide +kernel

/-- An evaluator whose FINISH leaves its cell PENDING: the evaluation fails, and the cell is SUSPENDED again. -/
theorem test_finish_fails_the_evaluation :
    (match exec .bundleIssue evaluating with
     | .next t => decide (t.core.un.st = .idle ∧ cellAt t.pkg 0xC000_0040 = .suspended ∧ ((launchAt t.pkg 0).map fun l => l.counter) = some 4) | _ => false) = true := by
  decide +kernel

/-- Of the interval's samples nothing is known: they are the model's free value. -/
theorem test_witness_CarveOutControl_interval :
    (∃ n hits top, Config.samples adapting.takeFree.1 = (n, hits, top)) ∧ stopped adapting = false ∧ adapting.core.lsu.adapt = true ∧
    adapting.core.lsu.adaptFrom + 65536 ≤ adapting.clk ∧ adapting.core.lsu.move = none ∧
    (adapting.modLsu fun l => { l with move := some { fromCode := 1, toCode := 0, fin := 70000 } }).core.lsu.move =
      some { fromCode := 1, toCode := 0, fin := 70000 } := ⟨⟨_, _, _, rfl⟩, by decide +kernel⟩

/-- The buffer of `flushing` holds 64 writes. -/
def full64 (st : CoreSt) : State :=
  { flushing with core := { flushing.core with un := { flushing.core.un with st }, lsu := { flushing.core.lsu with ingress := List.replicate 64 { pa := arrayBase 0 + 0x100, bytes := [1], port := 0 } } } }
/-- The pre-emption of a unit with a result and a table-verification flag in flight, and accesses queued. -/
def preempting : State :=
  (outranked.modSca fun c => { c with inflight := [{ pend (.base 31 5) with due := 2 ^ 22 + 3 }, { pend (.asstat 7 none) with due := 2 ^ 22 + 4 }] }).modLsu fun l =>
    { l with loadQ := [qe .chunk], storeQ := [{ qe .chunk with bank := some 1 }] }

theorem test_witness_BoundaryEvents_reports :
    [CoreSt.running, .leaving (.finish 0)].all (fun st => let s := full64 st
      decide (s.core.lsu.ingressFull = some 0 ∧ 0 + 2 ^ 20 ≤ s.clk ∧ s.core.un.st = st ∧ s.core.trp.assay = none ∧ s.core.sca.hold ≤ s.clk ∧ s.core.lsu.ingress.length ≤ 64)) = true ∧
    [reportOf true 0 0, reportOf false 1 1, reportOf true 0 5].all (fun r => let s := reporting (commanding (cmdOf (.qpush 0x400 7 3 true) 0 0x89 .failed)) r
      decide (reportDue s = some r) && atBoundary issueSem fetchBundle s && !s.core.trp.stepDue && !stopped s && s.core.eng.cmds.any fun c => c.id == 1) = true ∧
    [Leave.suspend 0 0, .finish 0, .cellWait 0x1020 5].all (fun how => let s := reporting (going how) (reportOf true 0 0)
      decide (reportDue s = some (reportOf true 0 0) ∧ s.core.sca.inflight = [] ∧ s.core.trp.reentry = none ∧ s.core.sca.cellStall = none)) = true ∧
    (let s := reporting (base.modTrp fun t => { t with reentry := some { recs := [pend (.base 31 5), { pend (.base 3 5) with due := 4 }], rem := 3, start := 0 } }) (reportOf true 0 5)
     reportDue s = some (reportOf true 0 5) ∧ atBoundary issueSem fetchBundle s = true) ∧
    preempting.core.trp.preemptDue = true ∧ preempting.mayPreempt = true ∧ reportDue preempting = none ∧ atBoundary issueSem fetchBundle preempting = true ∧
    preempting.core.sca.inflight.length = 2 := by decide +kernel

/-- A cell load that waits in the bundle of a TRET's bank; the bank's load and the one that the trap finds. -/
theorem test_witness_TrapEntry_cellStall :
    (let s := ((trapped' 1).modTrp fun t => { t with bank1 := { bankOne with cellStall := some 9 } }).modLsu fun l => { l with outst := [qe (.load 0xC000_0040 0xC000_0040 8 true true false true)] }
     ready h0 [.tret h0] s = true ∧ s.core.trp.level = 0 + 1 ∧ s.core.trp.bank1.cellStall = some 9 ∧
       (s.core.lsu.loadQ ++ s.core.lsu.outst).any (fun e => e.id == 9) = true) ∧
    (base.modSca fun c => { c with cellStall := some 9 }).core.sca.cellStall = some 9 ∧ (base.modSca fun c => { c with cellStall := some 9 }).core.trp.level < 2 := by
  decide +kernel

def cellLd : QOp := .load 0xC000_0078 0xC000_0078 8 true true false true
/-- The load of `cellLd` by a unit whose trap level `l` holds its record, and by the evaluator of its cell. -/
def bankedLoad (l : Nat) : State :=
  ((celled cellLd 0 .suspended).modLsu fun x => { x with outst := [{ qe cellLd with bank := some l }] }).modTrp fun t => { t with bank1 := { t.bank1 with tepc := 0x1020 } }
def ownLoad : State :=
  let s := celled cellLd 1 .pending
  s.modUn fun u => { u with evalOf := some 0xC000_0040, pool := cellEvid s.pkg 0xC000_0040 }

theorem test_witness_CellEvents_errors :
    [0, 1, 2].all (fun l => let s := bankedLoad l
      !stopped s && decide (s.core.lsu.outst.find? (fun x => x.id == 9) = some { qe cellLd with bank := some l }) && !s.isEvaluator 0xC000_0078 && !badCell s.pkg 0xC000_0078 &&
        decide (cellAt s.pkg 0xC000_0078 = .suspended ∧ s.pkg.pool.length < 2 ^ 27 ∧ s.no < 576)) = true ∧
    inHand ownLoad cellLd = true ∧ cellAt ownLoad.pkg 0xC000_0078 ≠ .value ∧ ownLoad.core.un.evalOf = some (0xC000_0078 / 64 * 64) ∧
    cellEvid ownLoad.pkg 0xC000_0078 = ownLoad.core.un.pool ∧ ownLoad.core.trp.reports.length < 16 ∧ badCell ownLoad.pkg 0xC000_0078 = false ∧
    (let op : QOp := .cellmk 0xC000_0040 0xC000_0040 0x8000_0000 false
     inHand (celled op 1 .pending) op = true ∧ cellAt (celled op 1 .pending).pkg 0xC000_0040 = .pending ∧ (celled op 1 .pending).core.trp.reports.length < 16) ∧
    (let op : QOp := .resolve 0xC000_0040 0xC000_0040 0x8000_0000
     inHand (celled op 1 .value) op = true ∧ (qe op).since + 2 ≤ (celled op 1 .value).clk ∧ isVal ((celled op 1 .value).read64 0x8000_0000) (2 ^ 27) = true ∧
       cellAt (celled op 1 .value).pkg 0xC000_0040 = .value) := by decide +kernel

/-- A launch that is over, whose FUT is a cell of a peer that cannot be reached, first found so at clk `since`. -/
def futLost (since : Option Nat) : State :=
  let l : Launch := { launchOf (BitVec.ofNat 512 ((card 5 1 0).toNat + 0xD000_0040 * 2 ^ 384)) 5 0 with lost := since }
  let s := launching l
  { s with pkg := { writeNat s.pkg 0x4000_2018 8 (peerBase 0 + 0x8F) with mgmt := { s.pkg.mgmt with peertab := [(0, 0x8001)] }, clk := 2 ^ 26 } }

/-- A fresh unit's record whose object has no table image; the FUT of a launch that waits, whose time is not yet over, and one in reach. -/
theorem test_witness_WorkEvents_unreached :
    (match (waiting none).pick with | some (n, q, u) => (u.imageLost n q).isNone | none => false) = true ∧
    [none, some 1].all (fun since => let s := futLost since
      match launchAt s.pkg 4 with
      | some l => !l.complete && decide (l.counter = 0 ∧ s.clk < l.lost.getD s.clk + 2 ^ 26) && s.dealt l && (match s.futPlace l with
        | some pa => peerLost s.pkg pa && isPeer pa | none => false)
      | none => false) = true ∧
    (launching (launchOf (card 5 1 0) 5 0)).futPlace (launchOf (card 5 1 0) 5 0) = none ∧
    (launching (launchOf (card 5 1 0) 0 5)).argsLost 1 4 0x8000_0000 = false := by decide +kernel

/-- A descriptor of `cnt` runs, `st` bytes apart. -/
def runsNat (base run st cnt ctl : Nat) : Nat := descNat base run ctl 0 + (cnt + st * 2 ^ 24) * 2 ^ 64
/-- Copy `k` running with bytes read and bytes to be written, its destination the runs of `runsNat`. -/
def copying (k : Nat) (src dst : Nat) (t u : Nat) (ib ob : List Byte) : Cmd :=
  { copyOf k .run with src := some (parseDesc src), dst := some (parseDesc dst), t, u, inbuf := ib, outbuf := ob }
/-- A header of four beats, of which beats 0 and 2 are stored, with tag 77. -/
def cmpHead : List Byte := leBytes 32 (5 + 77 * 2 ^ 64 + 3 * 2 ^ 80) ++ List.replicate 64 1

/-- Runs of 12 bytes, 16 apart, two of which lie in one beat; 32 runs that share one byte; a plain read; a slot's tag read; the transforms of codes 6, 4
and 5; slots written in whole and in part. -/
theorem test_witness_CopyEvents_data :
    [copying 0 (descNat 0x8000_0040 48 0 0) (runsNat (own 0x204) 12 16 4 0) 0 0 [] (List.replicate 40 1),
      copying 7 0 (runsNat (own 0x206) 1 0 40 0) 0 0 [] []].all (fun c =>
        let s := commanding c
        match c.op, c.dst with
        | .copy k .., some d => headIs c && (pushDue c d).isNone && decide (c.t < d.len) && !d.fe && !d.syncen && (match s.streamVa k true c d c.t with
          | .ok (va, c0) => let ps := (s.beatPieces k d (va / 32) 32 c.t c0).1
            decide (1 < ps.length) && (match s.engXl true (k == 5) va with
              | .ok x => isArray x.pa && ps.all (fun p => tagged (x.pa / 32 * 32 + p.1 % 32)) && (k == 7 || decide ((ps.map Prod.snd).sum ≤ c.outbuf.length))
              | .error _ => false)
          | .error _ => false)
        | _, _ => false) = true ∧
    [copying 0 (descNat 0x8000_0008 4096 0 0) (descNat (own 0x800) 4096 0 0) 0 5 [] [], copying 3 (descNat (own 0x1000) 4096 0 0) (descNat (own 0x800) 4096 0 0) 0 2048 [] []].all
      (fun c => let s := commanding c
        match c.op, c.src, c.dst with
        | .copy k .., some sd, some d => headIs c && (match digest k 8 8 s c sd (d.len - c.t - c.outbuf.length) with | .more => true | _ => false) &&
          decide (c.u < sd.len) && !sd.fe && !sd.cach && (match s.streamVa k false c sd c.u with
            | .ok (va, c2) => (fget [] c2.beats (va / 32)).isEmpty && isOk (s.engRead1 (k == 4) (32 * (va / 32)) 32) && (match s.engXl false false va with
              | .ok g => !badTag s.pkg g.pa | .error _ => false)
            | .error _ => false)
        | _, _, _ => false) = true ∧
    [copying 6 (descNat 0x8000_0008 4096 0 0) (descNat (own 0x800) 4096 0 0) 0 5 (List.replicate 5 3) [],
      copying 4 (descNat 0x8000_0000 4096 0 0) (descNat (own 0x800) 4096 0 0) 0 96 cmpHead [],
      copying 5 (descNat (own 0x800) 4096 0 0) (descNat (own 0x4000) 4096 0 0) 0 2048 (List.replicate 2048 0) []].all (fun c => headIs c && decide (c.outbuf = [])) = true ∧
    (let h := leNat (cmpHead.take 32)
     h / 2 ^ 88 = 0 ∧ h / 2 ^ 80 % 2 ^ 8 + 1 = 4 ∧ h % 2 ^ 64 / 2 ^ 4 = 0 ∧ 32 * (1 + popc 64 (h % 2 ^ 64)) = cmpHead.length) ∧
    (let c := copying 5 (descNat (own 0x800) 4096 0 0) (descNat (own 0x4000) 4096 0 0) 0 2048 (List.replicate 2048 0) []
     ((commanding c).blockSlot (parseDesc (descNat (own 0x800) 4096 0 0)) 0 2048).isSome = true ∧
       (commanding c).blockSlot (parseDesc (descNat (own 0x804) 4096 0 0)) 0 2048 = none) := by decide +kernel

theorem test_witness_CopyEvents_ends :
    (let c := { copying 3 0 (descNat (own 0x800) 4096 0x4000 0) 4096 0 [] [] with slots := [(arrayBase 0 / 2048 + 1, BitVec.allOnes 2048), (arrayBase 0 / 2048 + 2, 7)] }
     let d := parseDesc (descNat (own 0x800) 4096 0x4000 0)
     headIs c = true ∧ c.t = d.len ∧ pushDue c d = none ∧ c.closed = false ∧ d.qeos = false ∧ (c.slots.map Prod.fst).Nodup ∧ d.th = 1) ∧
    (let c := copyOf 1 .run
     let sd := parseDesc (descNat 0x8000_0040 32 0 0)
     c.idx = none ∧ sd.fe = false ∧ fget [] c.beats ((sd.aux + 4 * (40 / sd.run)) % 2 ^ 56 / 32) = [] ∧
       isOk ((commanding c).engRead1 false (32 * 0x400_0002) 32) = true) := by decide +kernel

/-- A piece of a beat written once and a byte of two runs' one beat: each byte lands where its run puts it. -/
theorem test_copy_gathers_a_beat :
    (match exec (.copyBeatTransfer 3) (commanding (copying 0 (descNat 0x8000_0040 48 0 0) (runsNat (own 0x204) 12 16 4 0) 0 0 [] ((List.range 40).map fun i => BitVec.ofNat 8 i))) with
     | .next t => decide ((readByte t.pkg (arrayBase 0 + 0x20F)).toNat = 11 ∧ (readByte t.pkg (arrayBase 0 + 0x214)).toNat = 12 ∧ t.core.eng.cmds.map (·.t) = [24]) | _ => false) = true := by
  decide +kernel

/-- A collective whose descriptor has a source that is not aligned, where another member of its transfer has arrived. -/
def misstarted : State :=
  let s := collective (collOf .ready) 8 [transfer 8 [(1, 1, 4, 1)] [] false]
  s.modPkg fun p => writeNat p (arrayBase 0 + 0x300) 64 (collNat 8 + 2 ^ 64)

theorem test_witness_CollectiveEvents_fails :
    (let c := collOf .ready
     let s := misstarted
     let x := s.own c.coff 64
     let c1 : Cmd := { c with aux := [x, 0, 2], startClk := s.clk }
     !stopped s && decide (s.core.head 4 = some c) && (match s.readTable (x % 2 ^ 56) with | .ok ws => decide (ws = [0, 1]) | .error _ => false) &&
       decide (ranksOf s.pkg [0, 1] s.no = [0]) && decide (collStatic c1 (s.countersCarved c1) = some (15, 0)) &&
       decide (s.partyOf c1 x (some [0, 1]) = some (transfer 8 [(1, 1, 4, 1)] [] false)) && !s.core.dying && !s.core.trp.acttab.getLsbD 0) = true ∧
    (let s := pcancelling 0x300 (collOf .ready) [transfer 8 [(1, 1, 4, 1)] [] false]
     let x := readNat s.pkg (arrayBase s.no + 0x300) 64
     s.mayDispatch true { qe (.marker 2) with id := 10 } = true ∧ s.core.head 4 = some (collOf .ready) ∧ (collOf .ready).coff = 0x300 ∧
       (match s.readTable (x % 2 ^ 56) with | .ok ws => decide (ws = [0, 1]) | .error _ => false) = true ∧
       s.partyOf (collOf .ready) x (some [0, 1]) = some (transfer 8 [(1, 1, 4, 1)] [] false)) := by decide +kernel

/-- A doorbell back at HEAD: the card that was due and its window are dropped. -/
theorem test_doorbell_back_at_head :
    (match exec (.sqtailWrite 15 2) (awaiting (some 1)) with
     | .next t => decide ((ringOf t.pkg 15).tail = 2 ∧ (ringOf t.pkg 15).first = none) | _ => false) = true ∧ (ringOf (awaiting (some 1)).pkg 15).en = true ∧
      sub32 (2 % 2 ^ 32) (ringOf (awaiting (some 1)).pkg 15).head ≤ 2 ^ (ringOf (awaiting (some 1)).pkg 15).logsz := by decide +kernel

/-- CKPT or RESTORE over two ranges, of 4,096 and 2,048 bytes. -/
def ranging (op : Nat) (quiesced : Option Nat) (streaming : Option Streaming) : State :=
  (mailing [op, 1, 511, 0x8000_0000, 2, 0x10_0000] (bare.modPkg fun p =>
    writeNat (writeNat (writeNat (writeNat p 0x8000_0000 8 0x8800_0000) 0x8000_0008 8 4096) 0x8000_0010 8 0x8900_0000) 0x8000_0018 8 2048)).modMgmt fun m =>
    { m with quiesced, streaming, linksUp := 1, peertab := [(511, 0x8001)] }
/-- A core that runs a unit of the job held still, or keeps one frozen, or one parked that finds no area. -/
def heldOn (st : CoreSt) : State :=
  let s := ranging 0x0C (some 1) none
  { s with core := { s.core with un := { s.core.un with st, job := 1 } } }

theorem test_witness_JobCommands_ranges :
    [0x0C, 0x0D].all (fun op => let s := ranging op (if op = 0x0C then some 1 else none) (some (snapshot Pkg.reset 4096))
      decide (Asked op s) && (match peerArgs s with | .ok x => decide (x = (1, 511, [(0x8800_0000, 0x10_0000, 4096), (0x8900_0000, 0x10_1000, 2048)])) | .error _ => false) &&
        (op == 0x0C || jobIdle s 1) && !badRange s.pkg (routed s.pkg (peerBase 511) + 0x10_1000) 2048) = true ∧
    (let i : CauseInfo := { cause := 5, slot := 1, gmask := 0, reason := 0, tl := 0, eng := 0, tlnum := 0, tstat := 0 }
     [(CoreSt.running, false), (.frozen (.park i 0) i, true), (.leaving (.park i 0), true)].all fun x =>
       decide ((heldOn x.1).jobCores 1 = [0]) && (heldOn x.1).atRest 0 == x.2 && decide (Asked 0x0C (heldOn x.1))) = true ∧
    (∀ st, (heldOn st).pkg.mgmt.quiesced = some 1 ∧ (heldOn st).pkg.mgmt.streaming.isNone = true) := by
  refine ⟨by decide +kernel, by decide +kernel, fun _ => ⟨rfl, rfl⟩⟩

/-! ### Witnesses: a context is saved and restored

The area lies in the data page of `tabled`, whose tables no write to the area touches; so every section is written and read whatever it
holds. -/

/-- The tables of `tabled` stand, and the unit is of its job and no evaluator. -/
def Tabled (s : State) : Prop :=
  s.root = some 0x4000_0000 ∧ s.pkg.env = Env.reset ∧ s.core.un.evalOf = none ∧ ∀ a, 0x4000_0000 ≤ a → a < 0x4000_3000 → readByte s.pkg a = readByte tabled a

theorem Tabled.pte {s : State} (h : Tabled s) {a : Nat} (h0 : 0x4000_0000 ≤ a) (h1 : a + 8 ≤ 0x4000_3000) : readNat s.pkg a 8 = readNat tabled a 8 := by
  unfold readNat readBytes
  rw [fgetN_eq, fgetN_eq]
  congr 1
  exact List.map_congr_left fun i hi => h.2.2.2 (a + i) (by omega) (by have := List.mem_range.1 hi; omega)

theorem Tabled.walk {s : State} (h : Tabled s) {va : Nat} (h0 : 0x8000_0000 ≤ va) (h1 : va < 0xC000_0000) :
    walk s.pkg s.root va = .ok { pte := 0x8000_000F, shift := 30, addr := 0x4000_2010 } := by
  have b (a n : Nat) : badData s.pkg a n = false := by simp [badData, h.2.1, Env.reset]
  have f0 : fld va 48 8 = 0 := by unfold fld; omega
  have f1 : fld va 39 9 = 0 := by unfold fld; omega
  have f2 : fld va 30 9 = 2 := by unfold fld; omega
  have r0 : readNat s.pkg 0x4000_0000 8 = 0x4000_1001 := (h.pte (by omega) (by omega)).trans (by decide +kernel)
  have r1 : readNat s.pkg 0x4000_1000 8 = 0x4000_2001 := (h.pte (by omega) (by omega)).trans (by decide +kernel)
  have r2 : readNat s.pkg 0x4000_2010 8 = 0x8000_000F := (h.pte (by omega) (by omega)).trans (by decide +kernel)
  have e0 : fld 0x4000_1001 12 40 * 4096 = 0x4000_1000 := by decide
  have e1 : fld 0x4000_2001 12 40 * 4096 = 0x4000_2000 := by decide
  have m0 : (bit 0x4000_1001 0, pteMalformed 0x4000_1001 48 false false, bit 0x4000_1001 1) = (true, false, false) := by decide
  have m1 : (bit 0x4000_2001 0, pteMalformed 0x4000_2001 39 false false, bit 0x4000_2001 1) = (true, false, false) := by decide
  have m2 : (bit 0x8000_000F 0, pteMalformed 0x8000_000F 30 true false, bit 0x8000_000F 1) = (true, false, true) := by decide
  simp only [Prod.mk.injEq] at m0 m1 m2
  rw [h.1]
  simp only [Machine.walk, walkLevels, walkFrom, f0, f1, f2, b, Nat.mul_zero, Nat.add_zero, r0, m0, List.isEmpty_cons, Bool.not_true, Bool.false_eq_true, if_false, e0,
    r1, m1, e1, show 0x4000_2000 + 8 * 2 = 0x4000_2010 from rfl, r2, m2, if_true]

theorem Tabled.reachXl {s : State} (h : Tabled s) (store : Bool) {va : Nat} (h0 : 0x8000_0000 ≤ va) (h1 : va < 0xC000_0000) :
    s.reachXl store false va = .ok { pa := va, nc := false, dev := false, cell := false, cmp := false, pin := false } := by
  have hv : va56 va = va := Nat.mod_eq_of_lt (by omega)
  have hl : ¬ localEnd ≤ va := by unfold localEnd; omega
  have ho : localOff va = none := by unfold localOff localBase; rw [hv]; simp only [if_neg (show ¬(0xFF_FFFF_FFC0_0000 ≤ va ∧ va < localEnd) by omega)]
  have hp : fld 0x8000_000F 12 40 * 4096 + fld va 0 30 = va := by
    rw [show fld 0x8000_000F 12 40 = 0x8_0000 by decide]; unfold fld; omega
  have hr : regionOf va = .hbm := by unfold regionOf hbmEnd; rw [if_pos (by omega)]
  have hf : pageFault (if store then .store else .load) 32 .hbm 0x8000_000F = none := by cases store <;> decide
  have hb : bit 0x8000_000F 10 = false ∧ bit 0x8000_000F 9 = false ∧ bit 0x8000_000F 7 = false ∧ bit 0x8000_000F 8 = false ∧ bit 0x8000_000F 11 = false := by
    decide
  simp only [State.reachXl, translateCmp, hv, hl, ho, h.walk h0 h1, hp, hr, unroutedPeer, routed, carvedAt, hf, hb, lostTarget, peerLost,
    Bool.false_eq_true, if_false, or_self, and_false, reduceCtorEq]

theorem Tabled.engXl {s : State} (h : Tabled s) (store : Bool) {va : Nat} (h0 : 0x8000_0000 ≤ va) (h1 : va < 0xC000_0000) :
    s.engXl store false va = .ok { pa := va, nc := false, dev := false, cell := false, cmp := false, pin := false } := by
  have hout : s.outside va va = false := by unfold State.outside; rw [h.2.2.1]; split <;> first | rfl | (split <;> rfl)
  simp only [State.engXl, State.anyXl, h.reachXl store h0 h1, hout, Bool.and_false, Bool.false_and, Bool.false_eq_true, if_false]

theorem tabled_mapped : Mapped Tabled 0x9000_0000 0xC000_0000 where
  top := by omega
  store := fun {s va} hp h0 h1 => by
    refine ⟨_, hp.reachXl true (by omega) h1, fun bs hb hl => ⟨?_, ?_, ?_, ?_⟩⟩
    all_goals simp only [State.writePhysBytes, show regionOf va = .hbm by unfold regionOf hbmEnd; rw [if_pos (by omega)]]
    · exact hp.1
    · exact hp.2.1
    · exact hp.2.2.1
    · intro a ha hb
      exact (readByte_writeBytes_other s.pkg va bs (Or.inl (by omega))).trans (hp.2.2.2 a ha hb)
  load := fun {s va} hp h0 h1 => ⟨_, hp.engXl false (by omega) h1, fun n => by simp [badData, hp.2.1, Env.reset]⟩
  clean := fun {s} hp off => by simp [State.saveError, lowest, hp.2.1, Env.reset]

/-- CTXPOOL: two areas of 0x45 units of 64 KiB at 0x9000_0000. -/
def pool2 : Double := BitVec.ofNat 64 (0x45 * 2 ^ 56 + 0x9000 * 2 ^ 16 + 2)
def someCause : CauseInfo := { cause := 5, slot := 1, gmask := 0, reason := 0, tl := 0, eng := 0, tlnum := 0, tstat := 0 }
/-- The unit of `base` on its way out. -/
def leaving (how : Leave) : State :=
  { base with core := { base.core with un := { base.core.un with st := .leaving how }, trp := { base.core.trp with ctxpool := pool2 } } }

theorem test_witness_ContextSave (how : Leave) :
    stopped (leaving how) = false ∧ (leaving how).core.un.st = .leaving how ∧ ∃ u v w, (leaving how).drainIngress.saveReady = some u ∧
      (leaving how).freeArea = some 0 ∧
      saveSections (poolBase u.core.trp.ctxpool + 0 * poolSize u.core.trp.ctxpool) (poolSize u.core.trp.ctxpool) (0x44_0040 + u.core.recordArea.length)
        u.sections u = (v, none) ∧
      saveBytes 2 (poolBase u.core.trp.ctxpool + 0 * poolSize u.core.trp.ctxpool + 0x44_0000) (leBytes 8 (2 ^ 63 + 1)) v = (w, none) := by
  have hu : Tabled (leaving how).drainIngress.endFills.advanceAll := ⟨rfl, rfl, rfl, fun _ _ _ => rfl⟩
  have hf : (leaving how).freeArea = some 0 := show (leaving .preempt).freeArea = some 0 by decide +kernel
  have e0 : poolBase pool2 + 0 * poolSize pool2 = 0x9000_0000 := by decide
  have e1 : poolSize pool2 = 0x45_0000 := by decide
  have ep : (leaving how).drainIngress.endFills.advanceAll.core.trp.ctxpool = pool2 := rfl
  have er : (leaving how).drainIngress.endFills.advanceAll.core.recordArea = [] := rfl
  obtain ⟨v, hv, hv'⟩ := tabled_mapped.saveSections_ok 0x9000_0000 0x45_0000 0x44_0040 (by omega) (by omega) (leaving how).drainIngress.endFills.advanceAll.sections _ hu
    (sections_fit _ (by rw [er]; simp))
  obtain ⟨w, hw, -⟩ := tabled_mapped.saveBytes_ok 2 (0x9000_0000 + 0x44_0000) (leBytes 8 (2 ^ 63 + 1)) v hv' (by omega) (by simp)
  refine ⟨rfl, rfl, _, v, w, rfl, hf, ?_, ?_⟩
  · rw [ep, e0, e1, er]; exact hv
  · rw [ep, e0]; exact hw

/-- A context of job 1 saved in area 0, whose record waits on the run list of the idle core 0. -/
def contextRec (saved : Option Nat) : QRec := { qrec none with saved }
def savedContext : Saved := { area := 65536, core := 0, job := 1, parked := false, info := someCause, tbun := 0 }
def oldCore : Core := { base.core with trp := { base.core.trp with ctxpool := pool2 } }
def returning (l : List QRec) : State :=
  { base with
    core := { Core.reset with un := { UnitSt.reset with runList := l } }
    pkg := { base.pkg with saved := [(savedContext, oldCore)], objs := [obj9] } }

/-- What a restore writes into a core's array and its tables leaves the page tables. -/
theorem Tabled.restored {s : State} (h : Tabled s) (bs : List Byte) (x : Nat) (tb : Tab) :
    let b := s.modPkg fun p =>
      let p := writeBytes p (arrayBase s.no) bs
      let p := { p with full := fput false p.full (arrayBase s.no / 128) ((List.range 24576).map fun i => bit x i) }
      { p with tags := fput 0 p.tags (arrayBase s.no / 2048) ((List.range 1536).map fun i => BitVec.ofNat 16 (fld x (24576 + 16 * i) 16)) }
    Tabled { b with core := { b.core with tab := tb } } := by
  refine ⟨h.1, h.2.1, h.2.2.1, fun k h0 h1 => ?_⟩
  show readByte (writeBytes s.pkg (arrayBase s.no) bs) k = _
  rw [readByte_writeBytes_other s.pkg (arrayBase s.no) bs (Or.inl (by unfold arrayBase arraysBase; omega))]
  exact h.2.2.2 k h0 h1

theorem Tabled.readScratch {s : State} (h : Tabled s) :
    ∃ b, readScratch s 0x9000_0000 = .ok b ∧ ∀ tb, Tabled { b with core := { b.core with tab := tb } } := by
  obtain ⟨bs, x, hb⟩ := tabled_mapped.readScratch_ok h 0x9000_0000 (by omega) (by omega)
  exact ⟨_, hb, h.restored bs x⟩

theorem test_witness_ContextRestore :
    stopped (returning [contextRec (some 65536)]) = false ∧
    ∃ u a b c new, (returning [contextRec (some 65536)]).pick = some (0, contextRec (some 65536), u) ∧ u.no = 0 ∧ (contextRec (some 65536)).saved = some 65536 ∧
      u.pkg.saved.find? (fun x => x.1.area == 65536) = some (savedContext, oldCore) ∧
      (returning [contextRec (some 65536)]).core.lsu.move = none ∧
      new.trp.resumeLeave = none ∧ a = u.modUn (fun n => { n with job := savedContext.job }) ∧
      a.readArea (poolBase oldCore.trp.ctxpool + savedContext.area % 65536 * poolSize oldCore.trp.ctxpool + 0x43_1000) 8 = .ok 0 ∧
      (returning [contextRec (some 65536)]).core.lsu.size = min 0 4 ∧
      readContext a (poolBase oldCore.trp.ctxpool + savedContext.area % 65536 * poolSize oldCore.trp.ctxpool) oldCore = .ok (b, new) ∧
      saveBytes 2 (poolBase oldCore.trp.ctxpool + savedContext.area % 65536 * poolSize oldCore.trp.ctxpool + 0x44_0000) (leBytes 8 1) b = (c, none) := by
  have e0 : poolBase oldCore.trp.ctxpool + savedContext.area % 65536 * poolSize oldCore.trp.ctxpool = 0x9000_0000 := by decide
  have hp : (returning [contextRec (some 65536)]).pick = some (0, contextRec (some 65536), returning []) := by decide +kernel
  have ha : Tabled ((returning []).modUn fun n => { n with job := savedContext.job }) := ⟨rfl, rfl, rfl, fun _ _ _ => rfl⟩
  obtain ⟨b, hb, hk⟩ := ha.readScratch
  obtain ⟨vec, hv⟩ := tabled_mapped.readGroups_ok ha 0x9000_0000 (by omega) (by omega) (List.range 8) oldCore.vec (by decide)
  obtain ⟨tb, ht⟩ := tabled_mapped.readTables_ok ha 0x9000_0000 ((returning []).modUn fun n => { n with job := savedContext.job }).core.tab (by omega) (by omega)
  have w : ctxWords.length < 0x1000 := by decide +kernel
  have r : oldCore.recordArea.length = 0 := by decide +kernel
  obtain ⟨x, hx⟩ := tabled_mapped.readArea_ok ha (0x9000_0000 + 0x43_1000) (8 * ctxWords.length) (by omega) (by omega)
  obtain ⟨y, hy⟩ := tabled_mapped.readArea_ok ha (0x9000_0000 + 0x44_0000) (64 + oldCore.recordArea.length) (by omega) (by omega)
  obtain ⟨c, hc, -⟩ := tabled_mapped.saveBytes_ok 2 (0x9000_0000 + 0x44_0000) (leBytes 8 1) _ (hk tb) (by omega) (by simp)
  have es : ((returning []).modUn fun n => { n with job := savedContext.job }).readArea (0x9000_0000 + 0x43_1000) 8 = .ok 0 := by
    show _ = Except.ok 0; rfl
  have e2 : (returning []).pkg.saved.find? (fun x => x.1.area == 65536) = some (savedContext, oldCore) := by decide +kernel
  refine ⟨rfl, returning [], (returning []).modUn fun n => { n with job := savedContext.job }, { b with core := { b.core with tab := tb } }, c,
    (({ oldCore with vec := vec } : Core).withRecords (y / 2 ^ 512)).withCtx x, hp, rfl, rfl, e2, rfl, (withCtx_resumeLeave ..).trans rfl, rfl, ?_⟩
  rw [e0]
  refine ⟨es, rfl, ?_, hc⟩
  simp only [readContext, hb, hv, ht, hx, hy, bind_ok, map_ok]

/-! ### Witnesses: causes whose action entry is away, and what waits for it -/

/-- `s` with its action table on a page of a peer that cannot be reached, or, with the host ports down, of the host. -/
def awayAt (host : Bool) (s : State) : State :=
  (s.modTrp fun t => { t with acttab := 0xC000_0001 }).modPkg fun p =>
    { writeNat p 0x4000_2018 8 ((if host then 0xA_0000_0000_0000 else peerBase 0) + 0xF) with
      mgmt := { p.mgmt with peertab := [(0, 0x8001)], portsDown := [0, 1] } }
def raisedOf (c since : Nat) : Raised := { info := causeOf c 0 0, tbun := 0x1000, reported := false, since }
def raising (host : Bool) (clk : Nat) : State :=
  ((awayAt host base).modTrp fun t => { t with raised := some (raisedOf 1 0) }).modPkg fun p => { p with clk }

theorem test_witness_PreciseCauseAction_away :
    [false, true].all (fun h => (match (awayAt h base).actLost 1 with | some pa => isPeer pa == !h | none => false) && ((awayAt h base).actLost 22).isNone) = true ∧
    [(false, 0), (false, 2 ^ 26 - 1), (false, 2 ^ 26), (true, 2 ^ 26)].all (fun x => let s := raising x.1 x.2
      !stopped s && decide (s.core.un.st = .running ∧ s.core.trp.raised = some (raisedOf 1 0)) && (s.actLost 1).isSome) = true ∧
    (base.modTrp fun t => { t with raised := some (raisedOf 1 0) }).actLost 1 = none := by decide +kernel

/-- The wait at a peer is over: the default of cause 1 is taken. -/
theorem test_action_entry_away_takes_default :
    (match exec .bundleIssue (raising false (2 ^ 26)) with
     | .next t => decide (t.core.trp.raised = none) && (match t.core.un.st with | .leaving (.killed i ..) => i.cause == 1 | _ => false) | _ => false) = true := by
  decide +kernel

theorem test_witness_AssayStopAndReplay_away :
    (let s := awayAt false doubted
     stopped s = false ∧ s.actLost 13 ≠ none ∧ s.core.sca.inflight = [pend (.stepI 7 3 true 1 1 [1] 5 false)]) ∧
    doubted.actLost 13 = none ∧ noReplay.actLost 13 = none ∧ withheld.core.trp.assayAsks = false ∧ (withheldAgain 1).actLost 13 = none ∧
    (let w := withheld.modTrp fun t => { t with assayAsks := true }
     w.core.trp.assayAsks = true ∧ w.actLost 13 = none ∧ (awayAt false w).actLost 13 ≠ none ∧ w.core.un.lost = [] ∧ 0 < w.assayReplays) := by
  decide +kernel

/-- A load that returns while a step is replayed; the same without. -/
theorem test_witness_AccessPerformed_assay :
    (let op : QOp := .load 0x8000_0040 0x8000_0040 8 true false false true
     let s := { withheld with core := { withheld.core with lsu := { withheld.core.lsu with outst := [qe op] } } }
     inHand s op = true ∧ s.core.trp.assay ≠ none ∧ (accessing op).core.trp.assay = none ∧ peerLost s.pkg 0x8000_0040 = false ∧
       badData s.pkg 0x8000_0040 8 = false) := by decide +kernel

/-- A cached load whose line the cache holds, and does not hold. -/
def cached (hit : Bool) : State :=
  (loadingOp (.load 0x8000_0048 0x8000_0048 8 true false false false)).modLsu fun l =>
    { l with size := 8, cache := if hit then [(0x100_0000, some (0x100_0000, 7 * 2 ^ (8 * 0x48)))] else [] }

theorem test_witness_QueueEvents_cached :
    [true, false].all (fun h => let e := qe (.load 0x8000_0048 0x8000_0048 8 true false false false)
      !stopped (cached h) && (cached h).mayDispatch false e && ((cached h).core.lsu.hit 0x8000_0048 0x8000_0048).isSome == h && e.res && !e.dead &&
        e.bank.isNone && (cached h).core.trp.assay.isNone && (cached h).core.eng.cmds.isEmpty) = true := by decide +kernel

theorem test_cached_load_lands :
    (match exec (.queueDispatch false) (cached true) with
     | .next t => decide (t.core.sca.inflight.map (·.eff) = [.reg .s1 false 7 7] ∧ t.core.lsu.outst = []) | _ => false) = true := by decide +kernel

theorem test_witness_BoundaryEvents_away :
    (let s := awayAt false reported
     ((reportDue s).map fun r => (r.info.cause, r.cmd)) = some (14, 0) ∧ s.actLost 14 ≠ none ∧ reported.actLost 14 = none ∧
       atBoundary issueSem fetchBundle s = true ∧ s.core.trp.stepDue = false ∧ stopped s = false ∧ s.core.un.st = .running) ∧
    (reporting (going (.finish 0)) (reportOf true 0 0)).core.trp.raised = none := by decide +kernel

/-! ### Witnesses: cells whose state fails, a resolution that was killed -/

/-- `s` with the state bits of the cell at 0xC000_0040 failing ECC. -/
def stateFails (s : State) : State := s.modPkg fun p => { p with env := { p.env with badCells := [0xC000_0040 / 64] } }

theorem test_witness_CellEvents_bad :
    [QOp.cellmk 0xC000_0040 0xC000_0040 0x8000_0000 false, .cellmk 0xC000_0040 0xC000_0040 0 true, .specev 0xC000_0040 0xC000_0040 0,
      .freg 0xC000_0040 0xC000_0040 0x8000_0000, .resolve 0xC000_0040 0xC000_0040 0x8000_0000].all (fun op =>
      let s := stateFails (celled op 1 .suspended)
      inHand s op && badCell s.pkg 0xC000_0040 && decide ((qe op).since + 2 ≤ s.clk ∧ s.core.trp.reports.length < 16) && isVal (s.read64 0x8000_0000) (2 ^ 27) &&
        !badCell (celled op 1 .suspended).pkg 0xC000_0040 && !badData (celled op 1 .suspended).pkg 0xC000_0040 64) = true ∧
    (let op : QOp := .freg 0xC000_0040 0xC000_0040 0x8000_0000
     badData (celled op 2 .value).pkg 0xC000_0040 8 = false) ∧
    (let op : QOp := .resolve 0xC000_0040 0xC000_0040 0x8000_0000
     badCell (parkedOnCell op).pkg 0xC000_0040 = false ∧ badData (parkedOnCell op).pkg 0xC000_0040 64 = false) ∧
    badCell (armedOn .value).pkg 0xC000_0040 = false ∧
    (let s := (armedOn .value).modEng fun e => { e with armed := e.armed.map fun a => { a with dead := true } }
     (s.core.eng.armed.map (·.dead)) = [true] ∧ cellAt s.pkg 0xC000_0040 = .value) ∧ peerLost evaluating.pkg 0xC000_0040 = false := by decide +kernel

/-- SPECEV of a cell whose state fails: MEMUE, and no evaluator. -/
theorem test_specev_of_bad_state :
    (let op : QOp := .specev 0xC000_0040 0xC000_0040 0
     match exec (.cellOperation 9) (stateFails (celled op 1 .suspended)) with
     | .next t => decide (t.core.trp.reports.map (fun r => (r.info.cause, r.info.tstat)) = [(5, 0xC000_0040)] ∧ t.core.lsu.outst = [] ∧ cellAt t.pkg 0xC000_0040 = .suspended) | _ => false) = true := by
  decide +kernel

/-! ### Witnesses: copies that write -/

/-- A destination of runs of 16 bytes, the first two 32 apart, the next two between them. -/
def sharing (ctl : Nat) : Nat := runsNat (own 0x200) 16 32 2 ctl + (2 + 16 * 2 ^ 24) * 2 ^ 128 + own 0x600 * 2 ^ 384
/-- The write a copy makes next: the pieces, the bytes kept for the same beat with them, and whether they wait. -/
def writeOf (k : Nat) (c : Cmd) (s : State) : Option (Nat × Nat × Bool) :=
  match c.dst with
  | none => none
  | some d => match s.streamVa k true c d c.t with
    | .error _ => none
    | .ok (va, c0) =>
      let (ps, c1) := if d.fe then ([(va, min (d.len - c.t) (min (d.run - c.t % d.run) 128))], c0) else s.beatPieces k d (va / 32) 32 c.t c0
      let out := if c.outbuf.length < pieceBytes ps then cutPieces c.outbuf.length ps else ps
      let here := (c.parts ++ partsOf c.t out (c.outbuf.take (pieceBytes out))).filter fun p => p.va / 32 == va / 32
      some (pieceBytes out, here.length, (s.keepParts k d (va / 32) here (c.t + pieceBytes out) c1).1)
def shared (ctl t : Nat) : Cmd :=
  { copying 0 (descNat 0x8000_0040 64 0 0) (sharing ctl) t 64 [] (List.replicate (64 - t) 1) with
    parts := if t = 0 then [] else [{ t := 0, va := own 0x200, bytes := List.replicate 16 2 }, { t := 16, va := own 0x220, bytes := List.replicate 16 3 }] }

theorem test_witness_CopyEvents_shared :
    [(0, 0, (16, 1, true)), (0, 32, (16, 2, false)), (2 ^ 13, 32, (16, 2, false))].all (fun x =>
      let c := shared x.1 x.2.1
      let s := commanding c
      headIs c && (pushDue c (parseDesc (sharing x.1))).isNone && decide (writeOf 0 c s = some x.2.2) && decide (c.t < (parseDesc (sharing x.1)).len) &&
        (match s.engXl true false (own 0x200) with | .ok y => isArray y.pa | .error _ => false) &&
        (match s.syncPa (own 0x600) with | .ok p => !badData s.pkg p 16 && decide (readNat s.pkg (p + 8) 8 % 2 ^ 48 + 32 < 2 ^ 48) | .error _ => false)) = true ∧
    -- the source is shorter than the destination's beat
    (let c := copying 0 (descNat 0x8000_0040 8 0 0) (descNat (own 0x200) 32 0 0) 0 8 [] (List.replicate 8 1)
     headIs c = true ∧ writeOf 0 c (commanding c) = some (8, 1, false) ∧ c.outbuf.length < 32 ∧ (parseDesc (descNat 0x8000_0040 8 0 0)).len ≤ c.u ∧
       (match digest 0 8 8 (commanding c) c (parseDesc (descNat 0x8000_0040 8 0 0)) 24 with | .more => true | _ => false) = true) := by decide +kernel

/-- The second half of a shared beat goes with the first, in one write, which the sync word counts once. -/
theorem test_copy_writes_shared_beat_once :
    (match exec (.copyBeatTransfer 3) (commanding (shared (2 ^ 13) 32)) with
     | .next t => decide ((readByte t.pkg (arrayBase 0 + 0x20F)).toNat = 2 ∧ (readByte t.pkg (arrayBase 0 + 0x21F)).toNat = 1 ∧
         readNat t.pkg (arrayBase 0 + 0x608) 8 = 32 ∧ t.core.eng.cmds.map (fun c => (c.t, c.parts.length)) = [(48, 1)]) | _ => false) = true := by decide +kernel

/-- A copy to or from full/empty lines at array offset 0x400, whose line is full or empty. -/
def lineCopy (out full : Bool) : State :=
  let c := if out then copying 0 (descNat 0x8000_0040 128 0 0) (descNat (own 0x400) 128 (2 ^ 12) 0) 0 128 [] (List.replicate 128 1)
    else copying 0 (descNat (own 0x400) 128 (2 ^ 12) 0) (descNat (own 0x800) 128 0 0) 0 0 [] []
  (commanding c).modPkg fun p => setFullN p (arrayBase 0 + 0x400) 1 full

theorem test_witness_CopyEvents_lines :
    [(true, true), (true, false), (false, true), (false, false)].all (fun x =>
      let s := lineCopy x.1 x.2
      !stopped s && (match s.core.head 3 with
        | some c => (match c.src, c.dst with
          | some sd, some d => (pushDue c d).isNone && decide (c.parts = []) && !d.syncen && (d.fe == x.1) && (sd.fe == !x.1) && decide (c.t < d.len) &&
            (match s.streamVa 0 x.1 c (if x.1 then d else sd) 0 with
              | .ok (va, _) => decide (va % 32 = 0) && (match s.engXl x.1 false va with
                | .ok g => isArray g.pa && decide (g.pa % 128 = 0) && (fullAt s.pkg g.pa == x.2) && !s.claimedAt g.pa && isOk (s.engRead1 false va 128)
                | .error _ => false)
              | .error _ => false)
          | _, _ => false)
        | none => false)) = true := by decide +kernel

/-- A copy that has written all, whose queue (3) has room or is full; the one whose token waits; one record of CPYZ to flush, and its length word. -/
def ending (n : Nat) (closed : Bool) : State :=
  let d := descNat (own 0x200) 32 (2 ^ 10 + 3 * 2 ^ 8 + 2 ^ 7) 0
  let c := { copying 0 (descNat 0x8000_0040 32 0 0) d 32 32 [] [] with pushed := 1, closed }
  (commanding c).modEng fun e => { e with iq := [(3, List.replicate n .eos)] }
def recordDone (parts : List Part) : State :=
  let c := { copying 5 (descNat (own 0x800) 2048 0 0) (descNat 0xC000_4000 4096 0 0 + own 0x600 * 2 ^ 448) 40 2048 [] [] with parts }
  (commanding c).modPkg fun p => writeNat p 0x4000_2018 8 (0xC000_0000 + 0x10F)

theorem test_witness_CopyEvents_tokens :
    (parseDesc (descNat (own 0x200) 32 (2 ^ 10 + 3 * 2 ^ 8 + 2 ^ 7) 0)).qeos = true ∧
    [(31, false), (32, false), (31, true)].all (fun x => let s := ending x.1 x.2
      !stopped s && (match s.core.head 3 with
        | some c => (match c.dst with
          | some d => (pushDue c d).isNone && decide (c.t = d.len ∧ c.closed = x.2) && (c.slotsLost s.pkg).isNone &&
            decide (((s.coreAt (c.qcore.getD s.no)).iqueue d.qsel).length = x.1)
          | none => false)
        | none => false)) = true ∧
    [[], [{ t := 8, va := 0xC000_4020, bytes := [1] }]].all (fun ps => let s := recordDone ps
      !stopped s && isOk (s.engXl true true 0xC000_4020) && isOk (s.engXl true false (own 0x600)) && (match s.core.head 3 with
        | some c => (match c.src, c.dst with
          | some sd, some d => (pushDue c d).isNone && (c.slotsLost s.pkg).isNone && !c.closed && decide (c.u = sd.len ∧ c.parts = ps) && !d.syncen && !d.fe
          | _, _ => false)
        | none => false)) = true := by
  decide +kernel

/-! ### Witnesses: collectives, UNLOAD, entries -/

/-- A transfer that a cancel has opened before its member met it. -/
def openedOnly : Transfer := transfer 8 [] [] true

theorem test_witness_CollectiveEvents_opened :
    (let c := collOf .ready
     [[], [transfer 8 [(1, 1, 4, 1)] [] false]].all (fun y => decide (((collective c 8 y).dropOpened c).pkg.transfers = y)) = true ∧
       c.aux = [] ∧ (runningColl 8 0).slotsLost (collective (runningColl 8 0) 8 []).pkg = none ∧
       ((collective (runningColl 8 0) 8 [openedOnly]).dropOpened (runningColl 8 0)).pkg.transfers = []) ∧
    (let s := pcancelling 0x300 (collOf .ready) []
     let x := readNat s.pkg (arrayBase s.no + 0x300) 64
     s.partyOf (collOf .ready) x (some [0, 1]) = none ∧ ranksOf s.pkg [0, 1] s.no = [0] ∧
       (match s.readTable (x % 2 ^ 56) with | .ok ws => decide (ws = [0, 1]) | .error _ => false) = true ∧
       (let u := spoiled 0x8000_1000 s
        u.mayDispatch true { qe (.marker 2) with id := 10 } = true ∧ isOk (u.readTable (x % 2 ^ 56)) = false ∧
          u.partyOf (collOf .ready) x none = none)) := by decide +kernel

/-- A member that has not met its transfer is cancelled: a transfer is open for those that come later. -/
theorem test_pcancel_opens_a_transfer :
    (match exec (.queueDispatch true) (pcancelling 0x300 (collOf .ready) []) with
     | .next t => (match t.pkg.transfers with
       | [y] => decide (y.comm = [0, 1] ∧ y.xid = 7 ∧ y.cancelled = true ∧ y.cancelClk = some (2 ^ 32) ∧ y.members = [])
       | _ => false) | _ => false) = true := by
  decide +kernel

/-- UNLOAD of object 9 over 64 KiB at 0x8000_0000, while a unit of its job runs with an access there in progress, or none; and its wait. -/
def unloading (l : List QEntry) (rs : List (Nat × Nat × Nat)) : State :=
  mailing [0x07, 9] ((((bare.modPkg fun p => { p with objs := [{ obj9 with ranges := [(0x8000_0000, 65536)] }] }).modLsu fun x =>
    { x with outst := l, utlb := [0x8000, 0xC000] }).modUn fun u => { u with st := .running, job := 1 }).modMgmt fun m => { m with unmapping := rs })

theorem test_witness_JobCommands_unload :
    [[], [qe (.store 0x8000_0040 0x8000_0040 8 3 false)]].all (fun l =>
      let s := unloading l []
      decide (Asked 0x07 s ∧ s.pkg.mgmt.unmapping = []) && objUnused s 9 && decide (s.jobCores 1 = [0]) && ((s.coreAt 0).touches 0x8000_0000 65536 == !l.isEmpty) &&
        (let u := unloading l [(1, 0x8000_0000, 65536)]
         decide (Asked 0x07 u) && (u.pkg.mgmt.unmapping.any u.rangeTouched == !l.isEmpty))) = true := by decide +kernel

theorem test_unload_waits_for_accesses :
    (match exec .unload (unloading [qe (.store 0x8000_0040 0x8000_0040 8 3 false)] []) with
     | .next t => decide (t.core.lsu.utlb = [0xC000] ∧ t.pkg.mgmt.busy = true ∧ t.pkg.objs.length = 0) | _ => false) = true := by decide +kernel

theorem test_witness_ReshapingEntries_factor :
    xsub (flushIn false 1 0xFF800000) (flushIn false 1 0x40400000) = .inf true ∧ xeq (flushIn false 1 0x3F800000) (flushIn false 1 0x40400000) = false ∧
    xmax (flushIn false 1 0x3F800000) (flushIn false 1 0x40400000) = flushIn false 1 0x40400000 ∧ (0x08 : Nat) ≤ nth [8, 12, 16, 24, 32] 0 := by decide +kernel

/-- A package that is halted and loses its second die has failed. -/
theorem test_second_loss_fails_halted_package :
    (match exec (.dieLoss 3) (base.modPkg fun p => { p with live := [0, 1, 2, 3, 4, 5, 6, 7], mgmt := { p.mgmt with pstate := 3 } }) with
     | .next t => decide (t.pkg.mgmt.pstate = 2 ∧ t.pkg.live = [0, 1, 2, 4, 5, 6, 7]) | _ => false) = true := by decide +kernel

/-! ### Results

Each expected value is one the spec states: an example, or a value worked out from the rule named. -/

/-- R88, of its text: −2^31 / −1 in the .W form, −2^63 · −2^63 in the high half; and −7 / 3 and −7 rem 3, toward zero. -/
theorem test_div_most_negative : landedBy (.divW .s0 h0 ro) (withG 0x8000_0000 (-1)) = some 0xFFFF_FFFF_8000_0000 := by decide +kernel
theorem test_rem_most_negative : landedBy (.remD .s0 h0 ro) (withG (2 ^ 63) (-1)) = some 0 := by decide +kernel
theorem test_mulh_most_negative : landedBy (.mulhD .s0 h0 ro) (withG (2 ^ 63) (2 ^ 63)) = some 0x4000_0000_0000_0000 := by decide +kernel
theorem test_div_toward_zero : landedBy (.divD .s1 h0 ro) base = some (-2) ∧ landedBy (.remD .s1 h0 ro) base = some (-1) := by decide +kernel
/-- R88: an unsigned .W result has its bit 31 repeated. -/
theorem test_divu_word_extends : landedBy (.divuW .s0 h0 ro) (withG 0xFFFF_FFFE 1) = some 0xFFFF_FFFF_FFFF_FFFE := by decide +kernel
theorem test_add_word_wraps : landedBy (.addW .s0 h0 ro) (withG 0x7FFF_FFFF 1) = some 0xFFFF_FFFF_8000_0000 := by decide +kernel

/-- R98, its example: `bfxu g7, g2, 12, 5` of 0x1_F000. -/
theorem test_bfxu : landedBy (.bfxu .s0 h0 { dst := 7, wbs := false, srcA := 2, pos := 12, wid := 4 }) (withG 0 0x1F000) = some 0x1F := by decide +kernel

/-- R38, its examples: ties, a subnormal, saturation, overflow to infinity and to the largest number, and an integer. -/
theorem test_round_bf16 : roundTo 2 .rne (decodeF .fp32 0x3F80_8000) = 0x3F80 ∧ roundTo 2 .rne (decodeF .fp32 0x3F81_8000) = 0x3F82 := by decide +kernel
theorem test_round_e4m3 : roundTo 4 .rne (.fin false (5 / 1000)) = 3 ∧ roundTo 4 .rne (.fin false 500) = 0x7E := by decide +kernel
theorem test_round_fp16 : roundTo 3 .rne (.fin false 70000) = 0x7C00 ∧ roundTo 3 .rtz (.fin false 70000) = 0x7BFF := by decide +kernel
theorem test_round_fp32 : roundTo 1 .rne (.fin false 16777217) = 0x4B80_0000 := by decide +kernel
theorem test_decode_e4m3 : roundTo 1 .rne (elemValue 4 0xC5) = 0xC050_0000 ∧ roundTo 1 .rne (elemValue 5 0x3A) = 0x3F40_0000 := by decide +kernel

/-- R41, its example: the generator's next two states. -/
theorem test_lfsr : lfsrNext 1 = 0x8020_0003 ∧ lfsrNext 0x8020_0003 = 0xC030_0002 := by decide +kernel

/-- R46, its example: three products summed exactly, where FP32 additions in sequence would give 1.0. -/
theorem test_step_sum :
    accumF 0 (stepSum [.fin false 1, .fin false (1 / 2 ^ 24), .fin false (1 / 2 ^ 24), .fin true (1 / 2 ^ 50)]) = 0x3F80_0001 := by decide +kernel

/-- R47: an integer sum saturates. -/
theorem test_accum_saturates : accumI 0x7FFF_FFFF 5 = 0x7FFF_FFFF ∧ accumI 0x8000_0000 (-5) = 0x8000_0000 := by decide +kernel

/-- R309, its example: the second of two units of one launch takes ten bytes. -/
def unitWords (i p : Nat) : List Word32 :=
  ([0x6100_0005, 0x7C31_9A02, 0x140, 0x0002_0009, i, p].map (BitVec.ofNat 32)) ++ List.replicate 10 0
theorem test_queue_entries :
    (deltaEntry (List.replicate 16 0) (unitWords 0 0x0040_0000)).length = 22 ∧
    (deltaEntry (List.replicate 16 0) (unitWords 0 0x0040_0000)).take 6 = [0x2F, 0, 5, 0, 0, 0x61] ∧
    deltaEntry (unitWords 0 0x0040_0000) (unitWords 1 0x0040_0800) = [0x30, 0, 1, 0, 0, 0, 0, 8, 0x40, 0] := by decide +kernel

/-- R116: the home of an address with nine live dies, and with die 4 lost. -/
theorem test_home_die : homeDie Pkg.reset 0xD000 = some 4 ∧ homeDie { Pkg.reset with live := [0, 1, 2, 3, 5, 6, 7, 8] } 0xC000 = some 5 := by decide +kernel

/-- R251: COUNT passes TARGET twice, so the generation goes up by two and the rest stays. -/
theorem test_sync_generations :
    (let p := syncAdd (writeNat Pkg.reset 0x100 8 (7 * 2 ^ 48 + 64)) 0x100 150
     readNat p 0x100 8 = 9 * 2 ^ 48 + 64 ∧ readNat p 0x108 8 = 22) := by decide +kernel

/-- FIPS 180-4 for R81, and the check value of CRC-32C for R360. -/
theorem test_sha384 :
    beNat (sha384 [0x61, 0x62, 0x63]) = 0xcb00753f45a35e8bb5a03d699ac65007272c32ab0eded1631a8b605a43ff5bed8086072ba1e7cc2358baeca134c825a7 := by
  decide +kernel
theorem test_crc32c : crc32c ([0x31, 0x32, 0x33, 0x34, 0x35, 0x36, 0x37, 0x38, 0x39] : List Byte) = 0xE306_9283 := by decide +kernel

/-- R343, R41: a write of zero to RNGS0 stores 1, at the end of its bundle. -/
theorem test_mts_rngs : (match exec (.mts .s0 h0 0x008 9) base with | .next t => t.readSpr 0x008 | _ => 0) = 1 := by decide +kernel

/-- R331, R333, R334: INTDIV0 of slot S0 with an action entry that forwards to 0x2000: the cause word, TEPC, the dividend, the level, the pc. -/
def divided : Host.Outcome State Fault Refusal := exec (.divD .s0 h0 { ro with srcB := 9 }) ((acting (0x2000 + 3) 0).modTrp fun t => { t with bank1 := .reset })
theorem test_trap_entry :
    (match divided with | .next t => (t.core.trp.level, t.core.sca.pc, t.core.trp.bank1.tepc.toNat, t.core.trp.bank1.tcause.toNat) | _ => (9, 0, 0, 0)) =
      (1, 0x2000, 0x1000, 1) := by decide +kernel
theorem test_trap_status :
    (match divided with | .next t => (t.core.trp.bank1.tstat, t.core.trp.bank1.tbun.toNat, t.core.trp.bank1.tsave) | _ => (0, 0, 0)) = (-7, 0x1000, 0) := by
  decide +kernel
/-- R324, R334: the cause word of a double resolution, as the spec writes it out. -/
theorem test_cause_word :
    causeWord { cause := 18, slot := 1, gmask := 0, reason := 0, tl := 0, eng := 5, tlnum := 0, tstat := 0 } = 0xA000_0052 := by decide +kernel
/-- R331: with no action table INTDIV0 kills the unit. -/
theorem test_default_kill :
    (match exec (.divD .s0 h0 { ro with srcB := 9 }) base with | .next t => (match t.core.un.st with | .leaving (.killed i _ _ _) => i.cause | _ => 0) | _ => 0) =
      1 := by decide +kernel

/-- R104: the placed instruction is fetched and runs as the first step after reset. -/
theorem test_first_step :
    (match step (State.reset.withFetchWord 48 (encodeSlot (.addiD .s0 h0 { dst := 3, wbs := false, srcA := 0, imm := 5 }))) with
     | .next t => (t.core.sca.inflight.map fun x => x.eff) | _ => []) = [.reg .s0 false 3 5] := by decide +kernel

end Sys2Proof.Tests
end

namespace Sys2Proof.Machine

/-! PROOF. The events of the package as a whole (R16, R371 to R373, R377, R379). The long one is the loss of a die: `State.vitals` is what
its outcome is stated in, and every operation that it runs is shown to keep it, but for the clearing of the lost cores. -/

/-! ### What the loss of a die leaves in place -/

/-- The live dies and the state of the package. -/
def Pkg.standing (p : Pkg) : List Nat × Nat := (p.live, p.mgmt.pstate)

/-- What a core's unit is doing, and its g registers. -/
def Core.vitals (c : Core) : CoreSt × FMap Double := (c.un.st, c.sca.g)

/-- The standing of the package, the current core's number, and the vitals of every core. -/
def State.vitals (s : State) : (List Nat × Nat) × Nat × (Nat → CoreSt × FMap Double) :=
  (s.pkg.standing, s.no, fun n => (s.coreAt n).vitals)

theorem State.vitals_coreAt {s t : State} (h : t.vitals = s.vitals) (n : Nat) : (t.coreAt n).vitals = (s.coreAt n).vitals :=
  congrFun (congrArg (fun v => v.2.2) h) n

theorem State.vitals_standing {s t : State} (h : t.vitals = s.vitals) : t.pkg.standing = s.pkg.standing := congrArg Prod.fst h

theorem State.vitals_no {s t : State} (h : t.vitals = s.vitals) : t.no = s.no := congrArg (fun v => v.2.1) h

theorem vitals_modPkg (s : State) {f : Pkg → Pkg} (h : (f s.pkg).standing = s.pkg.standing) : (s.modPkg f).vitals = s.vitals :=
  congrArg (fun q => (q, s.no, fun n => (s.coreAt n).vitals)) h

theorem vitals_setCore (s : State) {c : Core} (h : c.vitals = s.core.vitals) : ({ s with core := c } : State).vitals = s.vitals := by
  refine congrArg (fun v => (s.pkg.standing, s.no, v)) (funext fun n => ?_)
  simp only [State.coreAt]
  split
  · exact h
  · rfl

@[simp] theorem vitals_modLsu (s : State) (f : Lsu → Lsu) : (s.modLsu f).vitals = s.vitals := vitals_setCore s rfl
@[simp] theorem vitals_modEng (s : State) (f : Eng → Eng) : (s.modEng f).vitals = s.vitals := vitals_setCore s rfl
@[simp] theorem vitals_modTrp (s : State) (f : Trp → Trp) : (s.modTrp f).vitals = s.vitals := vitals_setCore s rfl
@[simp] theorem vitals_modVec (s : State) (f : Vec → Vec) : (s.modVec f).vitals = s.vitals := vitals_setCore s rfl
@[simp] theorem vitals_modTab (s : State) (f : Tab → Tab) : (s.modTab f).vitals = s.vitals := vitals_setCore s rfl

theorem vitals_modUn (s : State) {f : UnitSt → UnitSt} (h : (f s.core.un).st = s.core.un.st) : (s.modUn f).vitals = s.vitals :=
  vitals_setCore s (congrArg (fun x => (x, s.core.sca.g)) h)

@[simp] theorem vitals_perf (s : State) (k n : Nat) : (s.perf k n).vitals = s.vitals := vitals_modUn s rfl

theorem modCore_coreAt (s : State) (n k : Nat) (f : Core → Core) :
    (s.modCore n f).coreAt k = if k = n then f (s.coreAt n) else s.coreAt k := by
  unfold State.modCore
  by_cases hn : n = s.no
  · subst hn
    by_cases hk : k = s.no <;> simp [State.coreAt, hk]
  · rw [if_neg hn]
    by_cases hk : k = n
    · subst hk; simp [State.coreAt, hn]
    · simp [State.coreAt, hk, fget_fset]

@[simp] theorem modCore_pkg (s : State) (n : Nat) (f : Core → Core) : (s.modCore n f).pkg = s.pkg := by
  unfold State.modCore; split <;> rfl

@[simp] theorem modCore_no (s : State) (n : Nat) (f : Core → Core) : (s.modCore n f).no = s.no := by
  unfold State.modCore; split <;> rfl

/-- Two states with the same standing, current core and vitals of each core. -/
theorem State.vitals_eq {s t : State} (hp : t.pkg.standing = s.pkg.standing) (hn : t.no = s.no)
    (hc : ∀ n, (t.coreAt n).vitals = (s.coreAt n).vitals) : t.vitals = s.vitals := by
  unfold State.vitals; rw [hp, hn, funext hc]

theorem vitals_modCore (s : State) (n : Nat) {f : Core → Core} (h : ∀ c, (f c).vitals = c.vitals) : (s.modCore n f).vitals = s.vitals :=
  State.vitals_eq (by rw [modCore_pkg]) (modCore_no ..) fun k => by
    rw [modCore_coreAt]
    split
    · next hk => rw [h, hk]
    · rfl

@[simp] theorem switchTo_no (s : State) (n : Nat) : (s.switchTo n).no = n := by
  unfold State.switchTo; split
  · next h => exact h.symm
  · rfl

@[simp] theorem vitals_onCore (s : State) (n : Nat) {f : State → State} (h : ∀ t : State, (f t).vitals = t.vitals) :
    (s.onCore n f).vitals = s.vitals := by
  have hf := h (s.switchTo n)
  refine State.vitals_eq ?_ (switchTo_no ..) fun k => ?_
  · rw [State.onCore, switchTo_pkg, State.vitals_standing hf, switchTo_pkg]
  · rw [State.onCore, switchTo_coreAt, State.vitals_coreAt hf, switchTo_coreAt]

@[simp] theorem vitals_foldl {α : Type} {f : State → α → State} (h : ∀ s a, (f s a).vitals = s.vitals) (l : List α) (s : State) :
    (l.foldl f s).vitals = s.vitals := by
  induction l generalizing s with
  | nil => rfl
  | cons a l ih => rw [List.foldl_cons, ih, h]

theorem standing_foldl {α : Type} {f : Pkg → α → Pkg} (h : ∀ p a, (f p a).standing = p.standing) (l : List α) (p : Pkg) :
    (l.foldl f p).standing = p.standing := by
  induction l generalizing p with
  | nil => rfl
  | cons a l ih => rw [List.foldl_cons, ih, h]

/-! ### Memory, tables and the pool -/

@[simp] theorem standing_writeNat (p : Pkg) (pa n v : Nat) : (writeNat p pa n v).standing = p.standing := rfl

theorem allocHbm_standing {p q : Pkg} {n align a : Nat} (h : allocHbm p n align = some (a, q)) : q.standing = p.standing := by
  unfold allocHbm at h
  split at h
  · cases h
  · cases h; rfl

theorem setLeaf_standing (va target pte : Nat) : ∀ (ls : List (Nat × Nat × Bool)) (table : Nat) (p q : Pkg),
    setLeaf va target pte ls table p = some q → q.standing = p.standing
  | [], _, _, _, h => by cases h
  | (shift, n, b) :: ls, table, p, q, h => by
    unfold setLeaf at h
    dsimp only at h
    split at h
    · cases h; rfl
    split at h
    · split at h
      · cases h
      · exact setLeaf_standing va target pte ls _ p q h
    split at h
    · cases h
    · next t p' ha => exact ((setLeaf_standing va target pte ls _ _ q h).trans (standing_writeNat ..)).trans (allocHbm_standing ha)

@[simp] theorem standing_setExec (root : Nat) (x : Bool) (va len : Nat) (p : Pkg) : (setExec root x va len p).standing = p.standing := by
  refine standing_foldl (fun p i => ?_) _ p
  dsimp only
  split
  · rfl
  · next l _ =>
    cases h : setLeaf (va + 65536 * i) l.shift (l.pte / 32 * 32 + b2n x * 16 + l.pte % 16) walkLevels root p with
    | none => rfl
    | some q => exact setLeaf_standing _ _ _ _ _ _ _ h

@[simp] theorem standing_rebindSites (root : Nat) (o : Obj) (p : Pkg) : (rebindSites root o p).standing = p.standing := by
  refine standing_foldl (fun p x => ?_) _ p
  split <;> rfl

@[simp] theorem standing_rebindObj (o : Obj) (p : Pkg) : (rebindObj o p).standing = p.standing := by
  unfold rebindObj
  split
  · rfl
  · dsimp only
    split <;> simp

@[simp] theorem standing_rebindAll (p : Pkg) : (rebindAll p).standing = p.standing := standing_foldl (fun p o => standing_rebindObj o p) _ p

theorem linkChain_standing : ∀ (refs : List Nat) (p : Pkg), (linkChain refs p).standing = p.standing
  | [], _ => rfl
  | r :: rs, p => by
    rw [linkChain, linkChain_standing rs]
    split <;> rfl

@[simp] theorem standing_relink (p : Pkg) (pa : Nat) (refs : List Nat) : (relink p pa refs).standing = p.standing := by
  unfold relink
  split
  · exact linkChain_standing refs p
  · rfl

@[simp] theorem standing_putTags (c : Cmd) (p : Pkg) : (c.putTags p).standing = p.standing := by
  refine standing_foldl (fun p e => ?_) _ p
  dsimp only
  split <;> rfl

/-! ### Launches, levels and the log -/

@[simp] theorem vitals_modLaunch (s : State) (slot : Nat) (f : Launch → Launch) : (s.modLaunch slot f).vitals = s.vitals :=
  vitals_modPkg s (by split <;> rfl)
@[simp] theorem vitals_modGraph (s : State) (g : Nat) (f : Graph → Graph) : (s.modGraph g f).vitals = s.vitals :=
  vitals_modPkg s (by split <;> rfl)
@[simp] theorem vitals_modPhase (s : State) (job phase : Nat) (f : LevelSt → LevelSt) : (s.modPhase job phase f).vitals = s.vitals :=
  vitals_modPkg s (by split <;> rfl)
@[simp] theorem vitals_modJob (s : State) (job : Nat) (f : Job → Job) : (s.modJob job f).vitals = s.vitals :=
  vitals_modPkg s (by split <;> rfl)

@[simp] theorem vitals_launchAdd (s : State) (slot : Nat) (d : Int) : (s.launchAdd slot d).vitals = s.vitals := vitals_modLaunch ..
@[simp] theorem vitals_setStatus (s : State) (slot v : Nat) : (s.setStatus slot v).vitals = s.vitals := vitals_modLaunch ..
@[simp] theorem vitals_unitDone (s : State) (slot : Nat) (i : Option Nat) : (s.unitDone slot i).vitals = s.vitals := vitals_modLaunch ..
@[simp] theorem vitals_cancelLaunch (s : State) (slot : Nat) : (s.cancelLaunch slot).vitals = s.vitals := vitals_modLaunch ..

@[simp] theorem vitals_logGroup (s : State) (es : List (BitVec 256)) : (s.logGroup es).vitals = s.vitals := vitals_modPkg s rfl
@[simp] theorem vitals_logH (s : State) (phjob slot : Nat) (i : CauseInfo) : (s.logH phjob slot i).vitals = s.vitals := vitals_logGroup ..
@[simp] theorem vitals_logMemue (s : State) (i : CauseInfo) : (s.logMemue i).vitals = s.vitals := by
  unfold State.logMemue; split <;> simp

@[simp] theorem vitals_logAct (s : State) (c : Nat) : (s.logAct c).vitals = s.vitals := by
  unfold State.logAct; simp

@[simp] theorem vitals_notifyH (s : State) (slot phjob : Nat) (i : CauseInfo) : (s.notifyH slot phjob i).vitals = s.vitals := by
  unfold State.notifyH
  rw [vitals_logH]
  split
  · exact vitals_modPkg s rfl
  · rfl

@[simp] theorem vitals_pushQueue (s : State) (die prio : Nat) (q : QRec) : (s.pushQueue die prio q).vitals = s.vitals := vitals_modPkg s rfl
@[simp] theorem vitals_queueUnit (s : State) (die : Nat) (q : QRec) : (s.queueUnit die q).vitals = s.vitals := vitals_pushQueue ..

/-! ### Evaluations and chains -/

@[simp] theorem vitals_placeDie (s : State) (place pa trig slot : Nat) : (s.placeDie place pa trig slot).2.vitals = s.vitals := by
  unfold State.placeDie
  dsimp only
  split
  · split <;> rfl
  · split
    · exact vitals_modPkg s rfl
    · rfl

@[simp] theorem vitals_queueEval (s : State) (pa ref slot phjob trig : Nat) (spec : Bool) :
    (s.queueEval pa ref slot phjob trig spec).vitals = s.vitals := by
  unfold State.queueEval
  split <;> simp

@[simp] theorem vitals_dropBounds (s : State) (ref : Nat) : (s.dropBounds ref).vitals = s.vitals := by
  unfold State.dropBounds
  split
  · split
    · exact vitals_modPkg s rfl
    · rfl
  · rfl

@[simp] theorem vitals_orFar (s : State) (pa ref : Nat) (op : FarOp) {now : State → State} (h : ∀ t : State, (now t).vitals = t.vitals) :
    (s.orFar pa ref op now).vitals = s.vitals := by
  unfold State.orFar
  split
  · exact vitals_modPkg s rfl
  · exact h s

@[simp] theorem vitals_failEvalHere (pa ref : Nat) (s : State) : (failEvalHere pa ref s).vitals = s.vitals := by
  unfold failEvalHere
  split
  · rfl
  split
  · rfl
  split
  · exact vitals_modPkg s rfl
  split
  · rfl
  · dsimp only
    rw [vitals_queueEval]
    exact vitals_modPkg s rfl

@[simp] theorem vitals_failEval (s : State) (pa ref : Nat) : (s.failEval pa ref).vitals = s.vitals := vitals_orFar s pa ref _ (vitals_failEvalHere pa ref)

@[simp] theorem vitals_evalFailHere (pa ref : Nat) (s : State) : (evalFailHere pa ref s).vitals = s.vitals := by
  unfold evalFailHere
  split <;> simp

@[simp] theorem vitals_evalFail (s : State) (pa ref : Nat) : (s.evalFail pa ref).vitals = s.vitals := vitals_orFar s pa ref _ (vitals_evalFailHere pa ref)

@[simp] theorem vitals_failSpec (s : State) : s.failSpec.vitals = s.vitals := by
  unfold State.failSpec; split <;> simp

@[simp] theorem vitals_unlinkHere (pa ref : Nat) (s : State) : (unlinkHere pa ref s).vitals = s.vitals :=
  vitals_modPkg s (standing_relink ..)

@[simp] theorem vitals_unlink (s : State) (pa ref : Nat) : (s.unlink pa ref).vitals = s.vitals := by
  unfold State.unlink
  dsimp only
  rw [vitals_orFar _ _ _ _ (vitals_unlinkHere pa ref)]
  exact vitals_modPkg s (by split <;> rfl)

@[simp] theorem vitals_discardHere (pa ref : Nat) (s : State) : (discardHere pa ref s).vitals = s.vitals := by
  unfold discardHere
  split
  · split
    · exact vitals_modPkg s rfl
    · rfl
  · rfl

@[simp] theorem vitals_discardSpec (s : State) (dead : SpecFrom → Bool) : (s.discardSpec dead).vitals = s.vitals := by
  refine vitals_foldl (fun s x => ?_) _ s
  split
  · split
    · split
      · exact vitals_orFar s _ _ _ (vitals_discardHere _ _)
      · rfl
    · rfl
  · rfl

@[simp] theorem vitals_unpark (s : State) (ref : Nat) : (s.unpark ref).vitals = s.vitals := by
  unfold State.unpark
  split
  · split
    · exact vitals_unlink ..
    · exact vitals_modPkg s rfl
  · rfl

/-! ### Queued records -/

@[simp] theorem vitals_dropSaved (s : State) (i : Nat) : (s.dropSaved i).vitals = s.vitals := by
  unfold State.dropSaved
  rw [vitals_modJob]
  exact vitals_modPkg s rfl

@[simp] theorem vitals_retireRec (s : State) (q : QRec) : (s.retireRec q).vitals = s.vitals := by
  unfold State.retireRec
  split <;> split <;> simp

/-- A change of a core's run list. -/
theorem vitals_modRunList (s : State) (n : Nat) (f : List QRec → List QRec) :
    (s.modCore n fun c => c.modUnit fun u => { u with runList := f u.runList }).vitals = s.vitals := vitals_modCore s n fun _ => rfl

@[simp] theorem vitals_purge (s : State) (dead : QRec → Bool) : (s.purge dead).vitals = s.vitals := by
  unfold State.purge
  dsimp only
  rw [vitals_foldl vitals_retireRec, vitals_foldl fun s _ => vitals_modRunList s _ _]
  exact vitals_modPkg s rfl

@[simp] theorem vitals_purgeChains (s : State) (dead : Nat → Bool) : (s.purgeChains dead).vitals = s.vitals := by
  refine vitals_foldl (fun s x => ?_) _ s
  split
  · split
    · split
      · split
        · split
          · rfl
          · exact vitals_modPkg s (standing_relink ..)
        · dsimp only
          split <;> simp
      · rfl
    · rfl
  · rfl

/-! ### The commands of a collective -/

@[simp] theorem vitals_putCmd (s : State) (c : Cmd) : (s.putCmd c).vitals = s.vitals := vitals_modEng ..
@[simp] theorem vitals_writeOwn (s : State) (off : Nat) (bs : List Byte) : (s.writeOwn off bs).vitals = s.vitals := vitals_modPkg s rfl
@[simp] theorem vitals_putTransfer (s : State) (old t : Transfer) : (s.putTransfer old t).vitals = s.vitals := vitals_modPkg s rfl
@[simp] theorem vitals_dropTransfer (s : State) (t : Transfer) : (s.dropTransfer t).vitals = s.vitals := vitals_modPkg s rfl

@[simp] theorem vitals_putTagsOf (s : State) (c : Cmd) : (s.putTagsOf c).2.vitals = s.vitals := vitals_modPkg s (standing_putTags ..)

@[simp] theorem vitals_report (s : State) (info : CauseInfo) (tbun ord cmd : Nat) : (s.report info tbun ord cmd).1.vitals = s.vitals := by
  unfold State.report State.reportAs
  split
  · rfl
  · simp

@[simp] theorem vitals_orWait (s : State) (c : Cmd) (e : EFail) {fail : EFail → State → State} (h : ∀ e t, (fail e t).vitals = t.vitals) :
    (s.orWait c e fail).vitals = s.vitals := by
  unfold State.orWait
  split
  · exact h ..
  split
  · rfl
  · extract_lets since
    split
    · exact h ..
    · exact vitals_putCmd ..

/-- R331, R337: a failed command is replayed, or it is reported and ended, or it waits. -/
theorem vitals_replay_or_report {log : State → State} (hl : ∀ t : State, (log t).vitals = t.vitals) (info : CauseInfo) (replays : Prop)
    [Decidable replays] (n : Nat) (c ended : Cmd) (s : State) :
    (if replays then ((log (s.logMemue info)).putCmd c.restart).perf 14 1
      else if (s.report info c.tbun c.tl n).2 then (log (s.report info c.tbun c.tl n).1).putCmd ended else s.putCmd c).vitals = s.vitals := by
  split
  · simp [hl]
  · split <;> simp [hl]

@[simp] theorem vitals_settle (c : Cmd) (s : State) : (settle c s).vitals = s.vitals := by
  unfold settle
  split
  · dsimp only
    split
    · simp
    split
    · exact vitals_replay_or_report (log := id) (fun _ => rfl) ..
    · exact vitals_orWait _ _ _ fun _ t => vitals_replay_or_report (fun t => vitals_logAct t _) ..
  · rfl

@[simp] theorem vitals_failWith (c : Cmd) (f : EFail) (tstat : Nat) (s : State) : (failWith c f tstat s).vitals = s.vitals := by
  unfold failWith
  dsimp only
  rw [vitals_settle, vitals_putCmd]
  split <;> simp

@[simp] theorem vitals_writeStatus (c : Cmd) (v : Nat) (s : State) : (writeStatus c v s).vitals = s.vitals := by
  unfold writeStatus
  dsimp only
  split <;> simp

@[simp] theorem vitals_freezeCounters (canc : Bool) (c : Cmd) (s : State) : (freezeCounters canc c s).vitals = s.vitals := by
  unfold freezeCounters
  split
  · refine vitals_foldl (fun s t => ?_) _ s
    dsimp only
    split <;> simp
  · rfl

@[simp] theorem vitals_failMember (f : EFail) (c : Cmd) (s : State) : (failMember f c s).vitals = s.vitals := by
  simp [failMember]

@[simp] theorem vitals_cancelMember (c : Cmd) (s : State) : (cancelMember c s).vitals = s.vitals := by
  unfold cancelMember
  rw [vitals_putCmd, vitals_modPkg _ (standing_putTags ..), vitals_writeStatus, vitals_freezeCounters]

@[simp] theorem vitals_failTransfer (t : Transfer) (f : EFail) (s : State) : (failTransfer t f s).vitals = s.vitals := by
  unfold failTransfer
  rw [vitals_foldl, vitals_dropTransfer]
  intro s m
  split
  · exact vitals_onCore s _ (vitals_failMember f _)
  · rfl

@[simp] theorem vitals_checkTransfer (t : Transfer) (s : State) : (checkTransfer t s).vitals = s.vitals := by
  unfold checkTransfer; split <;> simp

/-- R282: the transfers that a loss fails. -/
@[simp] theorem vitals_failLostTransfers (s : State) : (failLostTransfers s).vitals = s.vitals :=
  vitals_foldl (fun s t => vitals_checkTransfer t s) _ s

@[simp] theorem vitals_leaveTransfer (t : Transfer) (r : Nat) (s : State) : (leaveTransfer t r s).vitals = s.vitals := by
  unfold leaveTransfer
  dsimp only
  split <;> simp

/-! ### Cancels -/

@[simp] theorem vitals_cancelOf (c : Cmd) (s : State) : (cancelOf c s).vitals = s.vitals := by
  unfold cancelOf
  split
  · extract_lets c s₁ off x ws
    have h₁ : s₁.vitals = s.vitals := vitals_putCmd ..
    split
    · exact h₁
    split
    · exact (vitals_putTransfer ..).trans h₁
    split
    · exact ((vitals_modPkg _ rfl).trans (vitals_putCmd ..)).trans h₁
    · exact h₁
  split
  · split <;> simp
  · rfl

@[simp] theorem vitals_cancelCore (n : Nat) (s : State) : (cancelCore n s).vitals = s.vitals := by
  refine vitals_onCore s n fun t => vitals_foldl (fun s c => ?_) _ t
  split <;> simp

theorem vitals_cancelCores (l : List (Nat × Core)) (s : State) : (l.foldl (fun s e => cancelCore e.1 s) s).vitals = s.vitals :=
  vitals_foldl (fun s e => vitals_cancelCore e.1 s) l s

/-- R318: a cancel of a level leaves the running units to their own kills. -/
@[simp] theorem vitals_cancelLevel (s : State) (lvl : Level) (id : Nat) : (s.cancelLevel lvl id).vitals = s.vitals := by
  unfold State.cancelLevel
  extract_lets
  refine (vitals_cancelCores ..).trans <| (vitals_discardSpec ..).trans <| (vitals_purge ..).trans <| (vitals_purgeChains ..).trans <|
    (vitals_foldl vitals_cancelLaunch ..).trans ?_
  cases lvl with
  | launch => rfl
  | graph => exact vitals_modGraph ..
  | phase => exact (vitals_modPkg _ rfl).trans (vitals_modPhase ..)
  | job => exact (vitals_modPkg _ rfl).trans (vitals_modJob ..)

/-! ### The launches of a lost die -/

@[simp] theorem vitals_takeLaunch (slot : Nat) (l : Launch) (i : CauseInfo) (s : State) : (takeLaunch slot l i s).vitals = s.vitals := by
  unfold takeLaunch
  dsimp only
  split
  · split <;> simp
  split
  · rw [vitals_modLaunch]
    split <;> simp
  · simp
  · simp

@[simp] theorem vitals_raiseLaunch (slot : Nat) (l : Launch) (i : CauseInfo) (s : State) : (raiseLaunch slot l i s).vitals = s.vitals := by
  unfold raiseLaunch; split <;> simp

/-- R315, R332: LOSTRUN. -/
@[simp] theorem vitals_lostRun (slot : Nat) (s : State) : (lostRun slot s).vitals = s.vitals := by
  unfold lostRun; split <;> simp

@[simp] theorem vitals_moveGrants (die slot : Nat) (s : State) : (moveGrants die slot s).vitals = s.vitals := by
  unfold moveGrants; split <;> simp

@[simp] theorem vitals_moveQueues (die : Nat) (s : State) : (moveQueues die s).vitals = s.vitals := by
  unfold moveQueues
  dsimp only
  rw [vitals_foldl fun s x => vitals_pushQueue ..]
  exact vitals_modPkg s rfl

@[simp] theorem vitals_regrant (slot : Nat) (l : Launch) (i : Nat) (q : QRec) (s : State) : (regrant slot l i q s).vitals = s.vitals := by
  unfold regrant
  exact vitals_modRunList s _ fun l => l ++ [{ q with since := s.clk }]

/-- R151, R315: a lost unit goes back to a queue or a run list, or is counted out. -/
@[simp] theorem vitals_requeueLost (q : QRec) (s : State) : (requeueLost q s).vitals = s.vitals := by
  unfold requeueLost
  dsimp only
  split
  · simp
  split
  · split
    · split <;> simp
    · split <;> simp
  · simp

/-- R355: a host port takes nothing but writes on their way. -/
@[simp] theorem losePort_coreAt (s : State) (port n : Nat) : ((s.losePort port).coreAt n).vitals = (s.coreAt n).vitals := by
  have other (m : FMap Core) : fget .reset (m.map fun e => (e.1, { e.2 with lsu := e.2.lsu.losePort port })) n =
      { fget Core.reset m n with lsu := (fget Core.reset m n).lsu.losePort port } := by
    induction m with
    | nil => rfl
    | cons e m ih =>
      obtain ⟨k, c⟩ := e
      simp only [List.map_cons, fget]
      split
      · rfl
      · exact ih
  unfold State.coreAt
  rw [show (s.losePort port).no = s.no from rfl]
  split
  · rfl
  · exact (congrArg Core.vitals (other s.others)).trans rfl

@[simp] theorem vitals_losePort (s : State) (port : Nat) : (s.losePort port).vitals = s.vitals :=
  State.vitals_eq rfl rfl (losePort_coreAt s port)

/-! ### The cores of a lost die -/

theorem vitals_applyIngress : ∀ (n : Nat) (s : State), (applyIngress n s).vitals = s.vitals
  | 0, _ => rfl
  | n + 1, s => by
    unfold applyIngress
    split
    · rfl
    · rw [vitals_applyIngress n, vitals_modLsu]
      exact vitals_modPkg s rfl

@[simp] theorem vitals_retireCore (s : State) : s.retireCore.vitals = s.vitals := by
  unfold State.retireCore
  split
  · rfl
  dsimp only
  split
  · rw [vitals_modUn _ rfl, vitals_modLsu, vitals_modTab, vitals_modVec]
    exact vitals_modPkg s rfl
  · exact vitals_modPkg s rfl

@[simp] theorem vitals_dropWait (s : State) : s.dropWait.vitals = s.vitals := by
  unfold State.dropWait; split <;> simp

@[simp] theorem vitals_countOut (s : State) : s.countOut.vitals = s.vitals := by
  unfold State.countOut
  dsimp only
  split <;> simp

/-- The end of a kill clears the current core, and touches no other. -/
theorem endKill_clears (info : CauseInfo) (tepc tbun ref : Nat) (s : State) :
    ∃ u : State, u.vitals = s.vitals ∧ endKill info tepc tbun ref s = { u with core := u.core.cleared } := by
  refine ⟨_, ?_, rfl⟩
  rw [vitals_retireCore, State.drainIngress, vitals_applyIngress, vitals_dropWait, vitals_countOut, vitals_logGroup, vitals_setStatus]
  split <;> simp

/-- A change of the current core leaves the others. -/
theorem setCore_coreAt_ne (s : State) (c : Core) {k : Nat} (h : k ≠ s.no) : ({ s with core := c } : State).coreAt k = s.coreAt k := by
  simp [State.coreAt, h]

/-- What is settled for a lost core leaves the standing of the package, the current core's number and every other core's vitals. -/
theorem settleLost_spares (n : Nat) (s : State) : (settleLost n s).pkg.standing = s.pkg.standing ∧ (settleLost n s).no = s.no ∧
    ∀ k, k ≠ n → ((settleLost n s).coreAt k).vitals = (s.coreAt k).vitals := by
  have of_vitals {t : State} (h : t.vitals = s.vitals) :
      t.pkg.standing = s.pkg.standing ∧ t.no = s.no ∧ ∀ k, k ≠ n → (t.coreAt k).vitals = (s.coreAt k).vitals :=
    ⟨State.vitals_standing h, State.vitals_no h, fun k _ => State.vitals_coreAt h k⟩
  unfold settleLost
  split
  · next info tepc tbun ref _ =>
    obtain ⟨u, hu, e⟩ := endKill_clears info tepc tbun ref (s.switchTo n)
    have hno : u.no = n := (State.vitals_no hu).trans (switchTo_no ..)
    rw [State.onCore, e]
    refine ⟨?_, switchTo_no .., fun k hk => ?_⟩
    · rw [switchTo_pkg]
      exact (State.vitals_standing hu).trans (by rw [switchTo_pkg])
    · rw [switchTo_coreAt, setCore_coreAt_ne u _ (hno ▸ hk), State.vitals_coreAt hu, switchTo_coreAt]
  · dsimp only
    split
    · exact of_vitals rfl
    · exact of_vitals (vitals_unpark ..)

theorem mem_dieCores {die n : Nat} : n ∈ dieCores die ↔ n / 64 = die := by
  simp only [dieCores, List.mem_map, List.mem_range]
  constructor
  · rintro ⟨i, hi, rfl⟩; omega
  · rintro rfl; exact ⟨n % 64, by omega, by omega⟩

/-- Settling the cores of a list spares every core outside it. -/
theorem settleLost_foldl_spares (l : List Nat) (s : State) :
    (l.foldl (fun s n => settleLost n s) s).pkg.standing = s.pkg.standing ∧
      ∀ k, k ∉ l → ((l.foldl (fun s n => settleLost n s) s).coreAt k).vitals = (s.coreAt k).vitals := by
  induction l generalizing s with
  | nil => exact ⟨rfl, fun _ _ => rfl⟩
  | cons n l ih =>
    obtain ⟨hp, hc⟩ := ih (settleLost n s)
    obtain ⟨hp₁, -, hc₁⟩ := settleLost_spares n s
    refine ⟨hp.trans hp₁, fun k hk => ?_⟩
    rw [List.mem_cons, not_or] at hk
    exact (hc k hk.2).trans (hc₁ k hk.1)

/-- The cores of a list are forgotten, and no other. -/
theorem eraseCore_foldl (l : List Nat) (s : State) : (l.foldl State.eraseCore s).pkg = s.pkg ∧
    ∀ k, (l.foldl State.eraseCore s).coreAt k = if k ∈ l then .reset else s.coreAt k := by
  induction l generalizing s with
  | nil => exact ⟨rfl, fun k => by simp⟩
  | cons n l ih =>
    obtain ⟨hp, hc⟩ := ih (s.eraseCore n)
    refine ⟨hp.trans (modCore_pkg ..), fun k => ?_⟩
    rw [List.foldl_cons, hc, State.eraseCore, modCore_coreAt]
    by_cases hl : k ∈ l
    · simp [hl]
    · by_cases hk : k = n <;> simp [hl, hk]

/-- R379: the cores of a lost die, settled and forgotten. -/
def clearLost (die : Nat) (s : State) : State :=
  (dieCores die).foldl State.eraseCore ((dieCores die).foldl (fun s n => settleLost n s) s)

theorem clearLost_standing (die : Nat) (s : State) : (clearLost die s).pkg.standing = s.pkg.standing := by
  rw [clearLost, (eraseCore_foldl _ _).1, (settleLost_foldl_spares _ s).1]

theorem clearLost_lost {die n : Nat} (h : n / 64 = die) (s : State) : (clearLost die s).coreAt n = .reset := by
  rw [clearLost, (eraseCore_foldl _ _).2, if_pos (mem_dieCores.2 h)]

theorem clearLost_other {die n : Nat} (h : n / 64 ≠ die) (s : State) : ((clearLost die s).coreAt n).vitals = (s.coreAt n).vitals := by
  have hn : n ∉ dieCores die := fun hm => h (mem_dieCores.1 hm)
  rw [clearLost, (eraseCore_foldl _ _).2, if_neg hn, (settleLost_foldl_spares _ s).2 n hn]

/-- R379: the end of a die's loss: its ports go down, the package has its new state, vector 17 names the die, and a command that runs ends. -/
def endLoss (die : Nat) (s : State) : State :=
  let s := s.modMgmt fun m =>
    { diePorts die m with
      declared := m.declared.filter (fun d => d ≠ die), pstate := lossState s.pkg.live.length m.pstate,
      quiesced := none, streaming := none, msix := m.msix ++ [17 + 64 * die] }
  if s.pkg.mgmt.busy then s.endCommand 37 [] else s

/-- Between the clearing of its cores and the end of a die's loss, no core's vitals change. -/
theorem dieLoss_of_live {die : Nat} {s : State} (h : s.pkg.live.contains die = true) :
    ∃ u : State, u.vitals = (clearLost die (s.modPkg fun p => { p with live := p.live.filter fun d => d ≠ die })).vitals ∧
      dieLoss die s = endLoss die u := by
  unfold dieLoss
  rw [if_neg (by rw [h]; decide)]
  extract_lets s₁ s₂ units s₃ s₄ s₅ s₆ s₇ failed s₈ s₉ s₁₀ s₁₁ s₁₂ s₁₃
  refine ⟨s₁₂, ?_, rfl⟩
  have h₃ : s₃ = clearLost die s₁ := rfl
  clear_value s₃ units
  have h₄ : s₄.vitals = s₃.vitals := vitals_foldl (fun s _ => vitals_dropSaved s _) _ s₃
  have h₅ : s₅.vitals = s₄.vitals := vitals_modPkg s₄ rfl
  have h₆ : s₆.vitals = s₅.vitals := vitals_failLostTransfers s₅
  have h₇ : s₇.vitals = s₆.vitals := (vitals_modPkg _ rfl).trans (vitals_moveQueues die s₆)
  have h₈ : s₈.vitals = s₇.vitals := vitals_foldl (fun s k => vitals_moveGrants die k s) _ s₇
  have h₉ : s₉.vitals = s₈.vitals := vitals_foldl (fun s q => vitals_requeueLost q s) _ s₈
  have h₁₀ : s₁₀.vitals = s₉.vitals := vitals_foldl (fun s k => vitals_lostRun k s) _ s₉
  have h₁₁ : s₁₁.vitals = s₁₀.vitals := vitals_modPkg s₁₀ (standing_rebindAll _)
  have h₁₂ : s₁₂.vitals = s₁₁.vitals := by
    simp only [s₁₂]
    split
    · exact vitals_losePort ..
    · rfl
  rw [h₁₂, h₁₁, h₁₀, h₉, h₈, h₇, h₆, h₅, h₄, h₃]

/-- What the end of a loss leaves and sets. -/
theorem endLoss_eq (die : Nat) (s : State) : (∀ n, (endLoss die s).coreAt n = s.coreAt n) ∧ (endLoss die s).pkg.live = s.pkg.live ∧
    (endLoss die s).pkg.mgmt.pstate = lossState s.pkg.live.length s.pkg.mgmt.pstate ∧ 17 + 64 * die ∈ (endLoss die s).pkg.mgmt.msix := by
  unfold endLoss
  dsimp only
  split
  · refine ⟨fun _ => rfl, rfl, rfl, ?_⟩
    exact List.mem_append_left _ (List.mem_append_right _ (List.mem_singleton_self _))
  · exact ⟨fun _ => rfl, rfl, rfl, List.mem_append_right _ (List.mem_singleton_self _)⟩

/-- R379: what the loss of a live die comes to. -/
theorem dieLoss_effect {die : Nat} {s : State} (h : s.pkg.live.contains die = true) :
    (dieLoss die s).pkg.live = s.pkg.live.filter (fun d => d ≠ die) ∧ (∀ n, n / 64 = die → ((dieLoss die s).coreAt n).un.st = .idle) ∧
    (dieLoss die s).pkg.mgmt.pstate = lossState (dieLoss die s).pkg.live.length s.pkg.mgmt.pstate ∧
    17 + 64 * die ∈ (dieLoss die s).pkg.mgmt.msix ∧ ∀ n, n / 64 ≠ die → ((dieLoss die s).coreAt n).sca.g = (s.coreAt n).sca.g := by
  obtain ⟨u, hu, e⟩ := dieLoss_of_live h
  obtain ⟨hcore, hlive, hstate, hmsix⟩ := endLoss_eq die u
  have hs := (State.vitals_standing hu).trans (clearLost_standing ..)
  have hl : u.pkg.live = s.pkg.live.filter fun d => d ≠ die := congrArg Prod.fst hs
  have hp : u.pkg.mgmt.pstate = s.pkg.mgmt.pstate := congrArg Prod.snd hs
  rw [e]
  refine ⟨hlive.trans hl, fun n hn => ?_, by rw [hstate, hlive, hp], hmsix, fun n hn => ?_⟩
  · have hv := State.vitals_coreAt hu n
    rw [clearLost_lost hn] at hv
    rw [hcore]
    exact congrArg Prod.fst hv
  · rw [hcore]
    exact congrArg Prod.snd ((State.vitals_coreAt hu n).trans (clearLost_other hn _))

/-! ### Bring-up (R372) -/

theorem bringUp_live (log : List (List (BitVec 256))) (s : State) :
    (bringUp log s).pkg.live = (List.range 9).filter fun d => !s.pkg.env.badDies.contains d := by
  refine List.filter_congr fun d hd => ?_
  have : d < 9 := List.mem_range.1 hd
  simp [this]

/-- The dies that work and those that do not are nine. -/
theorem bringUp_live_length (log : List (List (BitVec 256))) (s : State) :
    (bringUp log s).pkg.live.length + ((List.range 9).filter fun d => s.pkg.env.badDies.contains d).length = 9 := by
  have h := List.length_eq_countP_add_countP (fun d => s.pkg.env.badDies.contains d) (l := List.range 9)
  simp only [List.countP_eq_length_filter, List.length_range, Bool.not_eq_true, Bool.decide_eq_false] at h
  rw [bringUp_live, Nat.add_comm]
  exact h.symm

theorem diePorts_keeps (d : Nat) (m : Mgmt) :
    (diePorts d m).pstate = m.pstate ∧ (diePorts d m).mhz = m.mhz ∧ (diePorts d m).busy = m.busy := by
  unfold diePorts
  extract_lets m₁ k
  have h₁ : m₁.pstate = m.pstate ∧ m₁.mhz = m.mhz ∧ m₁.busy = m.busy := by
    simp only [m₁]
    split <;> exact ⟨rfl, rfl, rfl⟩
  split <;> exact h₁

theorem diePorts_foldl_keeps (l : List Nat) (m : Mgmt) : (l.foldl (fun m d => diePorts d m) m).pstate = m.pstate ∧
    (l.foldl (fun m d => diePorts d m) m).mhz = m.mhz ∧ (l.foldl (fun m d => diePorts d m) m).busy = m.busy := by
  induction l generalizing m with
  | nil => exact ⟨rfl, rfl, rfl⟩
  | cons d l ih =>
    obtain ⟨hp, hm, hb⟩ := ih (diePorts d m)
    obtain ⟨hp₁, hm₁, hb₁⟩ := diePorts_keeps d m
    exact ⟨hp.trans hp₁, hm.trans hm₁, hb.trans hb₁⟩

theorem bringUpMgmt_eq (m : Mgmt) (bad : List Nat) (log : List (List (BitVec 256))) :
    (bringUpMgmt m bad log).pstate = (if bad.length = 0 then 0 else if bad.length = 1 then 1 else 2) ∧
      (bringUpMgmt m bad log).mhz = 1700 ∧ (bringUpMgmt m bad log).busy = false :=
  diePorts_foldl_keeps bad _

/-- R372: HBM and the arrays are zero, and what lies above them is as it was. -/
theorem bringUp_readByte (log : List (List (BitVec 256))) (s : State) (a : Nat) :
    readByte (bringUp log s).pkg a = if a < 0xA_0000_0000_0000 then 0 else readByte s.pkg a := by
  refine (fget_fclear 0 s.pkg.mem 0 0xA_0000_0000_0000 a).trans ?_
  simp [readByte]

/-- R372, R373: the package after power-on reset. -/
theorem powerOnReset_effect (s : State) : ∃ t, exec .powerOnReset s = .next t ∧ t.core = .reset ∧ t.others = [] ∧ t.pkg.clk = 0 ∧
    t.pkg.gts = 0 ∧ t.pkg.queues = [] ∧ t.pkg.launches = [] ∧ t.pkg.jobs = [] ∧ t.pkg.objs = [] ∧ t.pkg.rings = [] ∧
    (∀ a, a < 0xA_0000_0000_0000 → readByte t.pkg a = 0) ∧ (∀ a, 0xA_0000_0000_0000 ≤ a → readByte t.pkg a = readByte s.pkg a) ∧
    (∀ d, d ∈ t.pkg.live ↔ d < 9 ∧ d ∉ s.pkg.env.badDies) ∧
    t.pkg.mgmt.pstate = (if t.pkg.live.length = 9 then 0 else if t.pkg.live.length = 8 then 1 else 2) ∧ t.pkg.mgmt.mhz = 1700 ∧
    t.pkg.mgmt.busy = false := by
  obtain ⟨hstate, hmhz, hbusy⟩ := bringUpMgmt_eq s.pkg.mgmt ((List.range 9).filter fun d => s.pkg.env.badDies.contains d) []
  have hlen := bringUp_live_length [] s
  refine ⟨bringUp [] s, rfl, rfl, rfl, rfl, rfl, rfl, rfl, rfl, rfl, rfl, fun a ha => ?_, fun a ha => ?_, fun d => ?_, ?_, hmhz, hbusy⟩
  · rw [bringUp_readByte, if_pos ha]
  · rw [bringUp_readByte, if_neg (by omega)]
  · rw [bringUp_live]; simp
  · refine hstate.trans ?_
    generalize ((List.range 9).filter fun d => s.pkg.env.badDies.contains d).length = n at hlen ⊢
    by_cases h₀ : n = 0
    · rw [if_pos h₀, if_pos (by omega)]
    by_cases h₁ : n = 1
    · rw [if_neg h₀, if_pos h₁, if_neg (by omega), if_pos (by omega)]
    · rw [if_neg h₀, if_neg h₁, if_neg (by omega), if_neg (by omega)]

/-! ### The clock, heat and heartbeats (R371, R379) -/

theorem clockChange_in_range {up : Bool} {s : State}
    (h : if up then s.pkg.mgmt.mhz + 25 ≤ 1700 ∧ 800 ≤ s.pkg.mgmt.mhz + 25 else 825 ≤ s.pkg.mgmt.mhz ∧ s.pkg.mgmt.mhz ≤ 1725) :
    exec (.clockChange up) s = .next (s.modMgmt fun m => { m with mhz := if up then m.mhz + 25 else m.mhz - 25, msix := m.msix ++ [18] }) := by
  have hn : 800 ≤ (if up then s.pkg.mgmt.mhz + 25 else s.pkg.mgmt.mhz - 25) ∧ (if up then s.pkg.mgmt.mhz + 25 else s.pkg.mgmt.mhz - 25) ≤ 1700 := by
    cases up <;> simp only [Bool.false_eq_true, if_false, if_true] at h ⊢ <;> omega
  exact congrArg Host.Outcome.next (if_pos hn)

/-- R371: a halted package issues nothing. -/
theorem bundleIssue_halted {s : State} (h : s.pkg.mgmt.pstate = 3) : exec .bundleIssue s = .next s :=
  if_pos (by simp [stopped, h])

theorem heartbeatMiss_declares {die : Nat} {s : State} (hl : s.pkg.live.contains die = true) (hd : die ∉ s.pkg.mgmt.declared) :
    exec (.heartbeatMiss die) s = .next (s.modMgmt fun m => { m with declared := m.declared ++ [die] }) :=
  congrArg Host.Outcome.next (if_pos ⟨hl, by simp [hd]⟩)

/-- Settles O50, by what each event leaves: a die's loss clears the cores of the die (`clearLost`), and from there to its end no step of it
changes the live dies, the state of the package, or the unit state and g registers of any core (`State.vitals`). -/
theorem packageEvents : Obligations.PackageEvents := by
  intro s
  refine ⟨powerOnReset_effect s, fun up h => clockChange_in_range h, ⟨thermalTrip s, rfl, rfl, rfl, rfl, bundleIssue_halted rfl⟩,
    fun die hl => ⟨heartbeatMiss_declares hl, fun _ => ⟨dieLoss die s, rfl, dieLoss_effect hl⟩⟩,
    fun a b => ⟨rfl, fun h => congrArg Host.Outcome.next (if_pos h), fun h => congrArg Host.Outcome.next (if_pos h)⟩⟩

end Sys2Proof.Machine

namespace Sys2Proof.Machine

/-! ### The state after reset (R41, R84, R133, R359, R372) -/

/-- R372: after bring-up every core, the current one among them, is at its reset values. -/
theorem coreAt_reset (n : Nat) : State.reset.coreAt n = Core.reset := by
  by_cases h : n = State.reset.no
  · exact if_pos h
  · exact if_neg h

/-- R84: g0 reads zero as every g register that nothing has written. -/
theorem greg_reset (n : Nat) : Core.reset.greg n = 0 := by
  by_cases h : n = 0
  · exact if_pos h
  · exact if_neg h

/-- R41, R344: special registers 0x008 to 0x00F are the generators of lane groups 0 to 7, and a group that nothing has seeded holds 1. -/
theorem readSpr_rngs (s : State) {n : Nat} (hlo : 0x008 ≤ n) (hhi : n ≤ 0x00F) :
    s.readSpr n = (fget 1 s.core.vec.rngs (n - 8)).setWidth 64 := by
  have hvmode : n ≠ 0x000 := by omega
  have hpbase : n ≠ 0x001 := by omega
  have hspst : n ≠ 0x002 := by omega
  have hlc : ¬ (0x004 ≤ n ∧ n ≤ 0x006) := by omega
  simp only [State.readSpr, if_neg hvmode, if_neg hpbase, if_neg hspst, if_neg hlc, if_pos (And.intro hlo hhi)]

/-- R133, R344: special register 0x010 is PHASECTL. -/
theorem readSpr_phasectl (s : State) : s.readSpr 0x010 = BitVec.ofNat 64 (phasectl s.core.lsu) := rfl

/-- R133: of PHASECTL only GROW (0x20 at bit 40) and SHRINK (0x04 at bit 32) reset to other than zero. -/
theorem phasectl_reset : phasectl Lsu.reset = 0x20 * 2 ^ 40 + 0x04 * 2 ^ 32 := rfl

/-- Settles O58. A map of the reset state lists nothing, so each of its keys reads as its default; what is left are the reset values of
the fields: RNGS is 1 in every lane group, and PHASECTL holds its two thresholds. -/
theorem resetState : Obligations.ResetState := by
  refine ⟨coreAt_reset, rfl, rfl, fun n => ⟨greg_reset n, rfl, rfl, rfl⟩, rfl, fun n hlo hhi => ?rngs, ?phase,
    fun _ => ⟨rfl, rfl, rfl, rfl⟩, rfl, rfl, rfl, fun _ => ⟨rfl, rfl, rfl, rfl⟩, fun _ => rfl, fun _ => rfl⟩
  case rngs =>
    rw [readSpr_rngs _ hlo hhi]
    rfl
  case phase =>
    rw [readSpr_phasectl]
    exact congrArg (BitVec.ofNat 64) phasectl_reset

end Sys2Proof.Machine
